-- ==== Sys2Proof/Word.lean ====
section
/-!
DEFINITION. The plain types of the model: words, sparse byte memories, the small closed enumerations of the
manual, and the operand structures that the commands of Syntax.lean carry.
Choices of the model, by log entry: 8 DESIGN CHOICE, 65 DESIGN CHOICE.
-/

namespace Sys2Proof

/-- A byte (R2: every multi-byte value is little-endian). -/
abbrev Byte := BitVec 8

/-- A 32-bit word: a vector lane, a scalar register, a binary32 pattern. -/
abbrev Word := BitVec 32

/-- A 64-bit word of a register, a mailbox field or a step number. -/
abbrev DWord := BitVec 64

/-- A sparse byte memory: address and byte pairs, addresses strictly rising, no entry equal to zero,
which is what an unlisted address reads as. -/
abbrev Mem := List Host.Cell

/-- The device states of R371 Table 1. -/
inductive DevState where
  | off | start | service | test | recovery | halt
  deriving DecidableEq, Repr

/-- The code STATE reports (R324, R371); OFF is never reported, because in OFF the device does not answer. -/
def DevState.code : DevState → Nat
  | .off => 0 | .start => 1 | .service => 2 | .test => 3 | .recovery => 4 | .halt => 5

/-- The storage formats of R18, in the code order of R47. -/
inductive Format where
  | f32 | f16 | bx8 | bx4 | ux8 | ux4 | int32 | int64
  deriving DecidableEq, Repr

/-- FORMAT codes of R47 Table 3. -/
def Format.ofCode (n : Nat) : Format :=
  match n % 8 with
  | 0 => .f32 | 1 => .f16 | 2 => .bx8 | 3 => .bx4 | 4 => .ux8 | 5 => .ux4 | 6 => .int32 | _ => .int64

/-- The code of a format in an object-table entry (R47). -/
def Format.code : Format → Nat
  | .f32 => 0 | .f16 => 1 | .bx8 => 2 | .bx4 => 3 | .ux8 => 4 | .ux4 => 5 | .int32 => 6 | .int64 => 7

/-- The roles of R47; codes 5 to 7 are reserved. -/
inductive Role where
  | activation | parameter | gradient | moment | other
  deriving DecidableEq, Repr

/-- Island power states of R82 Table 5; `refresh` is stack self-refresh. -/
inductive PowerState where
  | p0 | c1 | c2 | c3 | refresh
  deriving DecidableEq, Repr

/-- Grove roles of R111 Table 6. -/
inductive GroveRole where
  | inService | spare | suspect | retired
  deriving DecidableEq, Repr

/-- Firmware slot states of R362 Table 4. -/
inductive SlotState where
  | empty | valid | trial | active | failed
  deriving DecidableEq, Repr

/-- Whether a doorbell command is the host's ring or the Foreman's reading of the latch (R339). -/
inductive DoorbellPart where
  | ring | take
  deriving DecidableEq, Repr

/-- A host access: a read of so many bytes, or a write of these bytes. -/
inductive HostAccess where
  | read (size : Nat)
  | write (data : List Byte)
  deriving DecidableEq, Repr

/-- How a host request was completed: the data of a successful read, a completed write,
Unsupported Request, Completer Abort, or Configuration Request Retry Status (R321, R325, R374). -/
inductive Completion where
  | none
  | data (bytes : List Byte)
  | written
  | unsupported
  | abort
  | retry
  deriving DecidableEq, Repr

/-- The payload of a command whose layout the manual does not give: its fields, or the byte offset at which
the Foreman's check 6 of R341 (LENGTH and reserved fields) fails. -/
inductive Pay (α : Type) where
  | fields (x : α)
  | bad (offset : Nat)
  deriving DecidableEq, Repr

/-- What a device request to host memory brings back (R332). -/
inductive Fetch where
  | bytes (b : List Byte)
  | error (cause : Nat)
  deriving DecidableEq, Repr

/-- Configuration-space requests (R315): the identity header, the control bits that act in the device, BAR4's
size, and every other register. -/
inductive CfgRequest where
  | readIdentity
  | writeMsix (enable mask : Bool)
  | writeBusMaster (on : Bool)
  | writeBar4 (twoTiB : Bool)
  | writeSizes (maxPayload maxRead : Nat)
  | readLinkStatus
  | readSerial
  | readUnsupported
  | clearUnsupported
  | readOther (offset : Nat)
  | writeOther (offset : Nat) (value : Word)
  deriving DecidableEq, Repr

/-- The end of a condition that held MSI-X messages (R319). -/
inductive HoldEnd where
  | unmask (vector : Nat)
  | functionUnmask
  | enable
  | powered
  | linked
  deriving DecidableEq, Repr

/-- The two reset inputs of R393. -/
inductive ResetPin where
  | perst | resetL
  deriving DecidableEq, Repr

/-- What start-up meets outside the device's own state: the trained link, what the stacks and ports do, and
whether the sealing key came back (R374, R375, R365). -/
structure BootEnv where
  linkSpeed : Nat
  linkWidth : Nat
  bootMs : Nat
  sealCause : Nat
  referenceCause : Nat
  deriving DecidableEq, Repr

/-- The parts of the start-up sequence of R374 Table 3. -/
inductive StartPart where
  | release (pin : ResetPin)
  | boot (env : BootEnv)
  | ready
  | enter
  deriving DecidableEq, Repr

/-- The transfers that a host access error can end (R332). -/
inductive HostTransfer where
  | sluice (stream : Nat) (position : Nat)
  | transientTile (ctx object tile : Nat)
  | persistentTile (ctx object tile : Nat)
  | t3Write (ctx object : Nat)
  | spill (ctx sequence group position : Nat)
  | hostCopy (job : Nat)
  | image (mailbox : Nat)
  deriving DecidableEq, Repr

/-- One instance of a descriptor in the running step: micro-batch iteration, inner iteration, INDEX (R58). -/
structure InstId where
  mb : Nat
  it : Nat
  index : Nat
  deriving DecidableEq, Repr

/-- A staged piece of a firmware image (R363). -/
structure FwPiece where
  offset : Nat
  bytes : List Byte
  deriving DecidableEq, Repr

/-- REGISTER_HOST's fields (R331). -/
structure HostRange where
  address : Nat
  bytes : Nat
  deriving DecidableEq, Repr

/-- KV_CLOSE, KV_PIN and KV_UNPIN (R150): the table object, the entry, and for pins the head group and position. -/
structure KvName where
  table : Nat
  entry : Nat
  group : Nat
  position : Nat
  deriving DecidableEq, Repr

/-- SPILL_READ (R154). -/
structure SpillName where
  sequence : Nat
  position : Nat
  group : Nat
  deriving DecidableEq, Repr

/-- One replacement of UPDATE_PARAMS (R195). -/
structure ParamEntry where
  index : Nat
  lr : Word
  coef1 : Word
  coef2 : Word
  decay : Word
  tau : Word
  deriving DecidableEq, Repr

/-- JOB_OPEN's payload (R282). -/
structure JobBox where
  job : Nat
  ox : Nat
  oy : Nat
  oz : Nat
  ex : Nat
  ey : Nat
  ez : Nat
  mask : BitVec 8
  stage : Nat
  deriving DecidableEq, Repr

/-- CONFIGURE's payload (R301 Table 1). -/
structure ShoringCfg where
  job : Nat
  kData : Nat
  mParity : Nat
  hostCopy : Bool
  lambdaInit : Word
  hostRegion : Nat
  deriving DecidableEq, Repr

/-- RESTORE's payload (R348): job, lost member, region. -/
structure RestoreReq where
  job : Nat
  member : Nat
  region : Nat
  deriving DecidableEq, Repr

/-- One object of a secured state (R298): number, scale entry bits, VERSION and the current slot's bytes. -/
structure SecuredObj where
  object : Nat
  version : Nat
  scale : BitVec 256
  data : Mem
  deriving DecidableEq, Repr

/-- A secured state at a securing step, as a copy or a decoded rebuild delivers it (R298, R308, R311). -/
structure Secured where
  ctx : Nat
  step : Nat
  objects : List SecuredObj
  deriving DecidableEq, Repr

/-- A chunk of a stripe as a member of the group sends it (R298, R303, R305): stripe, member number, bytes. -/
structure StripeChunk where
  stripe : Nat
  member : Nat
  data : Mem
  deriving DecidableEq, Repr

/-- What a survivor fetches for a rebuild and the time it takes in µs (R305, R313). -/
structure Rebuild where
  fetched : List StripeChunk
  us : Nat
  deriving DecidableEq, Repr

/-- A shard object that its owners send back to a device that rejoins: VERSIONs, scale entry bits and both slots (R312). -/
structure ReturnedObj where
  object : Nat
  version : Nat
  prevVersion : Nat
  scale : BitVec 256
  data : Mem
  prev : Mem
  deriving DecidableEq, Repr

/-- The shards of a rejoining device and the step they are current at (R312). -/
structure Returned where
  step : Nat
  objects : List ReturnedObj
  deriving DecidableEq, Repr

/-- What a securing brings a member (R303, R312): the chunks it receives as a parity holder, whether every member has acknowledged,
and the shards that their owners send back to a device that rejoins. -/
structure SecuringArrival where
  received : List StripeChunk
  acknowledged : Bool
  returned : Option Returned
  deriving DecidableEq, Repr

/-- What a move into T1 meets: the lender whose tiles are lost (R245), and the coded bytes of the tiles that do not come back as
they were written (R240). -/
structure Arrival where
  lender : Option Nat
  tiles : List (Nat × List Byte)
  deriving DecidableEq, Repr

/-- A sample ring entry (R253); `reserved` holds bits [31:12], and above them bits [255:192]. -/
structure RingEntry where
  source : Nat
  slot : Nat
  length : Nat
  address : Nat
  tag : DWord
  reserved : Nat
  deriving DecidableEq, Repr

/-- What an AV1 decoder finds in a sequence of OBUs (R258, R260): what the sequence header declares, the operating point, the
largest frame, whether the bitstream has no error and one frame size throughout, and the codes of the shown frames in planar
order x, y, z, of luma and of both chroma planes at half the width and height, rounded up. -/
structure Picture where
  profile : Nat
  depth : Nat
  monochrome : Bool
  subsampled : Bool
  point : Nat
  maxWidth : Nat
  maxHeight : Nat
  valid : Bool
  oneSize : Bool
  x : Nat
  y : Nat
  z : Nat
  luma : List Nat
  cb : List Nat
  cr : List Nat
  deriving DecidableEq, Repr

/-- What the fetched bytes of a sample are: an AV1 sequence, or the bytes of any other sample (R259). -/
inductive Content where
  | av1 (p : Picture)
  | coded (bytes : List Byte)
  deriving DecidableEq, Repr

/-- A sample: whether its fetch succeeded, and what it holds. -/
structure Sample where
  fetched : Bool
  content : Content
  deriving DecidableEq, Repr

/-- A decoded sample: extents, binary32 values in planar order x, y, z, c, and how many of them were not finite (R35, R259). -/
structure Decoded where
  x : Nat
  y : Nat
  z : Nat
  c : Nat
  values : List Word
  nonfinite : Nat
  deriving DecidableEq, Repr

/-- A repair-map edit of REPAIR_EDIT (R385). -/
inductive RepairEdit where
  | setErasure (stack pch position : Nat)
  | clearErasure (stack pch : Nat)
  | retireFrame (stack pch frame : Nat)
  | restoreFrame (stack pch frame : Nat)
  deriving DecidableEq, Repr

/-- MARGIN's payload (R212): stack, parameter 1 to 4, lowest and highest setting in steps. -/
structure MarginReq where
  stack : Nat
  param : Nat
  lo : Int
  hi : Int
  deriving DecidableEq, Repr

/-- Lowest and highest setting with no error of one pin (R212 Table 4), none where the window is empty. -/
abbrev PinWindow := Option (Int × Int)

/-- TALLY_READ's payload (R389). -/
structure TallyReq where
  area : Nat
  first : Nat
  count : Nat
  deriving DecidableEq, Repr

/-- The SPDM transport of a request (R366). -/
inductive Transport where
  | doe | mctp
  deriving DecidableEq, Repr

/-- Causes of a power-stage shutdown (R411 Table 10, code 0x02F5). -/
inductive StageFault where
  | undervoltage | overvoltage | overcurrent | thermalTrip | vinPresentLost
  deriving DecidableEq, Repr

/-- The cause code in POWER_STAGE_FAULT (R411). -/
def StageFault.code : StageFault → Nat
  | .undervoltage => 1 | .overvoltage => 2 | .overcurrent => 3 | .thermalTrip => 4 | .vinPresentLost => 5

/-- The sensors of R406 Table 8. -/
inductive Sensor where
  | compute (die : Fin 4)
  | io
  | hbm (stack : Fin 16)
  | stage
  | inlet
  deriving DecidableEq, Repr

/-- The sensor number in a thermal record (R411). -/
def Sensor.code : Sensor → Nat
  | .compute _ => 1 | .io => 2 | .hbm _ => 3 | .stage => 4 | .inlet => 5

/-- The die or stack in a thermal record (R411). -/
def Sensor.index : Sensor → Nat
  | .compute d => d.val | .hbm s => s.val | _ => 0

/-- The parts of one run of a vector program (R114, R120). -/
inductive RunPart where
  | begin | finish | whole
  deriving DecidableEq, Repr

/-- The fields of a vector instruction word (R115 Table 2), the opcode being the command itself. -/
structure VFields where
  pred : BitVec 3
  zm : Bool
  d : BitVec 5
  a : BitVec 5
  b : BitVec 5
  c : BitVec 5
  imm : Word
  deriving DecidableEq, Repr

/-- A derived move of R243. -/
inductive MoveKind where
  | fetch | evict | narrow | writeBack
  deriving DecidableEq, Repr

/-- One participant's part in the norm collective (R184). -/
structure NormPart where
  device : Nat
  q : Word
  n : Nat
  nonfinite : Bool
  append : Bool
  tier : Bool
  deriving DecidableEq, Repr

/-- An owner's answer to a version confirmation (R197). -/
structure VersionAnswer where
  object : Nat
  owner : Nat
  known : Bool
  deriving DecidableEq, Repr

/-- The record of another device of the job for a scale entry (R29). -/
structure ScalePart where
  entry : Nat
  raw : Word
  stored : BitVec 16
  sat : Nat
  nonfiniteCount : Nat
  nonfinite : Bool
  deriving DecidableEq, Repr

/-- One burst read by patrol scrubbing or by an agent with symbols in error (R206 to R208): its address, and the error of each
symbol by its position, which is the power of x whose coefficient it is: check pins 0 to 3, data pin j at j + 4. -/
structure BurstError where
  address : Nat
  errors : List (Nat × Byte)
  deriving DecidableEq, Repr

/-- An accumulator pair (R97): two 48-bit accumulators that together hold a 96-bit two's-complement integer. -/
structure AccPair where
  low : BitVec 48 := 0
  high : BitVec 48 := 0
  deriving DecidableEq, Repr

/-- A pair as written and the residue that the checker keeps for it, the first time or in one recompute (R103, R105). -/
structure ResidueTrial where
  kept : BitVec 7
  pair : AccPair
  deriving DecidableEq, Repr

/-- An error that a grove meets: a residue check of a column's accumulator pair with its recomputes in order, a single-bit or
double-bit error of the grove store (R91), a parity error of the store path (R104) or of the vector engine (R121), another
fatal error of the island (R79). -/
inductive GroveError where
  | mismatch (column : Nat) (trials : List ResidueTrial)
  | storeSingle | storeDouble | storePath | vector | other
  deriving DecidableEq, Repr

/-- An error that a Sapling engine meets (R178, R179): a mismatch of a group's sum with its recomputes in order, the kept residue
of each and the sum; a parity error; another fatal error. -/
inductive SaplingError where
  | mismatch (trials : List (BitVec 7 × Int))
  | parity | other
  deriving DecidableEq, Repr

/-- An error of the memory and the base dies that an instance meets while it runs: a burst in error with the agent that reads it
(R207, R208, agents as MEM_UNCORRECTABLE numbers them), a correction by the core dies' own code (R201), a parity error of a Lode
engine's function (R223), the loss of a stack controller or of an I/O-die function (R80), a single-bit or double-bit error
of a line in a shared-cache slice (R214). -/
inductive HwFault where
  | burst (agent : Nat) (e : BurstError)
  | lode (stack : Fin 16) (function : Nat)
  | onDie (stack : Fin 16)
  | controller (stack : Fin 16)
  | slice (die : Fin 4) (n : Fin 16) (address : Nat) (double : Bool)
  | ioDie (island : Nat)
  deriving DecidableEq, Repr

/-- The end of an instance (R55) with the errors that it met. -/
structure Finished where
  inst : InstId
  met : List HwFault
  deriving DecidableEq, Repr

/-- The header of a class-0, class-2 or class-3 message (R280 Table 6). -/
structure ChunkHeader where
  job : Nat
  step : Nat
  collective : Nat
  chunk : Nat
  phase : Nat
  flags : BitVec 8
  source : Nat
  length : Nat
  deriving DecidableEq, Repr

/-- What a chunk's data bring with the tiles they hold (R180, R197): the VERSION at which a gathered shard was served, and which
of the chunk's tiles, counted from its first, have a source bit set. -/
structure ChunkInfo where
  version : Nat
  present : List Nat
  deriving DecidableEq, Repr

/-- A chunk's data with what comes with them. -/
structure ChunkData where
  info : ChunkInfo
  bytes : List Byte
  deriving DecidableEq, Repr

/-- A flit (R274 Table 3) with its payload kept as bytes. -/
structure Flit where
  kind : Nat
  cls : Nat
  last : Bool
  seq : Nat
  ack : Nat
  creditClass : Nat
  credits : Nat
  payload : List Byte
  crc : DWord
  deriving DecidableEq, Repr

/-- What an entry round compares (R286). -/
structure EntryInfo where
  device : Nat
  number : Nat
  opcode : Nat
  operation : Nat
  scope : Nat
  bytes : Nat
  deriving DecidableEq, Repr

/-- A tier-lending message from a near neighbour (R226): store tiles, fetch a tile, or free everything. -/
inductive LendOp where
  | learn (gib : Nat)
  | store (object tile : Nat) (data : List Byte)
  | fetch (object tile : Nat)
  | free
  deriving DecidableEq, Repr

/-- The island test results a self-test command meets (R379): island and signature. -/
abbrev Signatures := List (Nat × BitVec 128)

/-- What the participants of a job answer a joining device (R292, R282). -/
structure JoinAnswer where
  agree : Bool
  step : Nat
  deriving DecidableEq, Repr

/-- The far end's announcement when a link comes up (R272, R291). -/
structure FarEnd where
  device : Nat
  manifest : BitVec 256
  deriving DecidableEq, Repr

/-- What a failover finds (R278, R410). -/
structure FailoverEnv where
  joined : Bool
  conflict : Bool
  resent : Nat
  deriving DecidableEq, Repr

end Sys2Proof
end

