-- ==== Sys2Proof/Syntax.lean ====
section
/-!
DEFINITION. The commands of the block: one constructor per row of the opcode table, in the table's order.
A row whose summary names an event carries what the event brings from outside the device.
-/

namespace Sys2Proof

/-- The commands and events that the device takes, each whole and indivisible. -/
inductive Instr where
  /-- MBX_DOORBELL (R339). -/
  | mbxDoorbell (m : Fin 64) (part : DoorbellPart)
  /-- TIME_LO_READ (R7). -/
  | timeLoRead
  /-- SLUICE_PI_WRITE (R254). -/
  | sluicePiWrite (st : Fin 16) (v : DWord)
  /-- REGISTER_WRITE (R5). -/
  | registerWrite (offset : Nat) (data : List Byte)
  /-- ADIT_ACCESS (R326). -/
  | aditAccess (offset : Nat) (acc : HostAccess) (errs : List BurstError)
  /-- FULL_MAP_ACCESS (R320). -/
  | fullMapAccess (offset : Nat) (acc : HostAccess) (errs : List BurstError)
  /-- PLACEMENT_ACCESS (R328). -/
  | placementAccess (offset : Nat) (acc : HostAccess)
  /-- CONFIG_REQUEST (R374). -/
  | configRequest (req : CfgRequest)
  /-- UNSUPPORTED_REQUEST (R316). -/
  | unsupportedRequest
  /-- D3HOT_ENTRY (R317). -/
  | d3hotEntry
  /-- D0_RETURN (R317). -/
  | d0Return
  /-- BUS_MASTER_DISABLE (R332). -/
  | busMasterDisable
  /-- MSIX_HELD_RELEASE (R319). -/
  | msixHeldRelease (cause : HoldEnd)
  /-- FUNCTION_LEVEL_RESET (R335). -/
  | functionLevelReset
  /-- HOT_RESET (R335). -/
  | hotReset
  /-- LINK_DISABLE (R335). -/
  | linkDisable
  /-- RESET_ASSERT (R398). -/
  | resetAssert (pin : ResetPin) (timeLeft : Bool)
  /-- PERST_RELEASE (R374). -/
  | perstRelease (part : StartPart)
  /-- FW_TRIAL_TIMEOUT (R363). -/
  | fwTrialTimeout
  /-- DL_DOWN (R334). -/
  | dlDown (ltssm : Nat)
  /-- DL_UP (R319). -/
  | dlUp (speed : Nat) (width : Nat)
  /-- HOLD_OFF_EXPIRY (R334). -/
  | holdOffExpiry
  /-- LINK_RETRAINED (R318). -/
  | linkRetrained (speed : Nat) (width : Nat)
  /-- HOST_ACCESS_ERROR (R332). -/
  | hostAccessError (cause : Nat) (address : Nat) (tr : HostTransfer)
  /-- T3_SHORTFALL (R228). -/
  | t3Shortfall (bytes : Nat) (lag : Nat) (index : Option Nat) (object : Nat)
  /-- IDENTIFY (R348). -/
  | identify (m : Fin 64)
  /-- GROVE_STATUS (R111). -/
  | groveStatus (m : Fin 64) (p : Pay Nat)
  /-- STACK_STATUS (R224). -/
  | stackStatus (m : Fin 64) (p : Pay Nat)
  /-- ENTER_STATE (R372). -/
  | enterState (m : Fin 64) (p : Pay Nat)
  /-- FW_STAGE (R363). -/
  | fwStage (m : Fin 64) (p : Pay FwPiece)
  /-- FW_INSTALL (R363). -/
  | fwInstall (m : Fin 64) (p : Pay Nat)
  /-- FW_ACTIVATE (R363). -/
  | fwActivate (m : Fin 64) (p : Pay Nat)
  /-- FW_QUERY (R362). -/
  | fwQuery (m : Fin 64)
  /-- REGISTER_HOST (R331). -/
  | registerHost (m : Fin 64) (p : Pay HostRange)
  /-- UNREGISTER_HOST (R331). -/
  | unregisterHost (m : Fin 64) (p : Pay Nat)
  /-- ADIT_MAP (R326). -/
  | aditMap (m : Fin 64) (p : Pay Nat)
  /-- ADIT_UNMAP (R326). -/
  | aditUnmap (m : Fin 64) (p : Pay Nat)
  /-- PLACE_BIND (R328). -/
  | placeBind (m : Fin 64) (p : Pay (Nat × Nat))
  /-- PLACE_UNBIND (R330). -/
  | placeUnbind (m : Fin 64) (p : Pay Nat)
  /-- T3_PROBE (R228). -/
  | t3Probe (m : Fin 64) (p : Pay (Nat × Nat)) (out : Nat) (back : Nat)
  /-- SCALE_READ (R24). -/
  | scaleRead (m : Fin 64) (p : Pay (Nat × Nat))
  /-- KV_CLOSE (R150). -/
  | kvClose (m : Fin 64) (p : Pay KvName)
  /-- KV_PIN (R150). -/
  | kvPin (m : Fin 64) (p : Pay KvName)
  /-- KV_UNPIN (R150). -/
  | kvUnpin (m : Fin 64) (p : Pay KvName)
  /-- SPILL_READ (R154). -/
  | spillRead (m : Fin 64) (p : Pay SpillName)
  /-- CONTEXT_CREATE (R246). -/
  | contextCreate (m : Fin 64)
  /-- CONTEXT_RELEASE (R247). -/
  | contextRelease (m : Fin 64)
  /-- LOAD_IMAGE (R415). -/
  | loadImage (m : Fin 64) (fetch : Fetch)
  /-- UNLOAD_IMAGE (R348). -/
  | unloadImage (m : Fin 64) (p : Pay Nat)
  /-- SUBMIT (R65). -/
  | submit (m : Fin 64)
  /-- STEP_STATUS (R349). -/
  | stepStatus (m : Fin 64) (p : Pay (Nat × Nat))
  /-- UPDATE_PARAMS (R195). -/
  | updateParams (m : Fin 64) (p : Pay (Nat × List ParamEntry))
  /-- JOB_COUNTERS (R348). -/
  | jobCounters (m : Fin 64) (p : Pay Nat)
  /-- JOB_OPEN (R282). -/
  | jobOpen (m : Fin 64) (p : Pay JobBox)
  /-- JOIN (R292). -/
  | join (m : Fin 64) (p : Pay Nat) (peers : JoinAnswer)
  /-- LEAVE (R348). -/
  | leave (m : Fin 64) (p : Pay Nat)
  /-- PORT_STATUS (R348). -/
  | portStatus (m : Fin 64) (p : Pay Nat)
  /-- DRILL_START (R293). -/
  | drillStart (m : Fin 64)
  /-- DRILL_STOP (R293). -/
  | drillStop (m : Fin 64)
  /-- CONFIGURE (R301). -/
  | configure (m : Fin 64) (agree : Bool)
  /-- RESTORE (R311). -/
  | restore (m : Fin 64) (p : Pay RestoreReq) (copy : Option Secured)
  /-- SHORING_STATUS (R348). -/
  | shoringStatus (m : Fin 64) (p : Pay Nat)
  /-- OPEN (R250). -/
  | sluiceOpen (m : Fin 64)
  /-- CLOSE (R252). -/
  | sluiceClose (m : Fin 64) (p : Pay Nat)
  /-- SUBSTITUTE (R263). -/
  | substitute (m : Fin 64) (p : Pay (Nat × RingEntry)) (sample : Sample)
  /-- STATS (R267). -/
  | stats (m : Fin 64)
  /-- POWER_STATUS (R403). -/
  | powerStatus (m : Fin 64)
  /-- BIST_RUN (R382). -/
  | bistRun (m : Fin 64) (p : Pay (List Nat)) (sigs : Signatures)
  /-- BIST_RESULT (R383). -/
  | bistResult (m : Fin 64) (p : Pay Nat)
  /-- RETIRE (R384). -/
  | retire (m : Fin 64) (p : Pay Nat)
  /-- UNRETIRE (R385). -/
  | unretire (m : Fin 64) (p : Pay Nat)
  /-- REPAIR_EDIT (R385). -/
  | repairEdit (m : Fin 64) (p : Pay (List RepairEdit))
  /-- MARGIN (R212). -/
  | margin (m : Fin 64) (p : Pay MarginReq) (windows : List PinWindow)
  /-- TALLY_READ (R389). -/
  | tallyRead (m : Fin 64) (p : Pay TallyReq)
  /-- TALLY_CLEAR (R389). -/
  | tallyClear (m : Fin 64)
  /-- CONFIG_STAGE (R351). -/
  | configStage (m : Fin 64) (p : Pay (Nat × Nat))
  /-- CONFIG_COMMIT (R352). -/
  | configCommit (m : Fin 64) (p : Pay Nat)
  /-- CONFIG_READ (R353). -/
  | configRead (m : Fin 64) (p : Pay Nat)
  /-- CONFIG_DISCARD (R348). -/
  | configDiscard (m : Fin 64) (p : Pay Nat)
  /-- GET_VERSION (R366). -/
  | getVersion (tr : Transport)
  /-- GET_CAPABILITIES (R366). -/
  | getCapabilities (tr : Transport)
  /-- NEGOTIATE_ALGORITHMS (R366). -/
  | negotiateAlgorithms (tr : Transport) (mlDsa44 : Bool) (sha3 : Bool)
  /-- GET_DIGESTS (R366). -/
  | getDigests (tr : Transport)
  /-- GET_CERTIFICATE (R366). -/
  | getCertificate (tr : Transport) (slot : Nat) (offset : Nat) (length : Nat)
  /-- CHALLENGE (R366). -/
  | challenge (tr : Transport) (slot : Nat) (nonce : List Byte)
  /-- GET_MEASUREMENTS (R366). -/
  | getMeasurements (tr : Transport) (index : Nat) (nonce : List Byte)
  /-- GET_CSR (R367). -/
  | getCsr (tr : Transport)
  /-- SET_CERTIFICATE (R367). -/
  | setCertificate (tr : Transport) (slot : Nat) (chain : List Byte)
  /-- PRESENCE_BUTTON_PRESS (R368). -/
  | presenceButtonPress (heldNs : Nat)
  /-- PRESENCE_WINDOW_EXPIRY (R368). -/
  | presenceWindowExpiry
  /-- SERVICE_L_CHANGE (R397). -/
  | serviceLChange (held : Bool)
  /-- SHDN_REQ (R398). -/
  | shdnReq (asserted : Bool)
  /-- SHUTDOWN_BEGIN (R377). -/
  | shutdownBegin
  /-- SHUTDOWN_AFTER_STEPS (R377). -/
  | shutdownAfterSteps (sigs : Signatures) (ms : Nat)
  /-- POWER_APPLIED (R402). -/
  | powerApplied (mv : Nat)
  /-- VIN_PRESENT_LOST (R402). -/
  | vinPresentLost (mv : Nat)
  /-- INPUT_OUT_OF_RANGE (R400). -/
  | inputOutOfRange (mv : Nat) (heldNs : Nat)
  /-- INPUT_IN_RANGE (R400). -/
  | inputInRange (mv : Nat) (heldNs : Nat)
  /-- POWER_STAGE_SHUTDOWN (R400). -/
  | powerStageShutdown (cause : StageFault) (mv : Nat)
  /-- FAULT_LATCH_CLEAR (R400). -/
  | faultLatchClear (belowNs : Nat)
  /-- POWER_LIMIT (R403). -/
  | powerLimit (overSecond : Bool) (watts : Nat)
  /-- THERMAL_WARNING (R406). -/
  | thermalWarning (sensor : Sensor) (celsius : Nat)
  /-- THERMAL_LIMIT (R406). -/
  | thermalLimit (sensor : Sensor) (celsius : Nat)
  /-- THERMAL_TRIP (R406). -/
  | thermalTrip (sensor : Sensor) (celsius : Nat)
  /-- STEP_START (R69). -/
  | stepStart
  /-- CONTEXT_SWITCH (R246). -/
  | contextSwitch
  /-- STEP_COMPLETE (R353). -/
  | stepComplete
  /-- READMISSION (R87). -/
  | readmission
  /-- INSTANCE_COMPLETE (R55): the instance, and the errors that its reads and the engines it used have met. -/
  | instanceComplete (k : Finished)
  /-- MATMUL (R64). -/
  | matmul (i : InstId)
  /-- CONV (R164). -/
  | conv (i : InstId)
  /-- FILTER_LOAD (R176). -/
  | filterLoad (i : InstId)
  /-- ATTN_SCORE (R142). -/
  | attnScore (i : InstId)
  /-- ATTN_APPLY (R144). -/
  | attnApply (i : InstId)
  /-- KV_APPEND (R153). -/
  | kvAppend (i : InstId)
  /-- KV_SELECT (R158). -/
  | kvSelect (i : InstId)
  /-- VEC (R118). -/
  | vec (i : InstId)
  /-- VEC_RUN (R114). -/
  | vecRun (g : Fin 128) (i : InstId) (q : Nat) (part : RunPart)
  /-- UPDATE (R186). -/
  | update (i : InstId)
  /-- REDUCE (R285). -/
  | reduce (i : InstId)
  /-- GATHER (R284). -/
  | gather (i : InstId)
  /-- MOVE (R241). -/
  | move (i : InstId)
  /-- DERIVED_MOVE (R243). -/
  | derivedMove (kind : MoveKind) (object : Nat) (arrival : Arrival)
  /-- SLUICE_TAKE (R264). -/
  | sluiceTake (i : InstId)
  /-- RECOMPUTE (R53). -/
  | recompute (i : InstId)
  /-- SCALE_SYNC (R27). -/
  | scaleSync (i : InstId) (parts : List ScalePart)
  /-- BARRIER (R54). -/
  | barrier (i : InstId)
  /-- NORM_COLLECTIVE (R184). -/
  | normCollective (others : List NormPart)
  /-- VERSION_CONFIRM (R197). -/
  | versionConfirm (mb : Nat) (answers : List VersionAnswer)
  /-- ISLAND_SLEEP (R82): the island, and the gap, SRAM need and work in the gap that the Foreman's timeline holds for it; what
  happens depends on the island alone, because State holds that timeline. -/
  | islandSleep (island : Nat) (gap : Nat) (sramNeeded : Bool) (busyInGap : Bool)
  /-- ISLAND_WAKE (R83). -/
  | islandWake (island : Nat)
  /-- ARRAY_MISMATCH (R105): the grove, the array with its quadrant and the row, and what was met there. -/
  | arrayMismatch (g : Fin 128) (where_ : Nat) (row : Nat) (error : GroveError)
  /-- SPARE_WARM (R107). -/
  | spareWarm (g : Fin 128)
  /-- SAPLING_MISMATCH (R178): the engine's die, the position, group and descriptor, and what was met there. -/
  | saplingMismatch (die : Fin 4) (position : Nat) (group : Nat) (index : Nat) (error : SaplingError)
  /-- PATROL_SCRUB_SLICE (R210). -/
  | patrolScrubSlice (stack : Fin 16) (errs : List BurstError)
  /-- SAMPLE_START (R257). -/
  | sampleStart (st : Fin 16) (unit : Nat) (entry : RingEntry) (sample : Sample)
  /-- SAMPLE_STAGED (R262). -/
  | sampleStaged (st : Fin 16) (unit : Nat) (sample : Sample)
  /-- SAMPLE_OVERRUN (R261). -/
  | sampleOverrun (st : Fin 16) (unit : Nat)
  /-- SAMPLE_LATE (R257). -/
  | sampleLate (st : Fin 16) (position : Nat)
  /-- PORT_LINK_UP (R292). -/
  | portLinkUp (port : Fin 20) (credits : DWord)
  /-- MANIFEST_RECEIVE (R291). -/
  | manifestReceive (port : Fin 20) (far : FarEnd) (lendGib : Nat)
  /-- FLIT_SEND (R276). -/
  | flitSend (port : Fin 20) (cls : Nat) (last : Bool) (payload : List Byte)
  /-- FLIT_RECEIVE (R275). -/
  | flitReceive (port : Fin 20) (flit : Flit) (fecOk : Bool)
  /-- RETRY_REQUEST (R275). -/
  | retryRequest (port : Fin 20) (seq : Nat)
  /-- PORT_SILENCE (R277). -/
  | portSilence (port : Fin 20)
  /-- PORT_FAILED (R277). -/
  | portFailed (port : Fin 20) (env : FailoverEnv)
  /-- DRILL_PORT_DOWN_END (R294). -/
  | drillPortDownEnd (port : Fin 20)
  /-- CHUNK_RECEIVE (R281). -/
  | chunkReceive (h : ChunkHeader) (data : ChunkData)
  /-- CHUNK_ACK (R281). -/
  | chunkAck (h : ChunkHeader)
  /-- ENTRY_ROUND_MESSAGE (R286). -/
  | entryRoundMessage (job : Nat) (step : Nat) (parts : List EntryInfo) (waitNs : Nat)
  /-- JOB_OPEN_COMPARE (R282). -/
  | jobOpenCompare (device : Nat) (box : JobBox) (shoring : Option ShoringCfg)
  /-- STAGE_PLAN_PUBLISH (R290). -/
  | stagePlanPublish (job : Nat) (stage : Nat) (times : List Nat)
  /-- SECURING_ANNOUNCE (R302). -/
  | securingAnnounce (job : Nat) (step : Nat)
  /-- SECURING (R303): the job, what the securing brings, and whether the host copy was written. -/
  | securing (job : Nat) (arrival : SecuringArrival) (hostOk : Bool)
  /-- MEMBER_FAILED (R305). -/
  | memberFailed (job : Nat) (device : Nat) (answered : Bool)
  /-- FAILURE_ANNOUNCE (R305): the job and the device, the chunks that a survivor fetches for its rebuild, and its time in µs. -/
  | failureAnnounce (job : Nat) (device : Nat) (fetched : List StripeChunk) (us : Nat)
  /-- REENCODING_ANNOUNCE (R309). -/
  | reencodingAnnounce (job : Nat) (step : Nat)
  /-- HDR (R117). -/
  | hdr (g : Fin 128) (w : DWord)
  /-- LOOP (R133). -/
  | vloop (g : Fin 128) (f : VFields)
  /-- ENDLOOP (R133). -/
  | vendloop (g : Fin 128) (f : VFields)
  /-- NOP (R124). -/
  | vnop (g : Fin 128) (f : VFields)
  /-- IADD (R124). -/
  | iadd (g : Fin 128) (f : VFields)
  /-- ISUB (R124). -/
  | isub (g : Fin 128) (f : VFields)
  /-- IMUL (R124). -/
  | imul (g : Fin 128) (f : VFields)
  /-- IMIN (R124). -/
  | imin (g : Fin 128) (f : VFields)
  /-- IMAX (R124). -/
  | imax (g : Fin 128) (f : VFields)
  /-- AND (R124). -/
  | vand (g : Fin 128) (f : VFields)
  /-- OR (R124). -/
  | vor (g : Fin 128) (f : VFields)
  /-- XOR (R124). -/
  | vxor (g : Fin 128) (f : VFields)
  /-- SHL (R124). -/
  | shl (g : Fin 128) (f : VFields)
  /-- SHR (R124). -/
  | shr (g : Fin 128) (f : VFields)
  /-- SRA (R124). -/
  | sra (g : Fin 128) (f : VFields)
  /-- IADDI (R124). -/
  | iaddi (g : Fin 128) (f : VFields)
  /-- MOVI (R124). -/
  | movi (g : Fin 128) (f : VFields)
  /-- MOVS (R124). -/
  | movs (g : Fin 128) (f : VFields)
  /-- LANEID (R124). -/
  | laneid (g : Fin 128) (f : VFields)
  /-- MOV (R124). -/
  | vmov (g : Fin 128) (f : VFields)
  /-- SMOVI (R124). -/
  | smovi (g : Fin 128) (f : VFields)
  /-- SADD (R124). -/
  | sadd (g : Fin 128) (f : VFields)
  /-- SADDI (R124). -/
  | saddi (g : Fin 128) (f : VFields)
  /-- SSUB (R124). -/
  | ssub (g : Fin 128) (f : VFields)
  /-- SMUL (R124). -/
  | smul (g : Fin 128) (f : VFields)
  /-- SSHLI (R124). -/
  | sshli (g : Fin 128) (f : VFields)
  /-- SSHRI (R124). -/
  | sshri (g : Fin 128) (f : VFields)
  /-- SAND (R124). -/
  | sand (g : Fin 128) (f : VFields)
  /-- SOR (R124). -/
  | sor (g : Fin 128) (f : VFields)
  /-- FADD (R125). -/
  | fadd (g : Fin 128) (f : VFields)
  /-- FSUB (R125). -/
  | fsub (g : Fin 128) (f : VFields)
  /-- FMUL (R125). -/
  | fmul (g : Fin 128) (f : VFields)
  /-- FMA (R125). -/
  | fma (g : Fin 128) (f : VFields)
  /-- FMIN (R125). -/
  | fmin (g : Fin 128) (f : VFields)
  /-- FMAX (R125). -/
  | fmax (g : Fin 128) (f : VFields)
  /-- FABS (R125). -/
  | fabs (g : Fin 128) (f : VFields)
  /-- FNEG (R125). -/
  | fneg (g : Fin 128) (f : VFields)
  /-- FSQRT (R125). -/
  | fsqrt (g : Fin 128) (f : VFields)
  /-- FRCP (R125). -/
  | frcp (g : Fin 128) (f : VFields)
  /-- FRSQRT (R125). -/
  | frsqrt (g : Fin 128) (f : VFields)
  /-- FMULI (R125). -/
  | fmuli (g : Fin 128) (f : VFields)
  /-- FEXP (R125). -/
  | fexp (g : Fin 128) (f : VFields)
  /-- FEXP2 (R125). -/
  | fexp2 (g : Fin 128) (f : VFields)
  /-- FLOG (R125). -/
  | flog (g : Fin 128) (f : VFields)
  /-- FLOG2 (R125). -/
  | flog2 (g : Fin 128) (f : VFields)
  /-- FSIN (R125). -/
  | fsin (g : Fin 128) (f : VFields)
  /-- FCOS (R125). -/
  | fcos (g : Fin 128) (f : VFields)
  /-- FTANH (R125). -/
  | ftanh (g : Fin 128) (f : VFields)
  /-- FSIG (R125). -/
  | fsig (g : Fin 128) (f : VFields)
  /-- FERF (R125). -/
  | ferf (g : Fin 128) (f : VFields)
  /-- FCMP (R125). -/
  | fcmp (g : Fin 128) (f : VFields)
  /-- ICMP (R125). -/
  | icmp (g : Fin 128) (f : VFields)
  /-- UCMP (R125). -/
  | ucmp (g : Fin 128) (f : VFields)
  /-- SEL (R125). -/
  | sel (g : Fin 128) (f : VFields)
  /-- PAND (R125). -/
  | pand (g : Fin 128) (f : VFields)
  /-- POR (R125). -/
  | por (g : Fin 128) (f : VFields)
  /-- PNOT (R125). -/
  | pnot (g : Fin 128) (f : VFields)
  /-- PLT (R125). -/
  | plt (g : Fin 128) (f : VFields)
  /-- PCNT (R125). -/
  | pcnt (g : Fin 128) (f : VFields)
  /-- CVTIF (R126). -/
  | cvtif (g : Fin 128) (f : VFields)
  /-- CVTFI (R126). -/
  | cvtfi (g : Fin 128) (f : VFields)
  /-- SCALE (R126). -/
  | vscale (g : Fin 128) (f : VFields)
  /-- CVTFH (R126). -/
  | cvtfh (g : Fin 128) (f : VFields)
  /-- CVTHF (R126). -/
  | cvthf (g : Fin 128) (f : VFields)
  /-- QBLK (R126). -/
  | qblk (g : Fin 128) (f : VFields)
  /-- DQBLK (R126). -/
  | dqblk (g : Fin 128) (f : VFields)
  /-- PACK (R126). -/
  | pack (g : Fin 128) (f : VFields)
  /-- UNPACK (R126). -/
  | unpack (g : Fin 128) (f : VFields)
  /-- RSUM (R131). -/
  | rsum (g : Fin 128) (f : VFields)
  /-- RMAX (R131). -/
  | rmax (g : Fin 128) (f : VFields)
  /-- RIADD (R131). -/
  | riadd (g : Fin 128) (f : VFields)
  /-- RIMAX (R131). -/
  | rimax (g : Fin 128) (f : VFields)
  /-- SCAN (R131). -/
  | scan (g : Fin 128) (f : VFields)
  /-- SHUF (R126). -/
  | shuf (g : Fin 128) (f : VFields)
  /-- ROT (R126). -/
  | rot (g : Fin 128) (f : VFields)
  /-- LANE (R126). -/
  | lane (g : Fin 128) (f : VFields)
  /-- INS (R126). -/
  | vins (g : Fin 128) (f : VFields)
  /-- LD (R128). -/
  | vld (g : Fin 128) (f : VFields)
  /-- ST (R128). -/
  | vst (g : Fin 128) (f : VFields)
  /-- LDQ (R130). -/
  | ldq (g : Fin 128) (f : VFields)
  /-- STQ (R130). -/
  | stq (g : Fin 128) (f : VFields)
  /-- LDS (R130). -/
  | lds (g : Fin 128) (f : VFields)
  /-- STS (R130). -/
  | sts (g : Fin 128) (f : VFields)
  /-- LDX (R130). -/
  | ldx (g : Fin 128) (f : VFields)
  /-- STX (R130). -/
  | stx (g : Fin 128) (f : VFields)
  /-- CTR (R132). -/
  | ctr (g : Fin 128) (f : VFields)
  /-- CTR4 (R132). -/
  | ctr4 (g : Fin 128) (f : VFields)
  /-- UNIF (R132). -/
  | unif (g : Fin 128) (f : VFields)
  /-- PRESENCE_BUTTON_RELEASE (R368). -/
  | presenceButtonRelease (heldNs : Nat)
  /-- FOREMAN_FATAL (R373). -/
  | foremanFatal
  /-- TIER_LENDING (R226). -/
  | tierLending (port : Fin 7) (op : LendOp)
  /-- VERSION_CONFIRM_REQUEST (R197). -/
  | versionConfirmRequest (device : Nat) (ctx : Nat) (mb : Nat) (object : Nat) (version : Nat)
  /-- LEAVE_NOTICE (R377). -/
  | leaveNotice (job : Nat) (device : Nat)
  /-- JOB_STEP_QUERY (R292). -/
  | jobStepQuery (job : Nat) (device : Nat) (box : JobBox)
  /-- MEMBER_QUERY (R305). -/
  | memberQuery (job : Nat) (device : Nat)
  /-- FAILOVER_EXCHANGE (R278). -/
  | failoverExchange (port : Fin 20) (device : Nat) (env : FailoverEnv)
  /-- DOE_DISCOVERY (R315). -/
  | doeDiscovery (index : Nat)
  /-- DYNAMIC_ADDRESS_ASSIGNMENT (R396). -/
  | dynamicAddressAssignment (address : BitVec 7)
  deriving DecidableEq, Repr

end Sys2Proof
end

