-- ==== Sys2Proof/Decode.lean ====
section
/-!
DEFINITION. The decoder of table words. The opcode table gives no row any bits.
Choices of the model, by log entry: 4 DESIGN CHOICE.
-/

namespace Sys2Proof

/-- The command a word of the opcode table spells: none, since no row of the table gives bits. The 64-bit
vector instruction words of R115 are read by Machine/Operands.lean, from a step image's programs. -/
def decodeTableWord (_nbits _w : Nat) : Option Instr := none

end Sys2Proof
end

