-- ==== Sys2Proof/Config.lean ====
section
/-!
DEFINITION. What the manual leaves open, as constants with no body. No proof can see a value of one, so a
claim that mentions one holds whatever it is. Each is named in an assumption log row.
Choices of the model, by log entry: 3 DESIGN CHOICE, 8 DESIGN CHOICE, 16 DESIGN CHOICE, 18 DESIGN CHOICE, 19 DEDUCED,
20 DESIGN CHOICE, 21 DESIGN CHOICE, 23 DESIGN CHOICE, 29 DEDUCED, 34 DEDUCED, 48 PRESUMED.
-/

namespace Sys2Proof

/-- A fresh free value: the model's counter and a tag give an unconstrained number. -/
opaque Config.free : Nat → Nat → Nat

/-- The firmware image in slot 0 at manufacture (R362), whose bytes the manual does not give. -/
opaque Config.factoryImage : List Byte

/-- The certificate chain of slot 0 (R364), issued at manufacture. -/
opaque Config.deviceChain : List Byte

/-- The byte of the request page at which field k stands, for an opcode whose payload the manual names but does not lay out
(R341, R348): what DETAIL gives when that field fails. -/
opaque Config.payloadByte : Nat → Nat → Nat

/-- SHA3-256 (R291, R359, R366), an uninterpreted function of the bytes. -/
opaque Config.sha3 : List Byte → BitVec 256

/-- ML-DSA-44 verification of FIPS 204 (R359): public key, message, signature. -/
opaque Config.mlDsaVerify : List Byte → List Byte → List Byte → Bool

/-- ML-DSA-44 signing with the module's identity key (R366), which never leaves the device. -/
opaque Config.mlDsaSign : List Byte → List Byte

/-- The four mask-ROM hashes of R360. -/
opaque Config.romKeyHash : Nat → BitVec 256

/-- The digest of the mask-ROM code (measurement 1 of R366). -/
opaque Config.romDigest : BitVec 256

/-- The low 64 bits of the serial of the identity certificate, the Device Serial Number (R315, R364). -/
opaque Config.certificateSerial : BitVec 64

/-- Utastra's PCI-SIG vendor ID (R315). -/
opaque Config.vendorId : BitVec 16

/-- Configuration-space registers that the PCI Express specification lays out, not this manual (R315). -/
opaque Config.cfgRegister : Nat → Word

/-- The encoding of an SPDM response body the SPDM specification lays out, not this manual (R366). -/
opaque Config.spdmBody : Nat → List Byte → List Byte

/-- The reference table's MISR signature of an island (R379). -/
opaque Config.misrReference : Nat → BitVec 128

/-- How the Foreman spreads its allocations over a stack's frames (R203, R230), by placement epoch and stack. -/
opaque Config.frameOrder : Nat → Nat → Nat

/-- The payload bits of a NaN result, which binary32 arithmetic does not fix (R36). -/
opaque Config.nanBits : Word → Word → Word

/-- The vector functions of R125 inside their error bounds (R42): function number 0 to 10, operand. -/
opaque Config.vectorFn : Nat → Word → Word

/-- The Lode engine's own normalised probability, as an offset in units of 2^-40 of the exact value (R43). -/
opaque Config.lodeProb : Nat → Nat → Int

/-- The bytes a miscorrected burst delivers (R208). -/
opaque Config.rsMiscorrect : Nat → Nat → Byte

/-- The Foreman's preference among equally suitable free groves (R50: GROVES names no particular grove). -/
opaque Config.grovePreference : Nat → Nat → Nat

/-- The worst-case power in W of a placed item by its opcode and the number of its groves, of an awake island, and of all that a
schedule does not hold (R75: the manual gives limits, and no figure of an instance). -/
opaque Config.itemWatts : Nat → Nat → Nat
opaque Config.islandWatts : Nat → Nat
opaque Config.otherWatts : Nat

/-- The fourth root that R192 divides a factor's root by, to which no rule gives an accuracy. -/
opaque Config.fourthRoot : Word → Word

end Sys2Proof
end

