-- ==== Sys2Proof/Machine/State.lean ====
section
/-!
DEFINITION. The state of the device as plain data, the two closed reason types, and the state right after reset.
Every field names the rule of the manual that gives it; the model's own fields say so.
Choices of the model, by log entry: 1 DESIGN CHOICE, 4 DESIGN CHOICE, 9 DESIGN CHOICE, 16 DESIGN CHOICE, 40 DESIGN
CHOICE, 64 DESIGN CHOICE, 66 DEDUCED.
-/

namespace Sys2Proof.Machine

/-- Reasons to stop with a fault. No meaning raises one: HALT is a state of the device (R371), and every
event of the table leaves a state. Safe. -/
inductive Fault where
  /-- Raised by nobody; it keeps the type inhabited for the host's interface. Safe. -/
  | unused
  deriving DecidableEq, Repr

/-- Reasons to refuse. -/
inductive Refusal where
  /-- Raised by exec's arm of a command that has no meaning yet. Safe. -/
  | notModelled (mnemonic : String)
  deriving DecidableEq, Repr

/-- A Tally record (R386). -/
structure TallyRec where
  code : Nat
  source : Nat
  severity : Nat
  time : Nat
  repeats : Nat
  seq : Nat
  p0 : Nat
  p1 : Nat
  p2 : Nat
  p3 : Nat
  deriving DecidableEq, Repr

/-- The Tally's volatile areas (R388): SEQUENCE counter, boot area by index, ring oldest first. -/
structure Tally where
  count : Nat := 0
  boot : List TallyRec := []
  ring : List TallyRec := []
  deriving DecidableEq, Repr

/-- Module inputs, outputs, sensors and power stage (R392 to R410). -/
structure Board where
  vinMv : Nat := 52000
  vinPresent : Bool := true
  pwrGood : Bool := true
  inRange : Bool := true
  outSince : Nat := 0
  faultLatch : Bool := false
  shdnDone : Bool := false
  perst : Bool := false
  resetL : Bool := false
  shdnReq : Bool := false
  serviceL : Bool := false
  straps : BitVec 3 := 7
  position : BitVec 3 := 7
  armed : Bool := true
  window : Option Nat := none
  compute : List Nat := [25, 25, 25, 25]
  io : Nat := 25
  hbm : List Nat := List.replicate 16 25
  stage : Nat := 25
  inlet : Nat := 25
  currentMa : Nat := 0
  watts1s : Nat := 0
  watts20ms : Nat := 0
  target : Nat := 0xFF
  joined : Bool := false
  conflict : Bool := false
  i3c : Option (BitVec 7) := none
  deriving DecidableEq, Repr

/-- The device's own state (R324, R371 to R377). `stage` is how far start-up has come: 0 held in OFF, 1 from
the release, 2 configuration ready, 3 BAR0 and mailboxes enabled, 4 done. -/
structure Device where
  state : DevState := .start
  stage : Nat := 1
  startedAt : Nat := 0
  lastFatal : Nat := 0
  monitor : Bool := false
  foremanDead : Bool := false
  target : Option DevState := none
  shutAsked : Bool := false
  shutStep : Nat := 0
  shutBy : Option Nat := none
  shutAt : Nat := 0
  identity : Bool := true
  reference : Bool := true
  referenceCause : Nat := 0
  stale : Bool := false
  classP : Nat := 0
  booted : Nat := 0
  bootMs : Nat := 0
  trial : Bool := false
  deriving DecidableEq, Repr

/-- One MSI-X table entry (R322). -/
structure MsixEntry where
  address : DWord := 0
  data : Word := 0
  masked : Bool := true
  deriving DecidableEq, Repr

/-- The host link and the function's PCI Express state (R314 to R321, R334); `aer` is what AER has logged of Unsupported Requests. -/
structure Link where
  up : Bool := true
  speed : Nat := 128
  width : Nat := 16
  downAt : Nat := 0
  d3hot : Bool := false
  busMaster : Bool := true
  msixEnable : Bool := false
  funcMask : Bool := false
  bar4Two : Bool := true
  maxPayload : Nat := 128
  maxRead : Nat := 512
  table : List MsixEntry := List.replicate 64 {}
  pendingBits : List Bool := List.replicate 64 false
  sent : List Nat := []
  aer : Bool := false
  deriving DecidableEq, Repr

/-- BAR0 registers with storage of their own (R322), and the last completion delivered to the host. -/
structure Regs where
  timeHi : Word := 0
  aditBase : DWord := 0
  intStatus : DWord := 0
  hostDiscards : Nat := 0
  reply : Completion := .none
  deriving DecidableEq, Repr

/-- The payload of a response: fields in order, each with its width in bits, 0 where the manual gives none. -/
abbrev Resp := List (Nat × Nat)

/-- The response header (R340 Table 2). -/
structure RespHeader where
  opcode : Nat := 0
  status : Nat := 0
  seq : Word := 0
  ctx : Nat := 0
  busy : Bool := false
  replay : Bool := false
  valid : Bool := false
  length : Nat := 0
  detail : Nat := 0
  detail2 : Nat := 0
  doorbell : Nat := 0
  done : Nat := 0
  deriving DecidableEq, Repr

/-- A request as the Foreman copied it at T_D (R339), with whether class P commands were permitted then (R346). -/
structure Work where
  opcode : Nat
  seq : Word
  ctx : Nat
  noIrq : Bool
  length : Nat
  crc : Word
  tD : Nat
  present : Bool
  page : Mem
  gens : List Nat
  deriving DecidableEq, Repr

/-- An executed request with its stored response (R342). -/
structure Stored where
  seq : Word
  opcode : Nat
  ctx : Nat
  length : Nat
  crc : Word
  header : RespHeader
  payload : Resp
  deriving DecidableEq, Repr

/-- A stage slot of R351. -/
structure StageSlot where
  gen : Nat
  value : Nat
  deriving DecidableEq, Repr

/-- One mailbox (R338 to R345). -/
structure Mailbox where
  request : Mem := []
  latch : Bool := false
  header : RespHeader := {}
  payload : Resp := []
  high : Option Word := none
  stored : List Stored := []
  work : Option Work := none
  slots : List (Option StageSlot) := List.replicate 6 none
  deriving DecidableEq, Repr

/-- A configuration set (R351 to R355): committed value and generation, value and generation in force. -/
structure ConfigSet where
  value : Nat
  gen : Nat := 0
  force : Nat
  forceGen : Nat := 0
  deriving DecidableEq, Repr

/-- A firmware slot (R362): its state and its bytes. -/
structure FwSlot where
  state : SlotState
  image : Mem
  deriving DecidableEq, Repr

/-- A BIST result (R383) as the repair map keeps it. -/
structure BistRec where
  island : Nat
  flag : Bool
  source : Nat
  testedAt : Nat
  time : Nat
  signature : BitVec 128
  deriving DecidableEq, Repr

/-- What the repair map keeps of a grove (R106, R111). -/
structure GroveMap where
  role : GroveRole := .inService
  recent : Nat := 0
  mismatches : Nat := 0
  tiles : Nat := 0
  hist : List Nat := []
  deriving DecidableEq, Repr

/-- The firmware image that the module is made with. -/
def FwSlot.factory : Mem := Config.factoryImage.zipIdx.filterMap fun x => if x.1 = 0 then none else some (x.2, x.1)

/-- The module flash (R357). -/
structure Flash where
  slots : List FwSlot := [⟨.active, FwSlot.factory⟩, ⟨.empty, []⟩]
  minSecurity : Nat := 0
  revoked : BitVec 4 := 0
  configs : List (Option (Nat × Nat)) := List.replicate 6 none
  groves : List GroveMap :=
    List.replicate 4 (List.replicate 28 ({} : GroveMap) ++ List.replicate 4 { role := .spare }) |>.flatten
  erasures : List (Nat × Nat × Nat) := []
  second : List (Nat × Nat) := []
  frames : List (Nat × Nat × Nat) := []
  retired : List Nat := []
  bist : List BistRec := []
  powerOn : Nat := 0
  bistDone : Nat := 0
  certs : List (List Byte) := Config.deviceChain :: List.replicate 7 []
  lifetime : List TallyRec := []
  powerFault : Option (Nat × Nat) := none
  deriving DecidableEq, Repr

/-- What is held of one matrix array (R90 Table 1): the accumulator pairs written by a row that was checked again, by row and
column, with the checker's residue of each, and the pre-image of those rows. -/
structure GroveArray where
  bank : List ((Nat × Nat) × AccPair × BitVec 7) := []
  preImage : List ((Nat × Nat) × AccPair × BitVec 7) := []
  deriving DecidableEq, Repr

/-- A grove (R90, R111): what the status record reports, the tile counts at the last mismatches (R106), its four arrays and the
stationary sets that they all hold, active and shadow, each named by the instance and the number of the tile among those
that the grove loaded for it (R93). Its store holds its vector engine's windows and scratch (R91, R113). `neededAt` is
when it came to need a spare (R110). -/
structure Grove where
  role : GroveRole := .inService
  warm : Bool := false
  readying : Bool := false
  power : PowerState := .c3
  mismatches : Nat := 0
  recomputes : Nat := 0
  tiles : Nat := 0
  sec : Nat := 0
  hist : List Nat := []
  neededAt : Option Nat := none
  retireAsked : Bool := false
  arrays : List GroveArray := List.replicate 4 {}
  active : Option (InstId × Nat) := none
  shadow : Option (InstId × Nat) := none
  deriving DecidableEq, Repr

/-- A correction counted by position (R209): pseudo-channel, position, frame, device time. -/
abbrev CorrMark := Nat × Nat × Nat × Nat

/-- A stack with its controller (R209, R210, R224); `onDie` counts the corrections of the core dies' own code (R201). -/
structure Stack where
  corrected : Nat := 0
  onDie : Nat := 0
  marks : List CorrMark := []
  slice : Nat := 0
  lastSlice : Option Nat := none
  passes : Nat := 0
  deriving DecidableEq, Repr

/-- A Sapling engine (R176): its two filter buffers with the instance each is loaded for and the filter's bytes, which is
idle, and its sixteen accumulators. -/
structure Sapling where
  buffers : List (Option (InstId × Mem)) := [none, none]
  idle : Nat := 0
  accumulators : List Int := List.replicate 16 0
  deriving DecidableEq, Repr

/-- Power states of the islands other than groves (R82, R85), Sapling engines, the corrections
of each shared-cache slice (R214), and the RETIRE commands that wait (R384). -/
structure Islands where
  power : List (Nat × PowerState) := []
  saplings : List Sapling := List.replicate 4 {}
  slices : List Nat := List.replicate 64 0
  retireAsked : List (Nat × Nat) := []
  deriving DecidableEq, Repr

/-- A bound placement slot (R328). -/
structure Placement where
  slot : Nat
  bytes : Nat
  data : Mem
  deriving DecidableEq, Repr

/-- A registered host region (R331). -/
structure Region where
  number : Nat
  address : Nat
  bytes : Nat
  deriving DecidableEq, Repr

/-- Device memory by device address, its placement epoch, and the host-facing windows (R202, R325 to R331). -/
structure MemSys where
  dram : Mem := []
  epoch : Nat := 0
  regions : List Region := []
  placements : List Placement := []
  adit : Option (Nat × Nat) := none
  fwOwner : Option Nat := none
  fwBuffer : Mem := []
  deriving DecidableEq, Repr

/-- What a path adds to a scale entry (R24): saturations, values that were not finite, AMAX_RAW and the stored amax as
binary32 patterns. -/
structure Stats where
  sat : Nat := 0
  nonfinite : Nat := 0
  raw : Nat := 0
  stored : Nat := 0
  deriving DecidableEq, Repr

/-- A scale entry (R24) with the values SCALE_SYNC holds beside it (R30). -/
structure ScaleEntry where
  eT : Int := 0
  delay : Nat := 1
  margin : Nat := 1
  nonfinite : Bool := false
  catchup : Bool := false
  threshold : Nat := 0
  sat : Nat := 0
  raw : Word := 0
  hist : List Word := [0, 0, 0, 0]
  nonfiniteCount : Nat := 0
  stored : BitVec 16 := 0
  next : Option (Int × Bool × Word) := none
  deriving DecidableEq, Repr

/-- An object-table entry (R47). -/
structure ObjEntry where
  object : Nat
  format : Format
  rank : Nat
  role : Role
  zeroRun : Bool
  tier : Nat
  compress : Bool
  narrow : Bool
  pin : Bool
  readonly : Bool
  recompute : Bool
  age : Nat
  scale : Nat
  dims : List Nat
  deriving DecidableEq, Repr

/-- A score row's record (R142): key of the row, running maximum, a signed 16-bit integer (none = empty), running sum as a
significand of at most 40 bits and an exponent, and how many kept scores it holds. -/
structure RowRec where
  head : Nat
  query : Nat
  max : Option (BitVec 16)
  sumM : Nat
  sumE : Int
  kept : Nat
  deriving DecidableEq, Repr

/-- An object (R196, R231): its entry, the bytes of its tiles as held in tile-number order, and the per-tile bits. `coded` is the
step number of the admission that coded its tiles in T2 or T3 (R237), `lost` whether tiles of it have been replaced by zeros. -/
structure Obj where
  entry : ObjEntry
  data : Mem := []
  prev : Mem := []
  changed : List Nat := []
  other : Option (Mem × List Nat) := none
  version : Nat := 0
  prevVersion : Nat := 0
  inT1 : Bool := true
  t3Copy : Bool := false
  lastUse : Nat := 0
  written : List Nat := []
  present : List Nat := []
  rows : List RowRec := []
  folded : List Nat := []
  kept : List (Nat × List Nat) := []
  narrowed : List Nat := []
  lost : Bool := false
  coded : Nat := 0
  deriving DecidableEq, Repr

/-- An operand reference (R51). -/
structure Opr where
  object : Nat
  base : Nat
  strideIn : Int
  strideMb : Int
  deriving DecidableEq, Repr

/-- A descriptor (R50). -/
structure Desc where
  opcode : Nat
  accumulate : Bool
  jobWide : Bool
  loop : Nat
  index : Nat
  deps : List Nat
  groves : Nat
  lentab : Nat
  oprs : List Opr
  params : List Nat
  deriving DecidableEq, Repr

/-- A loop-table entry (R56). -/
structure LoopEnt where
  first : Nat
  last : Nat
  count : Nat
  parent : Nat
  serial : Bool
  deriving DecidableEq, Repr

/-- A length-table entry (R60). -/
structure LenTab where
  object : Nat
  s : Nat
  maxLen : Nat
  maxTotal : Nat
  deriving DecidableEq, Repr

/-- One problem of a packed MATMUL's list (R52, R102): its objects and extents. -/
structure Problem where
  a : Nat
  b : Nat
  c : Nat
  m : Nat
  n : Nat
  k : Nat
  deriving DecidableEq, Repr

/-- A step image (R44) as the Foreman keeps it. `lists` holds the problem lists of its packed MATMUL instances as the Foreman
reads them at SUBMIT; a loaded image has none yet. -/
structure Image where
  ctx : Nat
  job : Nat
  bytes : Nat
  mbLoop : Nat
  seed : BitVec 128
  objects : List ObjEntry
  scales : List ScaleEntry
  descs : List Desc
  loops : List LoopEnt
  lentabs : List LenTab
  vprogs : List (List DWord)
  lists : List (InstId × List Problem) := []
  deriving DecidableEq, Repr

/-- A model context (R246): its objects, scale table, loaded images and cached schedules (R67). -/
structure Context where
  number : Nat
  objects : List Obj := []
  scales : List ScaleEntry := []
  images : List Image := []
  cache : List (Nat × Nat × Nat × List Nat) := []
  deriving DecidableEq, Repr

/-- A block of 32 elements of a summary key (R157): its offset and its codes. -/
abbrev SummaryBlock := Nat × List Int

/-- A page of the pool (R145): its place, its units (the stack of each and its number among the stack's units), its key and
value parts, tile bytes as R20, and its summary key, two BX8 vectors of four blocks at E_K (R157). -/
structure Page where
  ctx : Nat
  table : Nat
  sequence : Nat
  group : Nat
  index : Nat
  bx4 : Bool
  hbm : List Nat
  units : List Nat
  pinned : Bool
  opened : Nat
  keys : Mem
  vals : Mem
  kMax : List SummaryBlock
  kMin : List SummaryBlock
  deriving DecidableEq, Repr

/-- A page written to host memory (R154). -/
structure Spill where
  ctx : Nat
  sequence : Nat
  group : Nat
  position : Nat
  region : Nat
  offset : Nat
  deriving DecidableEq, Repr

/-- The page pool (R145 to R154): pages, the open sequences with the pages per head group still booked for each
(context, table, entry, pages, whether they are BX4 pages), the spilled pages, and the closes and pins that wait for the boundary (R150). -/
structure KvPool where
  pages : List Page := []
  booked : List (Nat × Nat × Nat × Nat × Bool) := []
  spills : List Spill := []
  waiting : List (Nat × Nat × KvName × Nat) := []
  deriving DecidableEq, Repr

/-- The counters of JOB_COUNTERS, in R348's order. -/
structure Counters where
  skip1 : Nat := 0
  skip2 : Nat := 0
  skip3 : Nat := 0
  skip4 : Nat := 0
  clamps : Nat := 0
  vecFaults : Nat := 0
  discards : Nat := 0
  dropped : Nat := 0
  mismatches : Nat := 0
  late : Nat := 0
  deriving DecidableEq, Repr

/-- A failed member's shard that a survivor carries on (R307, R308): the member, its objects and scale entries as a context of
their own, the tiles of each object that this device owns, and whether it is the first survivor of the group. -/
structure Shadow where
  device : Nat
  ctx : Context
  owned : List (Nat × List Nat)
  first : Bool
  deriving DecidableEq, Repr

/-- A generation area's contents (R298, R300): context, securing step, the own secured state, and the parity chunks by stripe. -/
structure Generation where
  ctx : Nat
  step : Nat
  state : Mem
  parity : List (Nat × Mem)
  deriving DecidableEq, Repr

/-- A job on the device (R282, R292, R297 to R312). `adopted` holds what this device has rebuilt or restored of a failed
member, `shadows` the shards that it carries on from there in the member's place (R307, R308), `chunks` the chunks it has rebuilt
since the newest complete generation (R305: failed member's device number, chunk number, bytes). `shares` is the ownership of
failed members' tiles as of that generation, on every device of the group: the member they come from, their owner, object,
tiles. `agreed` are the failures announced job-wide. -/
structure Job where
  number : Nat
  box : Option JobBox := none
  mismatch : Bool := false
  joined : Bool := false
  lastAdmitted : Option Nat := none
  lastCompleted : Option Nat := none
  counters : Counters := {}
  shoring : Option ShoringCfg := none
  announced : Option Nat := none
  reencode : Bool := false
  secured : Option Nat := none
  generation : Nat := 0
  areas : List (Option Generation) := [none, none]
  hostGen : List (Option Nat) := [none, none]
  lambda : Nat := 0
  lambdaAt : Nat := 0
  failures : Nat := 0
  failed : List Nat := []
  since : List Nat := []
  agreed : List Nat := []
  adopted : List (Nat × Secured) := []
  chunks : List (Nat × Nat × Mem) := []
  shares : List (Nat × Nat × Nat × List Nat) := []
  shadows : List Shadow := []
  areaBytes : Nat := 0
  lost : Nat := 0
  restored : List Nat := []
  degraded : Bool := false
  published : List (Nat × List Nat) := []
  durations : List Nat := []
  deriving DecidableEq, Repr

/-- A step-status record (R349). -/
structure StepRec where
  step : Nat
  job : Nat
  ctx : Nat
  state : Nat := 0
  status : Nat := 0
  skipped : Bool := false
  skipCause : Nat := 0
  readmitted : Bool := false
  drill : Bool := false
  nC : Nat := 0
  dropped : Nat := 0
  residual : Word := 0
  promise : Nat := 0
  completed : Nat := 0
  peerWait : Nat := 0
  effective : Nat := 0
  deriving DecidableEq, Repr

/-- A fraction in lowest terms, of a natural numerator and a positive denominator: an exact time in nanoseconds, or a rate. -/
structure Frac where
  num : Nat
  den : Nat
  deriving DecidableEq, Repr

/-- A path on which bytes are counted (R227): a stack, a die's crossbar port, a near port, the host link, and the Lode read path
of a stack (R144). -/
inductive Path where
  | t1 (stack : Nat)
  | xbar (die : Nat) (out : Bool)
  | t2 (port : Nat) (out : Bool)
  | t3 (out : Bool)
  | lodeRead (stack : Nat)
  deriving DecidableEq, Repr

/-- An item of the schedule (R72): a descriptor's instance, one of the implicit operations, a filter load (R176), or a move that
the Foreman derives (R243). -/
inductive Item where
  | inst (i : InstId)
  | norm
  | sync
  | securing
  | switch
  | filter (i : InstId)
  | fetch (object : Nat)
  | room (ctx object : Nat)
  | writeBack (object : Nat)
  | narrow (object mb : Nat)
  | out (object mb : Nat)
  | back (object mb : Nat)
  deriving DecidableEq, Repr

/-- An item placed in the schedule, in ns from the end of W (R72). `engines` numbers what it holds alone: Lode engines 0 to
15, Sapling engines 16 to 19, the collective engine's slots 20 and 21. -/
structure Placed where
  item : Item
  start : Frac
  fin : Frac
  paths : List (Path × Nat)
  groves : List Nat
  engines : List Nat
  deriving DecidableEq, Repr

/-- An admitted step (R68, R69): what it was admitted with. `takes` lists stream, first take number and count (R255),
`booked` the T1 bytes of its transient peak (R74), `extension` the peer waits that extend its promise (R70),
`groves` the n of its admission (R79), `t0` and `wake` its T_0 and W, and `plan` the schedule (R69, R72, R84). -/
structure Admitted where
  job : Nat
  ctx : Nat
  step : Nat
  image : Image
  bound : Nat
  promise : Nat
  rests : Bool
  drill : Bool
  void : Bool := false
  voidedBehind : Bool := false
  dFail : Nat
  covered : Nat
  admission : Nat
  deadline : Nat
  clock : Nat
  gens : List Nat
  securing : Bool
  takes : List (Nat × Nat × Nat)
  booked : Nat := 0
  extension : Nat := 0
  groves : Nat := 0
  t0 : Nat := 0
  wake : Nat := 0
  plan : List Placed := []
  deriving DecidableEq, Repr

/-- What the norm collective gives every device (R184): Q, N_c, ‖g‖ and the cause of a skipped update, or 0. -/
structure Norm where
  q : Word
  nC : Nat
  norm : Word
  skip : Nat
  deriving DecidableEq, Repr

/-- The running step (R55, R59, R184, R197). `before` keeps the parameters and moments as of the step before, for a step
that ends without its update (R86). `covered` holds the exact results of the tiles that a KV_APPEND redirects
from its MATMUL (R151): row, column, mantissa and exponent. `tag` is the micro-batch of the instance at work, `parts` what
each micro-batch added to which scale entry (R29), `scales` the scale table as the step began, and `appendFail` the
micro-batches whose KV_APPEND failed (R155; none stands for an instance outside the micro-batch loop). `evicted` holds the pages that an append has evicted, by
context, table and entry, until its completion writes EVICTED (R148), and `appended` the tokens by entry of an append. `recorded` holds the version of
every gathered shard by micro-batch: object, owner, version (R197), and `sent` the chunks that the step's collectives have
sent: collective, chunk, phase. `groves` lists the groves in service as the step began, a spare standing for one it has
replaced since (R64, R108). -/
structure Run where
  adm : Admitted
  started : Nat
  switched : Bool := false
  before : List Obj := []
  executed : List InstId := []
  complete : List InstId := []
  moves : List (MoveKind × Nat × Nat) := []
  confirmed : List Nat := []
  dropped : List Nat := []
  recorded : List (Nat × Nat × Nat × Nat) := []
  appendFail : List (Option Nat) := []
  tierLoss : Bool := false
  peerFlags : BitVec 3 := 0
  tileSums : List (Nat × Nat × Word) := []
  norm : Option Norm := none
  peerWait : Nat := 0
  entered : Nat := 0
  collective : Bool := false
  secured : Bool := false
  lengths : List (InstId × List Nat) := []
  evicted : List (InstId × Nat × Nat × Nat) := []
  appended : List (InstId × List Nat) := []
  tag : Option Nat := none
  parts : List (Option Nat × Nat × Stats) := []
  scales : List ScaleEntry := []
  groves : List Nat := []
  filters : List InstId := []
  sent : List (Nat × Nat × Nat) := []
  runs : List (InstId × Nat) := []
  covered : List (InstId × List (Nat × Nat × Int × Int)) := []
  failuresIn : Nat := 0
  reserveSpent : Bool := false
  mismatchEnd : Bool := false
  residual : Word := 0
  saplingCount : Nat := 0
  deriving DecidableEq, Repr

/-- The Foreman's work in hand (R66, R69, R246, R349). `voidedAt` is when the last voided step completed (R87). -/
structure Sched where
  queue : List Admitted := []
  run : Option Run := none
  records : List StepRec := []
  current : Option Nat := none
  admissions : Nat := 0
  voidedAt : Nat := 0
  deriving DecidableEq, Repr

/-- One augmentation entry (R262). -/
structure AugOp where
  op : Nat
  p0 : Word
  p1 : Word
  p2 : Word
  deriving DecidableEq, Repr

/-- A stream configuration (R250). -/
structure StreamCfg where
  kind : Nat
  rawFormat : Nat
  units : BitVec 16
  outFormat : Nat
  rawExp : Int
  batch : Nat
  ahead : Nat
  ringLog2 : Nat
  maxX : Nat
  maxY : Nat
  maxZ : Nat
  minZ : Nat
  outX : Nat
  outY : Nat
  outZ : Nat
  outC : Nat
  ratioMax : Nat
  meanCost : Nat
  budgetMult : Nat
  seed : BitVec 128
  ringAddr : Nat
  startIndex : Nat
  augment : List AugOp
  deriving DecidableEq, Repr

/-- A staged slot (R262, R264): position, validity 1, 2 or 0, valid frames, values in the staging format as
binary32 patterns, non-finite values met. -/
structure Staged where
  position : Nat
  validity : Nat
  frames : Nat
  values : List Word
  nonfinite : Nat
  deriving DecidableEq, Repr

/-- A sample on a unit (R257, R261). -/
structure OnUnit where
  unit : Nat
  position : Nat
  entry : RingEntry
  since : Nat
  deriving DecidableEq, Repr

/-- An open stream (R250 to R267). -/
structure Stream where
  cfg : StreamCfg
  ci : Nat := 0
  next : Nat := 0
  busy : List OnUnit := []
  staged : List Staged := []
  late : List Nat := []
  takes : Nat := 0
  taken : Nat := 0
  substitutes : List Decoded := []
  nStaged : Nat := 0
  nOverrun : Nat := 0
  nRejected : List Nat := [0, 0, 0, 0, 0]
  nLate : Nat := 0
  nSubstituted : Nat := 0
  nPadded : Nat := 0
  deriving DecidableEq, Repr

/-- A stream's registers (R322) and the stream, if open. -/
structure StreamSlot where
  pi : Nat := 0
  err : DWord := 0
  stream : Option Stream := none
  deriving DecidableEq, Repr

/-- States of a fabric port (R277 to R279, R294). -/
inductive PortState where
  | down | up | failed | retired
  deriving DecidableEq, Repr

/-- A fabric port (R274 to R279). `freed` counts by class the flits whose buffer is free again and whose credits have not been
returned, and `heard` is when the last valid flit came. -/
structure Port where
  state : PortState := .down
  quarantine : Nat := 0
  far : Option FarEnd := none
  txSeq : Nat := 0
  rxSeq : Nat := 0
  unacked : List Flit := []
  held : List (Nat × Flit) := []
  credits : List Nat := List.replicate 8 0
  retryRow : Nat := 0
  retrySeq : Nat := 0
  retries : Nat := 0
  drillCount : List Nat := List.replicate 8 0
  wire : List (Flit × Nat) := []
  delivered : List Flit := []
  downAt : Nat := 0
  downCause : Nat := 0
  retryTimes : List Nat := []
  drillUntil : Option Nat := none
  freed : List Nat := List.replicate 8 0
  heard : Nat := 0
  deriving DecidableEq, Repr

/-- A chunk held in T1 or sent and not yet acknowledged (R281). -/
structure Chunk where
  h : ChunkHeader
  info : ChunkInfo
  data : List Byte
  deriving DecidableEq, Repr

/-- A tile held for a borrower (R226, R245). -/
structure LentTile where
  port : Nat
  object : Nat
  tile : Nat
  data : List Byte
  deriving DecidableEq, Repr

/-- The fabric (R270 to R296). `retained` lists the versions confirmed to borrowers (R197): device, context, micro-batch,
object, version. `notices` are the class-4 answers the Foreman has sent, newest first. -/
structure Fabric where
  ports : List Port := List.replicate 20 {}
  standby : Option Nat := none
  drill : Bool := false
  chunks : List Chunk := []
  unacked : List Chunk := []
  discarded : Nat := 0
  lends : List Nat := List.replicate 7 0
  lent : List LentTile := []
  notices : List (Nat × Nat × Nat) := []
  retained : List (Nat × Nat × Nat × Nat × Nat) := []
  deriving DecidableEq, Repr

/-- A window of a vector run (R117 to R120): operand, tiles and the staged dense bytes; of a zero-run operand that is written,
what the last store to each slot measured (R175). -/
structure Window where
  object : Nat
  base : Nat
  tiles : Nat
  written : Bool
  format : Format
  eT : Int
  scale : Nat
  narrow : List Nat := []
  zeroRun : Bool := false
  slots : List (Nat × Stats) := []
  data : Mem
  deriving DecidableEq, Repr

/-- An open loop of a vector program (R133). -/
structure LoopFrame where
  reg : Nat
  count : Nat
  index : Nat
  start : Nat
  deriving DecidableEq, Repr

/-- A vector engine (R113, R114). -/
structure VecEngine where
  v : List (List Word) := List.replicate 32 (List.replicate 256 0)
  s : List Word := List.replicate 16 0
  p : List (BitVec 256) := (BitVec.allOnes 256) :: List.replicate 7 0
  scratch : List (Nat × Word) := []
  windows : List (Option Window) := List.replicate 4 none
  loops : List LoopFrame := []
  pc : Nat := 0
  run : Nat := 0
  inst : Option InstId := none
  program : Nat := 0
  ctx : Nat := 0
  params : List Word := [0, 0, 0, 0]
  deriving DecidableEq, Repr

/-- The SPDM responder (R366): the last answer given, its code and body, and whether algorithms are agreed. -/
structure Spdm where
  negotiated : Bool := false
  code : Nat := 0
  body : List Byte := []
  transcript : List Byte := []
  deriving DecidableEq, Repr

/-- The whole device. `fresh` (the counter of free values) and `pending` (the queue of commands that wait,
first in first out) are the model's own fields. -/
structure State where
  time : Nat
  fresh : Nat
  pending : List Instr
  board : Board
  dev : Device
  link : Link
  regs : Regs
  mbx : List Mailbox
  cfg : List ConfigSet
  flash : Flash
  tally : Tally
  groves : List Grove
  hbm : List Stack
  islands : Islands
  mem : MemSys
  ctxs : List Context
  kv : KvPool
  jobs : List Job
  sched : Sched
  streams : List StreamSlot
  fabric : Fabric
  vec : List (Nat × VecEngine)
  spdm : Spdm
  deriving DecidableEq, Repr

/-- Reset values of the six configuration sets, in ID order (R355, R146, R248, R271, R272, R293). -/
def ConfigSet.resetValues : List Nat :=
  [0x1403, 0, 0, 0x0000081818105028 <<< 64, 0, 0]

/-- The groves as the repair map of manufacture lists them: 28 in service and 4 spares a die (R11, R111). -/
def Grove.resetAll : List Grove :=
  (List.replicate 4 (List.replicate 28 ({} : Grove) ++ List.replicate 4 { role := .spare })).flatten

/-- The device right after reset: power good, the reset inputs released, STATE reading START, nothing booted. -/
def State.reset : State where
  time := 0
  fresh := 0
  pending := []
  board := {}
  dev := {}
  link := {}
  regs := {}
  mbx := List.replicate 64 {}
  cfg := ConfigSet.resetValues.map fun v => { value := v, force := v }
  flash := {}
  tally := {}
  groves := Grove.resetAll
  hbm := List.replicate 16 {}
  islands := {}
  mem := {}
  ctxs := []
  kv := {}
  jobs := []
  sched := {}
  streams := List.replicate 16 {}
  fabric := {}
  vec := []
  spdm := {}

end Sys2Proof.Machine
end

