-- ==== Sys2Proof/Machine/Ops.lean ====
section
/-!
DEFINITION. The named operations that the meanings share: sparse memories, the Tally, interrupts and MSI-X,
mailbox responses, voiding, HALT and the complete reset.
Choices of the model, by log entry: 1 DESIGN CHOICE, 2 DESIGN CHOICE, 3 DESIGN CHOICE, 6 DESIGN CHOICE, 7 DESIGN
CHOICE, 8 DESIGN CHOICE, 9 DESIGN CHOICE, 11 DEDUCED, 13 DEDUCED, 14 DEDUCED, 15 DESIGN CHOICE, 17 DESIGN CHOICE, 30
DEDUCED, 57 DEDUCED, 64 DESIGN CHOICE, 75 DEDUCED.
-/

namespace Sys2Proof.Machine

/-! ### Sparse byte memories -/

/-- What a memory reads at an address; an unlisted address reads as zero. -/
def Mem.get : Mem → Nat → Byte
  | [], _ => 0
  | (a, b) :: m, i => if i = a then b else if i < a then 0 else Mem.get m i

/-- Writes one byte and keeps the canonical form: rising addresses, no zero entries. -/
def Mem.set : Mem → Nat → Byte → Mem
  | [], i, v => if v = 0 then [] else [(i, v)]
  | (a, b) :: m, i, v =>
    if i < a then (if v = 0 then (a, b) :: m else (i, v) :: (a, b) :: m)
    else if i = a then (if v = 0 then m else (i, v) :: m)
    else (a, b) :: Mem.set m i v

/-- The canonical form: addresses at least `lo` and strictly rising, no entry equal to zero. -/
def Mem.wfFrom : Nat → Mem → Bool
  | _, [] => true
  | lo, (a, b) :: m => decide (lo ≤ a) && decide (b ≠ 0) && Mem.wfFrom (a + 1) m

/-- The canonical form of a memory. -/
def Mem.wf (m : Mem) : Bool := Mem.wfFrom 0 m

/-- The bytes from an address on. -/
def Mem.bytes (m : Mem) (a n : Nat) : List Byte := (List.range n).map fun i => Mem.get m (a + i)

/-- Writes bytes from an address on. -/
def Mem.store (m : Mem) (a : Nat) : List Byte → Mem
  | [] => m
  | b :: bs => Mem.store (Mem.set m a b) (a + 1) bs

/-- Clears the bytes from an address on. -/
def Mem.clear (m : Mem) (a n : Nat) : Mem := m.filter fun c => !(decide (a ≤ c.1) && decide (c.1 < a + n))

/-- The entries of a range, moved so that the range begins at another address. -/
def Mem.slice (m : Mem) (a n dst : Nat) : Mem :=
  (m.filter fun c => decide (a ≤ c.1) && decide (c.1 < a + n)).map fun c => (c.1 - a + dst, c.2)

/-- The little-endian value of bytes (R2). -/
def leValue : List Byte → Nat
  | [] => 0
  | b :: bs => b.toNat + 256 * leValue bs

/-- The n little-endian bytes of a value (R2). -/
def leBytes : Nat → Nat → List Byte
  | 0, _ => []
  | n + 1, v => BitVec.ofNat 8 v :: leBytes n (v / 256)

/-- A little-endian value in memory. -/
def Mem.le (m : Mem) (a n : Nat) : Nat := leValue (Mem.bytes m a n)

/-- Bits [hi:lo] of a value (Conventions of Scope of this manual). -/
def bits (v hi lo : Nat) : Nat := (v >>> lo) % 2 ^ (hi + 1 - lo)

/-- Puts a field at bit lo of a record. -/
def field (lo v : Nat) : Nat := v <<< lo

/-- One bit as a number. -/
def bit (b : Bool) : Nat := if b then 1 else 0

/-- Rounds a quotient up. -/
def ceilDiv (a b : Nat) : Nat := (a + b - 1) / b

/-! ### Exact times in nanoseconds -/

def Frac.mk' (n d : Nat) : Frac := let g := max 1 (Nat.gcd n d); ⟨n / g, max 1 (d / g)⟩
def Frac.ofNat (n : Nat) : Frac := ⟨n, 1⟩
def Frac.zero : Frac := ⟨0, 1⟩
def Frac.add (a b : Frac) : Frac := Frac.mk' (a.num * b.den + b.num * a.den) (a.den * b.den)
def Frac.sub (a b : Frac) : Frac := Frac.mk' (a.num * b.den - b.num * a.den) (a.den * b.den)
def Frac.mul (a b : Frac) : Frac := Frac.mk' (a.num * b.num) (a.den * b.den)
def Frac.div (a b : Frac) : Frac := Frac.mk' (a.num * b.den) (a.den * b.num)
def Frac.le (a b : Frac) : Bool := decide (a.num * b.den ≤ b.num * a.den)
def Frac.lt (a b : Frac) : Bool := decide (a.num * b.den < b.num * a.den)
def Frac.max (a b : Frac) : Frac := if a.le b then b else a
def Frac.min (a b : Frac) : Frac := if a.le b then a else b
def Frac.ceil (a : Frac) : Nat := ceilDiv a.num a.den
def Frac.floor (a : Frac) : Nat := a.num / a.den
def Frac.sum (l : List Frac) : Frac := l.foldl Frac.add Frac.zero
def Frac.maxOf (l : List Frac) : Frac := l.foldl Frac.max Frac.zero

/-! ### Lists as small arrays -/

/-- The entry at an index, or the given default. -/
def at' {α : Type} (l : List α) (i : Nat) (d : α) : α := (l[i]?).getD d

/-- Splits a list into so many pieces of n. -/
def chunksOf {α : Type} (n : Nat) : Nat → List α → List (List α)
  | 0, _ => []
  | k + 1, l => l.take n :: chunksOf n k (l.drop n)

/-- Changes the first entry that meets a test. -/
def modifyWhere {α : Type} (p : α → Bool) (f : α → α) : List α → List α
  | [] => []
  | x :: xs => if p x then f x :: xs else x :: modifyWhere p f xs

/-- A value saturated at a maximum (the counters that stop). -/
def capAt (limit v : Nat) : Nat := if limit < v then limit else v

/-! ### CRC-32C (R237, R344) -/

/-- One bit of the reflected CRC-32C. -/
def crc32Bit (c : BitVec 32) : BitVec 32 := if c.getLsbD 0 then (c >>> 1) ^^^ 0x82F63B78#32 else c >>> 1

/-- One byte of it. -/
def crc32Byte (c : BitVec 32) (b : Byte) : BitVec 32 :=
  let x := c ^^^ (b.setWidth 32)
  crc32Bit (crc32Bit (crc32Bit (crc32Bit (crc32Bit (crc32Bit (crc32Bit (crc32Bit x)))))))

/-- CRC-32C with initial value and final XOR of all ones. -/
def crc32c (bs : List Byte) : Word := (bs.foldl crc32Byte 0xFFFFFFFF#32) ^^^ 0xFFFFFFFF#32

/-! ### Status codes of R350 -/

def St.ok : Nat := 0x0000
def St.invalidField : Nat := 0x0001
def St.unknownCommand : Nat := 0x0002
def St.wrongState : Nat := 0x0003
def St.presenceRequired : Nat := 0x0004
def St.duplicate : Nat := 0x0005
def St.sequenceGap : Nat := 0x0006
def St.noContext : Nat := 0x0007
def St.contextExists : Nat := 0x0008
def St.contextBusy : Nat := 0x0009
def St.noRecord : Nat := 0x000A
def St.halted : Nat := 0x000B
def St.refusedBound : Nat := 0x0010
def St.refusedResource : Nat := 0x0011
def St.refusedHazard : Nat := 0x0012
def St.stepOrder : Nat := 0x0013
def St.drillActive : Nat := 0x0014
def St.planPending : Nat := 0x0015
def St.rulePSpan : Nat := 0x0016
def St.linkDegraded : Nat := 0x0017
def St.promiseVoid : Nat := 0x0020
def St.promiseMissed : Nat := 0x0021
def St.collectiveMismatch : Nat := 0x0022
def St.pageExhausted : Nat := 0x0030
def St.pageWidthMismatch : Nat := 0x0031
def St.sequenceFull : Nat := 0x0032
def St.sequenceInUse : Nat := 0x0033
def St.streamBusy : Nat := 0x0040
def St.streamClosed : Nat := 0x0041
def St.sampleRejected : Nat := 0x0042
def St.manifestMismatch : Nat := 0x0050
def St.portMiswired : Nat := 0x0051
def St.jobMismatch : Nat := 0x0052
def St.jobLagging : Nat := 0x0053
def St.groupLost : Nat := 0x0060
def St.shoringDegraded : Nat := 0x0061
def St.commitConflict : Nat := 0x0070
def St.regionBusy : Nat := 0x0080
def St.imageRejected : Nat := 0x0090

/-! ### Islands of R11 -/

def islandSlice (die k : Nat) : Nat := 0x080 + 16 * die + k
def islandSapling (die : Nat) : Nat := 0x0C0 + die
def islandLode (stack : Nat) : Nat := 0x0D0 + stack
def islandStack (stack : Nat) : Nat := 0x0E0 + stack
def islandForeman : Nat := 0x100
def islandPcie : Nat := 0x101
def islandCollective : Nat := 0x102
def islandSluice : Nat := 0x103
def islandDecoder (u : Nat) : Nat := 0x104 + u
def islandTally : Nat := 0x10C
def islandPort (p : Nat) : Nat := 0x110 + p
def islandModule : Nat := 0xFFF

/-- The island numbers of R11 Table 2 that name clocked islands. -/
def islandListed (i : Nat) : Bool :=
  decide (i < 0x0C4) || (decide (0x0D0 ≤ i) && decide (i < 0x0F0)) ||
  (decide (0x100 ≤ i) && decide (i < 0x10E)) || (decide (0x110 ≤ i) && decide (i < 0x124))

/-- The islands of the shut-down waves (R381) and of BIST_RUN: all but the three of R379. -/
def testedIslands : List Nat := (List.range 0x124).filter fun i =>
  islandListed i && i != islandForeman && i != islandPcie && i != islandTally

/-! ### The Tally -/

/-- A record equals the newest in CODE, SOURCE, SEVERITY and parameters (R387). -/
def TallyRec.same (a b : TallyRec) : Bool :=
  a.code == b.code && a.source == b.source && a.severity == b.severity &&
  a.p0 == b.p0 && a.p1 == b.p1 && a.p2 == b.p2 && a.p3 == b.p3

/-- Adds one to REPEAT, which stops at 65,535 (R386, R387). -/
def TallyRec.again (r : TallyRec) : TallyRec := { r with repeats := capAt 65535 (r.repeats + 1) }

/-- Changes the last entry of a list. -/
def modifyLast {α : Type} (f : α → α) : List α → List α
  | [] => []
  | [x] => [f x]
  | x :: y :: l => x :: modifyLast f (y :: l)

/-- Keeps the newest n entries. -/
def keepLast {α : Type} (n : Nat) (l : List α) : List α := l.drop (l.length - n)

/-- Whether an event merges into the newest record (R387): equal, less than 10^9 ns after its TIME, and no
TALLY_CLEARED, which never merges. -/
def Tally.merges (t : Tally) (r : TallyRec) : Bool :=
  match t.ring.getLast? with
  | some n => n.same r && decide (r.time < n.time + 1000000000) && r.code != 0x02E7
  | none => false

/-- The Tally after an event (R387, R388). -/
def Tally.event (t : Tally) (r : TallyRec) : Tally :=
  if t.merges r then
    { t with ring := modifyLast TallyRec.again t.ring,
             boot := if t.count ≤ 1024 then modifyLast TallyRec.again t.boot else t.boot }
  else
    let n := { r with repeats := 0, seq := t.count % 65536 }
    { count := t.count + 1, ring := keepLast 4096 (t.ring ++ [n]),
      boot := if t.count < 1024 then t.boot ++ [n] else t.boot }

/-- Writes an event to the Tally, and a created record of severity error or fatal to the lifetime area while
that holds fewer than 512 records (R388). Parameters are 32-bit. -/
def tally (s : State) (code source severity p0 p1 p2 p3 : Nat) : State :=
  let r : TallyRec := ⟨code, source, severity, s.time, 0, 0, p0 % 2 ^ 32, p1 % 2 ^ 32, p2 % 2 ^ 32, p3 % 2 ^ 32⟩
  let life := if !s.tally.merges r && decide (3 ≤ severity) && decide (s.flash.lifetime.length < 512)
    then s.flash.lifetime ++ [{ r with seq := s.flash.powerOn % 65536 }] else s.flash.lifetime
  { s with tally := s.tally.event r, flash := { s.flash with lifetime := life } }

/-- The low and high halves of a 64-bit number as Tally parameters. -/
def lo32 (v : Nat) : Nat := v % 2 ^ 32
def hi32 (v : Nat) : Nat := v / 2 ^ 32 % 2 ^ 32

/-! ### Interrupts -/

/-- Whether a message on a vector is held (R319): masked, Function Mask, Enable clear, D3hot or link down. -/
def Link.holds (l : Link) (v : Nat) : Bool :=
  (at' l.table v {}).masked || l.funcMask || !l.msixEnable || l.d3hot || !l.up

/-- Sends the message of a vector, or keeps one pending message for it (R319). -/
def signal (s : State) (v : Nat) : State :=
  if s.link.holds v then { s with link := { s.link with pendingBits := s.link.pendingBits.set v true } }
  else { s with link := { s.link with sent := s.link.sent ++ [v] } }

/-- Sends every pending message whose vector nothing holds any more (R319). -/
def releaseHeld (s : State) : State :=
  (List.range 64).foldl (fun s v =>
    if at' s.link.pendingBits v false && !s.link.holds v then
      { s with link := { s.link with pendingBits := s.link.pendingBits.set v false, sent := s.link.sent ++ [v] } }
    else s) s

/-- A device event on vector 0: sets its bit of INT_STATUS (R319, R322). -/
def deviceEvent (s : State) (b : Nat) : State :=
  signal { s with regs := { s.regs with intStatus := s.regs.intStatus ||| BitVec.ofNat 64 (1 <<< b) } } 0

/-- INT_STATUS bit 3 alone: the presence window or SERVICE_L changed (R368). Each event signals vector 0 (R319). -/
def presenceEvent (s : State) : State := deviceEvent s 3

/-- Answers the host's request on the bus. -/
def reply (s : State) (c : Completion) : State := { s with regs := { s.regs with reply := c } }

/-! ### Mailboxes -/

/-- Changes mailbox m. -/
def setMbx (s : State) (m : Nat) (f : Mailbox → Mailbox) : State := { s with mbx := s.mbx.modify m f }

/-- Mailbox m. -/
def mbxAt (s : State) (m : Nat) : Mailbox := at' s.mbx m {}

/-- The bytes a response payload takes. -/
def Resp.length (r : Resp) : Nat := (r.map fun x => x.1).sum / 8

/-- The MSI-X vector of a mailbox (R319). -/
def mailboxVector (m : Nat) : Nat := 1 + m % 63

/-- Completes the command in progress on mailbox m (R340, R342): stores the response, clears BUSY, sets VALID
and signals unless NO_IRQ was set. Without a command in progress nothing happens. -/
def respond (s : State) (m status : Nat) (payload : Resp) (detail detail2 : Nat) : State :=
  match (mbxAt s m).work with
  | none => s
  | some w =>
    let h : RespHeader :=
      { opcode := w.opcode, status, seq := w.seq, ctx := w.ctx, busy := false, replay := false, valid := true,
        length := Resp.length payload, detail, detail2, doorbell := w.tD, done := s.time }
    let st : Stored := ⟨w.seq, w.opcode, w.ctx, w.length, w.crc, h, payload⟩
    let s := setMbx s m fun b => { b with header := h, payload, stored := (st :: b.stored).take 64, work := none }
    if w.noIrq then s else signal s (mailboxVector m)

/-- The payload of a refusal: none, but for SUBMIT the zeros of R65 Table 2 with RESPONSE_TIME. -/
def refusalPayload (opcode t : Nat) : Resp := if opcode = 0x0503 then [(192, 0), (64, t), (256, 0)] else []

/-- A refusal of the command in progress. -/
def refuse (s : State) (m status detail : Nat) : State :=
  let opcode := match (mbxAt s m).work with | some w => w.opcode | none => 0
  respond s m status (refusalPayload opcode s.time) detail 0

/-- The commands that an orderly shut-down refuses from its step 1 on (R377). -/
def shutOpcodes : List Nat := [0x0503, 0x0801, 0x0601, 0x0602, 0x0A01]

/-- The opcodes marked "ctx" in R348 Table 3. -/
def ctxOpcodes : List Nat :=
  [0x0303, 0x0304, 0x0308, 0x0309, 0x030A, 0x030B, 0x030C, 0x0401, 0x0402, 0x0501, 0x0502, 0x0503, 0x0505]

/-- Whether a request was taken before another: by T_D, and by mailbox number at one time (R347). -/
def earlierWork (m' : Nat) (w' : Work) (m : Nat) (w : Work) : Bool :=
  decide (w'.tD < w.tD) || (w'.tD == w.tD && decide (m' < m))

/-- Whether a request must wait for an earlier one in progress: both name one context (R347), both are SUBMITs (R66), or one of
them is ENTER_STATE (R416). A request read after a shut-down was asked for waits until step 1 has begun (R416); from then on the
ENTER_STATE that asked for it holds nothing up. -/
def mustWait (s : State) (m : Nat) (w : Work) : Bool :=
  (s.dev.shutAsked && s.dev.shutStep == 0 && s.dev.shutBy.isNone && decide (s.dev.shutAt ≤ w.tD)) ||
  s.mbx.zipIdx.any fun x =>
    match x.1.work with
    | none => false
    | some w' => x.2 != m && earlierWork x.2 w' m w && !(s.dev.shutStep != 0 && s.dev.shutBy == some x.2) &&
        (w.opcode == 0x0104 || w'.opcode == 0x0104 || (w.opcode == 0x0503 && w'.opcode == 0x0503) ||
         (ctxOpcodes.contains w.opcode && ctxOpcodes.contains w'.opcode && w.ctx == w'.ctx))

/-- The command in progress on mailbox m, if it has this opcode and waits for no other; a dead Foreman runs none (R373). -/
def workOf (s : State) (m opcode : Nat) : Option Work :=
  match (mbxAt s m).work with
  | some w => if w.opcode = opcode && !mustWait s m w && !s.dev.foremanDead then some w else none
  | none => none

/-- Check 6 of R341 for a command whose payload layout the manual does not give: refuses a payload that fails,
and otherwise goes on with its fields. Nothing happens when no such command is in progress. -/
def command {α : Type} (s : State) (m opcode : Nat) (p : Pay α) (go : Work → α → State) : State :=
  match workOf s m opcode with
  | none => s
  | some w =>
    match p with
    | .bad offset => refuse s m St.invalidField offset
    | .fields x => go w x

/-- A command without payload fields. -/
def commandBare (s : State) (m opcode : Nat) (go : Work → State) : State :=
  match workOf s m opcode with
  | none => s
  | some w => if w.length = 0 then go w else refuse s m St.invalidField 12

/-! ### Configuration in force and committed -/

/-- The committed value of set i (1 to 6). -/
def committed (s : State) (i : Nat) : Nat := (at' s.cfg (i - 1) { value := 0, force := 0 }).value
/-- The value in force of set i (1 to 6). -/
def inForce (s : State) (i : Nat) : Nat := (at' s.cfg (i - 1) { value := 0, force := 0 }).force

/-- The extents X, Y, Z of a fabric set's value (R271). -/
def extents (v : Nat) : Nat × Nat × Nat := (bits v 4 0 + 1, bits v 8 5 + 1, bits v 12 9 + 1)

/-- The node number (R272) and the device number (R8, R270). -/
def nodeOf (s : State) : Nat := bits (inForce s 5) 12 0
def deviceNumber (s : State) : Nat := 8 * nodeOf s + s.board.position.toNat

/-! ### Jobs and contexts -/

/-- A job by number. -/
def jobAt (s : State) (j : Nat) : Option Job := s.jobs.find? fun x => x.number == j

/-- Changes a job; a job the device has not met is made first, so that its counters exist. -/
def setJob (s : State) (j : Nat) (f : Job → Job) : State :=
  match jobAt s j with
  | some _ => { s with jobs := modifyWhere (fun x => x.number == j) f s.jobs }
  | none => { s with jobs := s.jobs ++ [f { number := j }] }

/-- Adds to a job's counters. -/
def count (s : State) (j : Nat) (f : Counters → Counters) : State :=
  setJob s j fun x => { x with counters := f x.counters }

/-- A context by number. -/
def ctxAt (s : State) (c : Nat) : Option Context := s.ctxs.find? fun x => x.number == c

/-- Changes a context. -/
def setCtx (s : State) (c : Nat) (f : Context → Context) : State :=
  { s with ctxs := modifyWhere (fun x => x.number == c) f s.ctxs }

/-- An object of a context. -/
def objAt (s : State) (c o : Nat) : Option Obj :=
  (ctxAt s c).bind fun x => x.objects.find? fun y => y.entry.object == o

/-- Changes an object of a context. -/
def setObj (s : State) (c o : Nat) (f : Obj → Obj) : State :=
  setCtx s c fun x => { x with objects := modifyWhere (fun y => y.entry.object == o) f x.objects }

/-- A scale entry of a context. -/
def scaleAt (s : State) (c i : Nat) : ScaleEntry :=
  match ctxAt s c with
  | some x => at' x.scales i {}
  | none => {}

/-- Changes a scale entry of a context. -/
def setScale (s : State) (c i : Nat) (f : ScaleEntry → ScaleEntry) : State :=
  setCtx s c fun x => { x with scales := x.scales.modify i f }

/-! ### Steps: records, voiding -/

/-- The admitted steps in hand, the running one first. -/
def inHand (s : State) : List Admitted :=
  (match s.sched.run with | some r => [r.adm] | none => []) ++ s.sched.queue

/-- Whether any step is queued or running. -/
def busy (s : State) : Bool := !(inHand s).isEmpty

/-- Whether a step of the context is queued or running (R247). -/
def ctxBusy (s : State) (c : Nat) : Bool := (inHand s).any fun a => a.ctx == c

/-- Changes a step-status record. -/
def setRecord (s : State) (job step : Nat) (f : StepRec → StepRec) : State :=
  { s with sched := { s.sched with records := modifyWhere (fun r => r.job == job && r.step == step) f s.sched.records } }

/-- The step number that HALT_ENTERED and other records name: the running step's, or 0. -/
def runStep (s : State) : Nat := match s.sched.run with | some r => r.adm.step | none => 0

/-- The steps that an event voids: those it names, and by R87 every step queued behind the first of them. A drill
admission carries no promise and is never void; a step already void is not voided again. -/
def voided (hit : Admitted → Bool) : List Admitted → Bool → List (Admitted × Bool)
  | [], _ => []
  | a :: l, behind =>
    if a.drill || a.void then voided hit l behind
    else if hit a then (a, true) :: voided hit l true
    else if behind then (a, false) :: voided hit l true
    else voided hit l false

/-- One PROMISE_VOID record for each job whose steps an event voids (R86, R89). -/
def voidRecords (s : State) (cause : Nat) : List Admitted → List Nat → State
  | [], _ => s
  | a :: l, seen =>
    if seen.contains a.job then voidRecords s cause l seen
    else voidRecords (tally s 0x0201 islandForeman 3 cause a.job (lo32 a.step)
      ((a :: l).countP fun b => b.job == a.job)) cause l (a.job :: seen)

/-- Voids the steps an event names (R86, R87): their records go to VOID with PROMISE_VOID, one Tally record per job is
written, and vector 0 signals. -/
def voidSteps (s : State) (cause : Nat) (hit : Admitted → Bool) : State :=
  let vs := voided hit (inHand s) false
  if vs.isEmpty then s else
  let key (a : Admitted) : Bool × Bool :=
    match vs.find? fun v => v.1.job == a.job && v.1.step == a.step with
    | some v => (true, !v.2)
    | none => (a.void, a.voidedBehind)
  let mark (a : Admitted) : Admitted := { a with void := (key a).1, voidedBehind := (key a).2 }
  let s := { s with sched := { s.sched with queue := s.sched.queue.map mark,
                                            run := s.sched.run.map fun r => { r with adm := mark r.adm } } }
  let s := vs.foldl (fun s v => setRecord s v.1.job v.1.step fun r => { r with state := 3, status := St.promiseVoid }) s
  deviceEvent (voidRecords s cause (vs.map fun v => v.1) []) 0

/-! ### Islands and their power states (R82 to R85) -/

/-- The wake latency of a state in ns (R82 Table 5). -/
def wakeNs : PowerState → Nat
  | .p0 => 0
  | .c1 => 40
  | .c2 => 3000
  | .c3 => 600000
  | .refresh => 1200

/-- The idle state of groves (R85). -/
def idleGrove (s : State) : PowerState := if bits (inForce s 1) 16 16 = 1 then .c3 else .c2

/-- Whether an open stream names a decoder (R85). -/
def decoderNamed (s : State) (u : Nat) : Bool :=
  s.streams.any fun x => match x.stream with | some y => y.cfg.units.getLsbD u | none => false

/-- The islands that take unknown events (R85). -/
def takesUnknown (s : State) (i : Nat) : Bool :=
  i == islandForeman || i == islandPcie || i == islandTally || i == 0x10D || i == islandCollective || i == islandSluice ||
  (decide (islandDecoder 0 ≤ i) && decide (i < islandTally) && decoderNamed s (i - islandDecoder 0)) ||
  (decide (islandPort 0 ≤ i) && decide (i < islandPort 20) && (at' s.fabric.ports (i - islandPort 0) {}).state == .up)

/-- The idle state of an island (R85). -/
def idleState (s : State) (i : Nat) : PowerState :=
  if i < 128 then idleGrove s
  else if islandStack 0 ≤ i && i < islandForeman then .refresh
  else if takesUnknown s i then .c1 else .c2

/-- The state of an island: as last set, else the idle state of its kind (R85). -/
def islandPower (s : State) (i : Nat) : PowerState :=
  if i < 128 then (at' s.groves i {}).power
  else match s.islands.power.find? fun x => x.1 == i with
    | some x => x.2
    | none => idleState s i

/-- The islands that a placed item needs (R84): its groves, its Sapling or Lode engines, and for each stack the stack, its Lode
engine and the cache slices of its die. -/
def Placed.islands (p : Placed) : List Nat :=
  let hbm := (p.paths.filterMap fun x => match x.1 with | .t1 k => some k | .lodeRead k => some k | _ => none).eraseDups
  p.groves ++ (p.engines.filterMap fun e =>
    if e < 16 then some (islandLode e) else if e < 20 then some (islandSapling (e - 16)) else none) ++
  (hbm.map fun k => [islandStack k, islandLode k]).flatten ++
  ((hbm.map fun k => k / 4).eraseDups.map fun d => (List.range 16).map (islandSlice d)).flatten

/-- Whether two placed items hold something in common: a grove, an engine, a slot or a path (R73). -/
def Placed.shares (p q : Placed) : Bool :=
  p.groves.any q.groves.contains || p.engines.any q.engines.contains || p.paths.any fun x => q.paths.any fun y => x.1 == y.1

/-! ### HALT and reset -/

/-- Ends every command in progress with status HALTED (R347). -/
def haltCommands (s : State) : State := (List.range 64).foldl (fun s m => refuse s m St.halted 0) s

/-- Stops every fabric port (R334, R373, R377). -/
def stopPorts (s : State) : State :=
  { s with fabric := { s.fabric with ports := s.fabric.ports.map fun p =>
      if p.state = .retired then p else { p with state := .down, quarantine := 0, far := none, unacked := [], held := [] } } }

/-- Stops every island but the Foreman, the endpoint and the Tally (R373): their clocks stop, C2 (R82). -/
def stopIslands (s : State) : State :=
  { s with groves := s.groves.map fun g => { g with power := if g.power = .c3 then .c3 else .c2 },
           vec := [],
           islands := { s.islands with power := [] } }

/-- A fatal error (R373), with the severity that its table gives the cause's record: the cause's record, HALT_ENTERED, STATE and LAST_FATAL, the voiding of every step, the ports
and islands stopped, every stream discarded with what it staged (R256), every command ended with HALTED where the Foreman answers, and vector 0 with bit 1. During a shut-down SHDN_DONE follows
(R398). Only a device in START, SERVICE, TEST or RECOVERY can enter HALT (R371). -/
def fatalWith (answer : Bool) (severity : Nat) (s : State) (code source p0 p1 p2 p3 : Nat) : State :=
  match s.dev.state with
  | .off => s
  | .halt => s
  | _ =>
    let step := runStep s
    let shutting := s.dev.shutAsked
    let s := tally s code source severity p0 p1 p2 p3
    let s := tally s 0x02E8 islandForeman 4 code source (lo32 step) 0
    let s := { s with dev := { s.dev with state := .halt, lastFatal := code, shutAsked := false, shutStep := 0, shutBy := none } }
    let s := voidSteps s 7 fun _ => true
    let s := (inHand s).foldl (fun s a => setRecord s a.job a.step fun r =>
      if r.drill then { r with status := St.halted } else r) s
    let s := { s with sched := { s.sched with run := none, queue := [] },
                      streams := s.streams.map fun x => { x with stream := none } }
    let s := stopIslands (stopPorts s)
    let s := if answer then haltCommands s else s
    let s := if shutting then { s with board := { s.board with shdnDone := true } } else s
    deviceEvent s 1

/-- A fatal error that the Foreman handles: it answers every command in progress. -/
def fatalAs : Nat → State → Nat → Nat → Nat → Nat → Nat → Nat → State := fatalWith true

/-- A fatal error whose record is of severity fatal. -/
def fatal : State → Nat → Nat → Nat → Nat → Nat → Nat → State := fatalAs 4

/-- The groves as start-up loads them from the repair map (R111, R374 step 4). -/
def loadGroves (f : Flash) : List Grove :=
  f.groves.map fun g =>
    { role := g.role, mismatches := g.mismatches, tiles := g.tiles, hist := g.hist }

/-- The complete reset of R334 step 5 and R345: every island, T1 and the Foreman's state are lost, the module flash
is kept. The device is in OFF, and start-up is in stage 0 until the release of the reset inputs. LAST_FATAL,
HOST_DISCARDS and device time count from power-on and stay. -/
def deviceReset (s : State) : State :=
  { State.reset with
    time := s.time, fresh := s.fresh, pending := s.pending,
    board := { s.board with window := none, armed := s.board.armed, i3c := none },
    dev := { s.dev with state := .off, stage := 0, monitor := false, foremanDead := false, target := none,
                        shutAsked := false, shutStep := 0, shutBy := none, trial := false, stale := false },
    link := { s.link with d3hot := false, busMaster := false, msixEnable := false, funcMask := false,
                          table := List.replicate 64 {}, pendingBits := List.replicate 64 false },
    regs := { hostDiscards := s.regs.hostDiscards },
    cfg := s.cfg,
    flash := s.flash,
    groves := loadGroves s.flash }

/-- Start of start-up (R371 Table 2, R374): the device is in START, in its first step. A release before 100 ms after
PWR_GOOD is taken to occur then (R402). -/
def beginStart (s : State) : State :=
  { s with dev := { s.dev with state := .start, stage := 1, startedAt := max s.time 100000000 },
           board := { s.board with position := s.board.straps } }

/-- Whether start-up still waits for its release, which comes no earlier than 100 ms after PWR_GOOD (R402). -/
def startWaits (s : State) : Bool := s.dev.state == .start && s.dev.stage == 1 && decide (s.time < s.dev.startedAt)

/-- Steps 3 to 6 of the link-loss sequence (R334 Table 7, R335): voids every step, writes HOST_LINK_LOST with its
cause, stops the ports, resets completely and starts again. -/
def loseLink (s : State) (cause : Nat) : State :=
  let n := ((inHand s).filter fun a => !a.drill).length
  let step := runStep s
  let s := voidSteps s 1 fun _ => true
  let s := tally s 0x02B1 islandPcie 3 n cause (lo32 step) 0
  let s := deviceReset (stopPorts s)
  if s.board.perst || s.board.resetL || !s.board.pwrGood then s else beginStart s

/-- One nanosecond of device time passes while PWR_GOOD is asserted (R6, R402); nothing else happens. -/
def idle (s : State) : State := if s.board.pwrGood then { s with time := s.time + 1 } else s

/-! ### Free values -/

/-- A fresh free value and the state with the counter advanced. -/
def freshValue (s : State) (tag : Nat) : Nat × State := (Config.free tag s.fresh, { s with fresh := s.fresh + 1 })

/-- Wraps a next state. -/
def done (s : State) : Host.Outcome State Fault Refusal := .next s

end Sys2Proof.Machine
end

