-- ==== Sys2Proof/Machine/Float.lean ====
section
/-!
DEFINITION. Exact binary arithmetic and the IEEE 754 forms of R36: dyadic numbers, rounding to nearest even, the
F32 operations of R125, and the functions that R42 binds only by an error bound.
Choices of the model, by log entry: 21 DESIGN CHOICE, 30 DEDUCED.
-/

namespace Sys2Proof.Machine

/-! ### Exact dyadic numbers -/

/-- The exact number m × 2^e. -/
structure Dy where
  m : Int
  e : Int
  deriving DecidableEq, Repr

/-- An integer shifted left by a whole number of places. -/
def shiftUp (m : Int) (k : Nat) : Int := m * (2 ^ k : Nat)

def Dy.zero : Dy := ⟨0, 0⟩
def Dy.ofInt (m : Int) : Dy := ⟨m, 0⟩
def Dy.isZero (a : Dy) : Bool := decide (a.m = 0)
def Dy.mul (a b : Dy) : Dy := ⟨a.m * b.m, a.e + b.e⟩
def Dy.neg (a : Dy) : Dy := ⟨-a.m, a.e⟩
def Dy.abs (a : Dy) : Dy := ⟨a.m.natAbs, a.e⟩
/-- a × 2^k. -/
def Dy.scale (a : Dy) (k : Int) : Dy := ⟨a.m, a.e + k⟩
/-- The exact sum, at the smaller exponent. -/
def Dy.add (a b : Dy) : Dy :=
  if a.m = 0 then b else if b.m = 0 then a
  else if a.e ≤ b.e then ⟨a.m + shiftUp b.m (b.e - a.e).toNat, a.e⟩
  else ⟨shiftUp a.m (a.e - b.e).toNat + b.m, b.e⟩
def Dy.sub (a b : Dy) : Dy := a.add b.neg
def Dy.lt (a b : Dy) : Bool := decide ((a.sub b).m < 0)
def Dy.le (a b : Dy) : Bool := decide ((a.sub b).m ≤ 0)
def Dy.max (a b : Dy) : Dy := if a.lt b then b else a
def Dy.min (a b : Dy) : Dy := if b.lt a then b else a
/-- The exact sum of a list. -/
def Dy.sum (l : List Dy) : Dy := l.foldl Dy.add Dy.zero

/-- ⌊log2⌋ of the magnitude of a number that is not zero. -/
def Dy.floorLog (a : Dy) : Int := Nat.log2 a.m.natAbs + a.e

/-- ⌈log2⌉ of the magnitude of a number that is not zero: c of R27. -/
def Dy.ceilLog (a : Dy) : Int :=
  if a.m.natAbs = 2 ^ Nat.log2 a.m.natAbs then a.floorLog else a.floorLog + 1

/-- m / 2^k rounded to nearest, ties to even. -/
def rneShift (m k : Nat) : Nat :=
  let q := m / 2 ^ k
  let r := m % 2 ^ k
  if 2 * r > 2 ^ k || (2 * r == 2 ^ k && q % 2 == 1) then q + 1 else q

/-- The magnitude of a as a count of steps 2^q, rounded to nearest even. -/
def Dy.rne (a : Dy) (q : Int) : Nat :=
  if q ≤ a.e then a.m.natAbs * 2 ^ (a.e - q).toNat else rneShift a.m.natAbs (q - a.e).toNat

/-- The signed count of steps 2^q nearest to a (R32). -/
def Dy.rneInt (a : Dy) (q : Int) : Int := if a.m < 0 then -(a.rne q : Int) else a.rne q

/-- ⌊a / 2^q⌋. -/
def Dy.floorAt (a : Dy) (q : Int) : Int :=
  if q ≤ a.e then shiftUp a.m (a.e - q).toNat else a.m / (2 ^ (q - a.e).toNat : Nat)

/-- ⌈a / 2^q⌉. -/
def Dy.ceilAt (a : Dy) (q : Int) : Int := -(a.neg.floorAt q)

/-! ### IEEE 754 binary forms -/

/-- A binary interchange form: fraction bits and exponent bits. -/
structure Ieee where
  frac : Nat
  expo : Nat
  deriving DecidableEq, Repr

def ieee32 : Ieee := ⟨23, 8⟩
def ieee16 : Ieee := ⟨10, 5⟩
def ieee64 : Ieee := ⟨52, 11⟩

/-- The exponent of the smallest step (the spacing of subnormals). -/
def Ieee.least (f : Ieee) : Int := 2 - (2 ^ (f.expo - 1) : Nat) - f.frac
/-- The pattern of +∞. -/
def Ieee.infBits (f : Ieee) : Nat := (2 ^ f.expo - 1) * 2 ^ f.frac
/-- The pattern of the largest finite magnitude. -/
def Ieee.maxBits (f : Ieee) : Nat := f.infBits - 1
/-- The weight of the sign bit. -/
def Ieee.signBit (f : Ieee) : Nat := 2 ^ (f.frac + f.expo)

/-- A value met in a path: a number with its sign kept apart (so that −0 is kept), an infinity or a NaN. -/
inductive FVal where
  | fin (neg : Bool) (mag : Nat) (e : Int)
  | inf (neg : Bool)
  | nan
  deriving DecidableEq, Repr

def FVal.ofDy (a : Dy) : FVal := .fin (decide (a.m < 0)) a.m.natAbs a.e
/-- The exact number of a finite value, and zero otherwise. -/
def FVal.dy : FVal → Dy
  | .fin n m e => ⟨if n then -(m : Int) else m, e⟩
  | _ => Dy.zero

/-- Reads a pattern. -/
def Ieee.decode (f : Ieee) (p : Nat) : FVal :=
  let neg := decide (p / f.signBit % 2 = 1)
  let mag := p % f.signBit
  let ex := mag / 2 ^ f.frac
  let fr := mag % 2 ^ f.frac
  if f.infBits < mag then .nan
  else if mag = f.infBits then .inf neg
  else if ex = 0 then .fin neg fr f.least
  else .fin neg (2 ^ f.frac + fr) (f.least + (ex - 1))

/-- The exponent of the spacing at the magnitude m × 2^e, m not zero. -/
def Ieee.quantum (f : Ieee) (m : Nat) (e : Int) : Int := max (Nat.log2 m + e - f.frac) f.least

/-- The magnitude pattern of n steps of 2^q, where n is at most 2^(frac + 1). -/
def Ieee.pattern (f : Ieee) (n : Nat) (q : Int) : Nat := (q - f.least).toNat * 2 ^ f.frac + n

/-- The magnitude pattern of m × 2^e rounded to nearest even; at or above infBits on overflow. -/
def Ieee.roundMag (f : Ieee) (m : Nat) (e : Int) : Nat :=
  if m = 0 then 0 else
  let q := f.quantum m e
  f.pattern ((⟨m, e⟩ : Dy).rne q) q

/-- The magnitude pattern of m × 2^e rounded towards +∞; at or above infBits on overflow. -/
def Ieee.ceilMag (f : Ieee) (m : Nat) (e : Int) : Nat :=
  if m = 0 then 0 else
  let q := f.quantum m e
  f.pattern ((⟨m, e⟩ : Dy).ceilAt q).toNat q

/-- Rounds a finite value to the form, overflow to an infinity (R36). -/
def Ieee.round (f : Ieee) (neg : Bool) (m : Nat) (e : Int) : Nat :=
  bit neg * f.signBit + min (f.roundMag m e) f.infBits

/-- Rounds an exact number to the form; an exact zero is +0. -/
def Ieee.ofDy (f : Ieee) (a : Dy) : Nat := f.round (decide (a.m < 0)) a.m.natAbs a.e

/-! ### Binary32 in registers (R36, R125) -/

def f32 (w : Word) : FVal := ieee32.decode w.toNat
def f32IsNan (w : Word) : Bool := decide (ieee32.infBits < w.toNat % 2 ^ 31)
def f32Neg (w : Word) : Bool := decide (2 ^ 31 ≤ w.toNat)
/-- A quiet NaN; its payload is not fixed by binary32 arithmetic. -/
def f32Nan (a b : Word) : Word := 0x7FC00000#32 ||| (Config.nanBits a b &&& 0x803FFFFF#32)
def f32Inf (neg : Bool) : Word := if neg then 0xFF800000#32 else 0x7F800000#32
def f32Zero (neg : Bool) : Word := if neg then 0x80000000#32 else 0#32
def f32Round (neg : Bool) (m : Nat) (e : Int) : Word := BitVec.ofNat 32 (ieee32.round neg m e)
/-- Rounds an exact number to binary32; an exact zero takes the given sign. -/
def f32OfDy (a : Dy) (zeroNeg : Bool) : Word :=
  if a.m = 0 then f32Zero zeroNeg else BitVec.ofNat 32 (ieee32.ofDy a)

def f32Negate (w : Word) : Word := w ^^^ 0x80000000#32
def f32Abs (w : Word) : Word := w &&& 0x7FFFFFFF#32

/-- Whether two signs give a zero sum the sign minus, in rounding to nearest: only −0 + −0. -/
def bothNeg (a b : Bool) : Bool := a && b

def f32Add (a b : Word) : Word :=
  match f32 a, f32 b with
  | .fin na ma ea, .fin nb mb eb =>
    f32OfDy ((FVal.fin na ma ea).dy.add (FVal.fin nb mb eb).dy) (bothNeg na nb)
  | .inf na, .inf nb => if na == nb then f32Inf na else f32Nan a b
  | .inf na, .fin _ _ _ => f32Inf na
  | .fin _ _ _, .inf nb => f32Inf nb
  | _, _ => f32Nan a b

def f32Sub (a b : Word) : Word := if f32IsNan b then f32Nan a b else f32Add a (f32Negate b)

def f32Mul (a b : Word) : Word :=
  match f32 a, f32 b with
  | .fin na ma ea, .fin nb mb eb => f32Round (na != nb) (ma * mb) (ea + eb)
  | .inf na, .inf nb => f32Inf (na != nb)
  | .inf na, .fin nb mb _ => if mb = 0 then f32Nan a b else f32Inf (na != nb)
  | .fin na ma _, .inf nb => if ma = 0 then f32Nan a b else f32Inf (na != nb)
  | _, _ => f32Nan a b

/-- a × b + c, rounded once. -/
def f32Fma (a b c : Word) : Word :=
  match f32 a, f32 b, f32 c with
  | .fin na ma ea, .fin nb mb eb, .fin nc mc ec =>
    let p : Dy := (FVal.fin (na != nb) (ma * mb) (ea + eb)).dy
    f32OfDy (p.add (FVal.fin nc mc ec).dy) (bothNeg (na != nb) nc)
  | .fin _ _ _, .fin _ _ _, .inf nc => f32Inf nc
  | .nan, _, _ => f32Nan a b
  | _, .nan, _ => f32Nan a b
  | _, _, .nan => f32Nan a c
  | _, _, _ =>
    let p := f32Mul a b
    if f32IsNan p then p else f32Add p c

/-- An order on patterns that are not NaN, with −0 below +0. -/
def f32Key (w : Word) : Int := if f32Neg w then -((w.toNat % 2 ^ 31 : Nat) : Int) - 1 else (w.toNat : Int)

def f32Min (a b : Word) : Word :=
  if f32IsNan a || f32IsNan b then f32Nan a b else if f32Key b < f32Key a then b else a
def f32Max (a b : Word) : Word :=
  if f32IsNan a || f32IsNan b then f32Nan a b else if f32Key a < f32Key b then b else a

/-- Comparison by value: −0 equals +0. -/
def f32ValKey (w : Word) : Int := if f32Neg w then -((w.toNat % 2 ^ 31 : Nat) : Int) else (w.toNat : Int)

/-- Compare conditions of R125, on keys; `un` tells that a NaN is involved. -/
def compareBy (cond : Nat) (un : Bool) (a b : Int) : Bool :=
  match cond with
  | 0 => !un && decide (a = b)
  | 1 => un || decide (a ≠ b)
  | 2 => !un && decide (a < b)
  | 3 => !un && decide (a ≤ b)
  | 4 => !un && decide (b < a)
  | 5 => !un && decide (b ≤ a)
  | 6 => un
  | _ => false

def f32Compare (cond : Nat) (a b : Word) : Bool :=
  compareBy cond (f32IsNan a || f32IsNan b) (f32ValKey a) (f32ValKey b)

/-- Division, correctly rounded (R184). -/
def f32Div (a b : Word) : Word :=
  match f32 a, f32 b with
  | .fin na ma ea, .fin nb mb eb =>
    if mb = 0 then (if ma = 0 then f32Nan a b else f32Inf (na != nb))
    else
      let n := ma * 2 ^ 160
      f32Round (na != nb) (2 * (n / mb) + (if n % mb = 0 then 0 else 1)) (ea - eb - 161)
  | .inf _, .inf _ => f32Nan a b
  | .inf na, .fin nb _ _ => f32Inf (na != nb)
  | .fin na _ _, .inf nb => f32Zero (na != nb)
  | _, _ => f32Nan a b

/-- ⌊√n⌋, bit by bit. -/
def isqrt (n : Nat) : Nat :=
  (List.range (Nat.log2 n / 2 + 1)).reverse.foldl (fun r i => if (r + 2 ^ i) ^ 2 ≤ n then r + 2 ^ i else r) 0

/-- √(m × 2^e) as a mantissa with a sticky last bit, at least 60 significant bits. -/
def sqrtApprox (m : Nat) (e : Int) : Nat × Int :=
  let k : Nat := if e % 2 = 0 then 128 else 129
  let n := m * 2 ^ k
  let r := isqrt n
  (2 * r + (if r * r = n then 0 else 1), (e - k) / 2 - 1)

/-- Square root, correctly rounded (R42). -/
def f32Sqrt (a : Word) : Word :=
  match f32 a with
  | .fin neg m e =>
    if m = 0 then a else if neg then f32Nan a a
    else let r := sqrtApprox m e; f32Round false r.1 r.2
  | .inf neg => if neg then f32Nan a a else a
  | .nan => f32Nan a a

/-! ### Functions bound by R42 Table 8

An approximation of the exact result is computed with far more bits than the bound; the device's own result (a value
the manual leaves open) is taken where it lies within the bound of that approximation, and the rounded
approximation otherwise. -/

/-- An approximation of a real number: sign, mantissa and exponent, right to a relative 2^-56 or better. -/
abbrev Approx := Bool × Nat × Int

/-- The signed exact number of an approximation. -/
def Approx.dy (a : Approx) : Dy := (FVal.fin a.1 a.2.1 a.2.2).dy

/-- Whether a finite candidate lies within k ulps of the exact result: within k ulps less 2^-36 of an ulp of an
approximation, which is right to less than that. -/
def withinUlps (a : Approx) (k : Nat) (c : Word) : Bool :=
  match f32 c with
  | .fin n m e =>
    let q := if a.2.1 = 0 then ieee32.least else ieee32.quantum a.2.1 a.2.2
    let d := ((FVal.fin n m e).dy.sub (Approx.dy a)).abs
    d.le ⟨(k * 2 ^ 36 - 1 : Nat), q - 36⟩
  | _ => false

/-- Whether a finite candidate lies within the absolute distance 2^-b of the exact result, less 2^-36 of it for the
approximation's own error. -/
def withinAbs (a : Approx) (b : Nat) (c : Word) : Bool :=
  match f32 c with
  | .fin n m e =>
    let d := ((FVal.fin n m e).dy.sub (Approx.dy a)).abs
    d.le ⟨(2 ^ 36 - 1 : Nat), -(b : Int) - 36⟩
  | _ => false

/-- The rounded approximation. -/
def Approx.round (a : Approx) : Word := f32Round a.1 a.2.1 a.2.2

def boundUlps (fn k : Nat) (a : Approx) (x : Word) : Word :=
  let c := Config.vectorFn fn x
  if withinUlps a k c then c else a.round

def boundAbs (fn b : Nat) (a : Approx) (x : Word) : Word :=
  let c := Config.vectorFn fn x
  if withinAbs a b c then c else a.round

/-- The fixed-point scale of the approximations, 2^200. -/
def fixBits : Nat := 200
def fixOne : Nat := 2 ^ fixBits
def fixLn2 : Nat := 1113844574712631719546256151097547306333272293549090750737802
def fixLog2e : Nat := 2318321547468254865173387471183990171487108758923299108729110
def fixPi : Nat := 5048344754617993871973410141242436836214643421488662971535368
def fixTwoOverRootPi : Nat := 1813235411955051368075975534027907639852476658415964181376627

/-- A dyadic as a fixed-point number, rounded down. -/
def Dy.fix (a : Dy) : Int := a.floorAt (-(fixBits : Int))

/-- Σ t^n / n! for a fixed-point t in [0, 1). -/
def fixExpGo (t : Nat) : Nat → Nat → Nat → Nat → Nat
  | 0, _, _, acc => acc
  | fuel + 1, n, term, acc => fixExpGo t fuel (n + 1) (term * t / fixOne / n) (acc + term)
def fixExp (t : Nat) : Nat := fixExpGo t 60 1 fixOne 0

/-- 2^y for a fixed-point y, as an approximation. -/
def fixExp2 (y : Int) : Approx :=
  let k := y / (fixOne : Int)
  let f := (y % (fixOne : Int)).toNat
  (false, fixExp (f * fixLn2 / fixOne), k - fixBits)

/-- e^y for a fixed-point y. -/
def fixExpE (y : Int) : Approx := fixExp2 (y * (fixLog2e : Int) / (fixOne : Int))

/-- 2 Σ z^(2k+1) / (2k+1): ln((1 + z) / (1 − z)) for a fixed-point z up to 1/3. -/
def fixAtanhGo (z2 : Nat) : Nat → Nat → Nat → Nat → Nat
  | 0, _, _, acc => acc
  | fuel + 1, n, pow, acc => fixAtanhGo z2 fuel (n + 2) (pow * z2 / fixOne) (acc + pow / n)
/-- ln of m × 2^e, fixed point. -/
def fixLn (m : Nat) (e : Int) : Int :=
  let l := Nat.log2 m
  let f := m * 2 ^ fixBits / 2 ^ l
  let z := (f - fixOne) * fixOne / (f + fixOne)
  ((2 * fixAtanhGo (z * z / fixOne) 70 1 z 0 : Nat) : Int) + (e + l) * (fixLn2 : Int)

/-- Σ (−1)^k r^(2k + p) / (2k + p)! with the given start. -/
def fixTrigGo (r2 : Int) : Nat → Nat → Int → Int → Int
  | 0, _, _, acc => acc
  | fuel + 1, n, term, acc =>
    fixTrigGo r2 fuel (n + 2) (-(term * r2 / (fixOne : Int) / ((n * (n + 1) : Nat) : Int))) (acc + term)
def fixSin (r : Int) : Int := fixTrigGo (r * r / (fixOne : Int)) 50 2 r 0
def fixCos (r : Int) : Int := fixTrigGo (r * r / (fixOne : Int)) 50 1 (fixOne : Int) 0
/-- The argument reduced into [−π, π). -/
def fixReduce (y : Int) : Int := (y + (fixPi : Int)) % (2 * (fixPi : Int)) - (fixPi : Int)

/-- Σ (−1)^n x^(2n+1) / (n! (2n + 1)). -/
def fixErfGo (x2 : Int) : Nat → Nat → Int → Int → Int
  | 0, _, _, acc => acc
  | fuel + 1, n, term, acc =>
    fixErfGo x2 fuel (n + 1) (-(term * x2 / (fixOne : Int) / ((n + 1 : Nat) : Int)))
      (acc + term / ((2 * n + 1 : Nat) : Int))
def fixErf (x : Int) : Int :=
  if 6 * (fixOne : Int) < x then (fixOne : Int) else if x < -6 * (fixOne : Int) then -(fixOne : Int)
  else fixErfGo (x * x / (fixOne : Int)) 200 0 x 0 * (fixTwoOverRootPi : Int) / (fixOne : Int)

/-- A fixed-point number as an approximation. -/
def fixApprox (y : Int) : Approx := (decide (y < 0), y.natAbs, -(fixBits : Int))

/-- exp or exp2 (R42): 2 ulp where the result is normal, +0 and +∞ where the rounded result underflows or overflows, and a
value the manual does not state where it is subnormal. -/
def f32ExpBy (fn : Nat) (base2 : Bool) (x : Word) : Word :=
  match f32 x with
  | .nan => f32Nan x x
  | .inf neg => if neg then 0 else f32Inf false
  | .fin n m e =>
    let d := (FVal.fin n m e).dy
    if d.lt ⟨-200, 0⟩ then 0
    else if (Dy.ofInt 200).lt d then f32Inf false
    else
      let a := if base2 then fixExp2 d.fix else fixExpE d.fix
      let p := ieee32.roundMag a.2.1 a.2.2
      if p = 0 then 0 else if ieee32.infBits ≤ p then f32Inf false
      else if (Nat.log2 a.2.1 : Int) + a.2.2 < -126 then Config.vectorFn fn x else boundUlps fn 2 a x

/-- ln or log2 (R42). -/
def f32LogBy (fn : Nat) (base2 : Bool) (x : Word) : Word :=
  match f32 x with
  | .nan => f32Nan x x
  | .inf neg => if neg then f32Nan x x else f32Inf false
  | .fin n m e =>
    if m = 0 then f32Inf true else if n then f32Nan x x
    else
      let l := fixLn m e
      boundUlps fn 2 (fixApprox (if base2 then l * (fixLog2e : Int) / (fixOne : Int) else l)) x

/-- sin or cos (R42): a NaN beyond 2^16. -/
def f32TrigBy (fn : Nat) (sine : Bool) (x : Word) : Word :=
  match f32 x with
  | .fin n m e =>
    let d := (FVal.fin n m e).dy
    if (Dy.ofInt 65536).lt d.abs then f32Nan x x
    else
      let r := fixReduce d.fix
      boundAbs fn 22 (fixApprox (if sine then fixSin r else fixCos r)) x
  | _ => f32Nan x x

/-- A finite operand limited to ±200, where tanh, sigmoid and erf have reached their limits. -/
def fixLimited (d : Dy) : Int := if (Dy.ofInt 200).lt d then 200 * (fixOne : Int)
  else if d.lt (Dy.ofInt (-200)) then -200 * (fixOne : Int) else d.fix

/-- The fixed-point value of an approximation of a number up to 1. -/
def Approx.fix (a : Approx) : Int := (Approx.dy a).fix

def fixTanh (y : Int) : Int :=
  let t := (fixExpE (-2 * (y.natAbs : Int))).fix
  let r := ((fixOne : Int) - t) * (fixOne : Int) / ((fixOne : Int) + t)
  if y < 0 then -r else r

def fixSigmoid (y : Int) : Int :=
  let t := (fixExpE (-(y.natAbs : Int))).fix
  let r := (fixOne : Int) * (fixOne : Int) / ((fixOne : Int) + t)
  if y < 0 then (fixOne : Int) - r else r

/-- tanh, sigmoid or erf (R42). -/
def f32Limited (fn b : Nat) (f : Int → Int) (atNegInf : Word) (x : Word) : Word :=
  match f32 x with
  | .nan => f32Nan x x
  | .inf neg => if neg then atNegInf else 0x3F800000#32
  | .fin n m e => boundAbs fn b (fixApprox (f (fixLimited (FVal.fin n m e).dy))) x

/-- Reciprocal, within 1 ulp (R42). -/
def f32Rcp (x : Word) : Word :=
  match f32 x with
  | .nan => f32Nan x x
  | .inf neg => f32Zero neg
  | .fin n m e =>
    if m = 0 then f32Inf n
    else boundUlps 9 1 (n, 2 * (2 ^ 128 / m) + 1, -e - 129) x

/-- Reciprocal square root, within 2 ulp (R42). -/
def f32Rsqrt (x : Word) : Word :=
  match f32 x with
  | .nan => f32Nan x x
  | .inf neg => if neg then f32Nan x x else 0
  | .fin n m e =>
    if m = 0 then f32Inf n else if n then f32Nan x x
    else
      let r := sqrtApprox m e
      boundUlps 10 2 (false, 2 ^ 200 / r.1, -r.2 - 200) x

def f32Exp (x : Word) : Word := f32ExpBy 0 false x
def f32Exp2 (x : Word) : Word := f32ExpBy 1 true x
def f32Log (x : Word) : Word := f32LogBy 2 false x
def f32Log2 (x : Word) : Word := f32LogBy 3 true x
def f32Sin (x : Word) : Word := f32TrigBy 4 true x
def f32Cos (x : Word) : Word := f32TrigBy 5 false x
def f32Tanh (x : Word) : Word := f32Limited 6 22 fixTanh 0xBF800000#32 x
def f32Sigmoid (x : Word) : Word := f32Limited 7 23 fixSigmoid 0 x
def f32Erf (x : Word) : Word := f32Limited 8 22 fixErf 0xBF800000#32 x

/-! ### Conversions between integers and binary32 (R126) -/

/-- int32 to F32, rounded to nearest even. -/
def f32OfInt (w : Word) : Word := f32OfDy (Dy.ofInt w.toInt) false

/-- F32 to int32: nearest even, a NaN as 0, saturated at the limits. -/
def intOfF32 (w : Word) : Word :=
  match f32 w with
  | .nan => 0
  | .inf neg => if neg then 0x80000000#32 else 0x7FFFFFFF#32
  | .fin n m e =>
    let v := (FVal.fin n m e).dy.rneInt 0
    if v < -2147483648 then 0x80000000#32 else if 2147483647 < v then 0x7FFFFFFF#32 else BitVec.ofInt 32 v

/-- a × 2^k exactly, then rounded to binary32. -/
def f32Scale (w : Word) (k : Int) : Word :=
  match f32 w with
  | .fin n m e =>
    if m = 0 then w
    else if 400 < k then f32Inf n else if k < -400 then f32Zero n
    else f32Round n m (e + k)
  | .inf neg => f32Inf neg
  | .nan => f32Nan w w

end Sys2Proof.Machine
end

