-- ==== Sys2Proof/Machine/Formats.lean ====
section
/-!
DEFINITION. Number formats, scaling and conversion (R18 to R40, R412), and the counter generator (R268): tile
layouts, the load path, the store path with its statistics, stochastic rounding, and the scale entry.
Choices of the model, by log entry: 9 DESIGN CHOICE, 16 DESIGN CHOICE, 17 DESIGN CHOICE, 25 DEDUCED, 70 DEDUCED.
-/

namespace Sys2Proof

/-- Whether a format is a block format (R18). -/
def Format.isBlock : Format → Bool
  | .bx8 | .bx4 | .ux8 | .ux4 => true
  | _ => false

/-- Whether a format is tiled (R20, R21): all but the integers. -/
def Format.isTiled : Format → Bool
  | .int32 | .int64 => false
  | _ => true

/-- Element width in bits (R18 Table 1). -/
def Format.width : Format → Nat
  | .f32 | .int32 => 32
  | .f16 => 16
  | .bx8 | .ux8 => 8
  | .bx4 | .ux4 => 4
  | .int64 => 64

/-- The binary places of a block format: the step is 2^(e_t − o_b − places). -/
def Format.places : Format → Nat
  | .bx8 => 7 | .bx4 => 3 | .ux8 => 8 | .ux4 => 4 | _ => 0

/-- q_max of a block format. -/
def Format.qMax : Format → Nat
  | .bx8 => 127 | .bx4 => 7 | .ux8 => 255 | .ux4 => 15 | _ => 0

/-- Whether a block format's codes are signed. -/
def Format.signed : Format → Bool
  | .ux8 | .ux4 => false
  | _ => true

/-- Dense tile bytes (R20), or the 8,192-byte unit of the integers (R21). -/
def Format.tileBytes : Format → Nat
  | .bx8 | .ux8 => 8320
  | .bx4 | .ux4 => 4224
  | .f32 => 32768
  | .f16 => 16384
  | .int32 | .int64 => 8192

/-- The largest zero-run tile (R23). -/
def Format.zeroRunMax : Format → Nat
  | .bx8 | .ux8 => 9344
  | .bx4 | .ux4 => 5248
  | f => f.tileBytes

/-- Where element (k, n) of a tile stands, in bits from the tile's first byte (R20, R21). -/
def Format.elemBit (f : Format) (k n : Nat) : Nat :=
  match f with
  | .bx8 | .ux8 => 8 * (128 + 64 * n + k)
  | .bx4 | .ux4 => 8 * 128 + 4 * (64 * n + k)
  | _ => f.width * (64 * n + k)

/-- The count of block steps at offset o. -/
def Format.stepExp (f : Format) (eT : Int) (o : Nat) : Int := eT - o - f.places

/-- Elements in a tile or unit. -/
def Format.perTile : Format → Nat
  | .int32 => 2048 | .int64 => 1024 | _ => 8192

end Sys2Proof

namespace Sys2Proof.Machine

/-! ### Formats and tiles -/

/-- The largest a tile of an object can be (R23, R117). -/
def tileMax (f : Format) (zeroRun : Bool) : Nat := if zeroRun then f.zeroRunMax else f.tileBytes

/-- The bytes of a zero-run tile that holds z elements that are not zero (R23). -/
def zeroRunBytes (f : Format) (z : Nat) : Nat := 1152 + 32 * ceilDiv (z * f.width) 256

/-- The extent of dimension i of an object. -/
def ObjEntry.dim (e : ObjEntry) (i : Nat) : Nat := at' e.dims i 1
/-- T0 and T1 of R49. -/
def ObjEntry.t0 (e : ObjEntry) : Nat := ceilDiv (e.dim 0) 64
def ObjEntry.t1 (e : ObjEntry) : Nat := ceilDiv (e.dim 1) 128
/-- The number of elements. -/
def ObjEntry.elements (e : ObjEntry) : Nat := e.dim 0 * e.dim 1 * e.dim 2 * e.dim 3 * e.dim 4
/-- The number of tiles (R49), or of 8,192-byte units. -/
def ObjEntry.tiles (e : ObjEntry) : Nat :=
  if e.format.isTiled then e.t0 * e.t1 * e.dim 2 * e.dim 3 * e.dim 4
  else ceilDiv e.elements e.format.perTile
/-- The bytes of the object's largest tile. -/
def ObjEntry.tileMax (e : ObjEntry) : Nat := Sys2Proof.Machine.tileMax e.format e.zeroRun
/-- Tile number of K-tile j0, N-tile j1 and the outer index o (R49). -/
def ObjEntry.tileAt (e : ObjEntry) (j0 j1 o : Nat) : Nat := j0 + e.t0 * (j1 + e.t1 * o)
/-- K-tile, N-tile and outer index of a tile number. -/
def ObjEntry.tilePos (e : ObjEntry) (t : Nat) : Nat × Nat × Nat := (t % e.t0, t / e.t0 % e.t1, t / e.t0 / e.t1)
/-- Whether element (k, n) of a tile is inside the object (R22). -/
def ObjEntry.real (e : ObjEntry) (t k n : Nat) : Bool :=
  let p := e.tilePos t
  decide (64 * p.1 + k < e.dim 0) && decide (128 * p.2.1 + n < e.dim 1)

/-! ### Reading elements (the load path) -/

/-- The pattern of an element. -/
def readPattern (f : Format) (m : Mem) (base k n : Nat) : Nat :=
  let b := f.elemBit k n
  if f.width = 4 then bits (Mem.get m (base + b / 8)).toNat (b % 8 + 3) (b % 8)
  else Mem.le m (base + b / 8) (f.width / 8)

/-- The offset of column n, half k / 32 (R20 Table 2). -/
def readOffset (m : Mem) (base k n : Nat) : Nat :=
  let h := (Mem.get m (base + n)).toNat
  if k < 32 then h % 16 else h / 16

/-- A code of a block format as a number, −128 and −8 replaced by −127 and −7 (R19), and whether it was replaced. -/
def codeValue (f : Format) (p : Nat) : Int × Bool :=
  if !f.signed then (p, false)
  else
    let half := 2 ^ (f.width - 1)
    if p = half then (-(f.qMax : Int), true)
    else if half < p then ((p : Int) - 2 ^ f.width, false) else (p, false)

/-- An element as stored: its value and whether R19 replaced its code. -/
def readElem (f : Format) (eT : Int) (m : Mem) (base k n : Nat) : FVal × Bool :=
  let p := readPattern f m base k n
  match f with
  | .f32 => (ieee32.decode p, false)
  | .f16 => (ieee16.decode p, false)
  | .int32 => (.ofDy (.ofInt (BitVec.ofNat 32 p).toInt), false)
  | .int64 => (.ofDy (.ofInt (BitVec.ofNat 64 p).toInt), false)
  | _ =>
    let c := codeValue f p
    (.ofDy ⟨c.1, eT - readOffset m base k n - f.places⟩, c.2)

/-- The largest finite binary32 and binary64, and 65,504, as numbers. -/
def maxF32 : Dy := ⟨2 ^ 24 - 1, 104⟩
def maxF16 : Dy := ⟨65504, 0⟩
def maxF64 : Dy := ⟨2 ^ 53 - 1, 971⟩

/-- R35: a NaN becomes 0, an infinity the largest finite value of the destination form; the flag tells of either. -/
def finite (limit : Dy) : FVal → Dy × Bool
  | .fin n m e => ((FVal.fin n m e).dy, false)
  | .inf n => (if n then limit.neg else limit, true)
  | .nan => (Dy.zero, true)

/-! ### Statistics of a scale entry (R24, R26) -/

def Stats.merge (a b : Stats) : Stats :=
  ⟨a.sat + b.sat, a.nonfinite + b.nonfinite, max a.raw b.raw, max a.stored b.stored⟩

/-- The magnitude of a number rounded towards +∞ to F32 and held at the largest finite binary32 (R24). -/
def amaxBits (d : Dy) : Nat := min (ieee32.ceilMag d.m.natAbs d.e) ieee32.maxBits

/-- Bits [31:16] of a pattern, rounded towards +∞ to those 16 bits (R24). -/
def upper16 (p : Nat) : Nat := (p + 65535) / 65536

/-- Adds statistics to a scale entry. -/
def ScaleEntry.record (e : ScaleEntry) (st : Stats) : ScaleEntry :=
  { e with sat := capAt (2 ^ 32 - 1) (e.sat + st.sat),
           nonfiniteCount := capAt 65535 (e.nonfiniteCount + st.nonfinite),
           nonfinite := e.nonfinite || decide (0 < st.nonfinite),
           raw := BitVec.ofNat 32 (max e.raw.toNat st.raw),
           stored := BitVec.ofNat 16 (max e.stored.toNat (upper16 st.stored)) }

/-- AMAX_STORED as R27 reads it: widened to F32, 0x7F80 as the largest finite binary32. -/
def ScaleEntry.storedF32 (e : ScaleEntry) : Word :=
  if e.stored = 0x7F80 then 0x7F7FFFFF#32 else BitVec.ofNat 32 (e.stored.toNat * 65536)

/-- c(a) + m clamped to −128 to 127 (R27), a not zero. -/
def scaleExponent (a : Word) (margin : Nat) : Int :=
  max (-128) (min 127 ((f32 a).dy.ceilLog + margin))

/-- The next E_T, CATCHUP and recorded amax of an entry (R27, R28). -/
def ScaleEntry.sync (e : ScaleEntry) : Int × Bool × Word :=
  if e.threshold < e.sat && e.raw != 0 then (scaleExponent e.raw e.margin, true, e.raw)
  else
    let a := e.storedF32
    let h := (e.hist.take e.delay).foldl (fun h x => if h.toNat < x.toNat then x else h) a
    (if h = 0 then e.eT else scaleExponent h e.margin, false, a)

/-- The entry of the next step: the held values replace it, the history shifts, the record clears (R27, R30). -/
def ScaleEntry.advance (e : ScaleEntry) : ScaleEntry :=
  match e.next with
  | none => e
  | some (eT, catchup, a) =>
    { e with eT, catchup, hist := (a :: e.hist).take 4, sat := 0, raw := 0, stored := 0, nonfinite := false,
             nonfiniteCount := 0, next := none }

/-- A scale entry from its 256 image bits (R24 Table 3): the RW fields of the image, RO fields at reset. -/
def ScaleEntry.parse (v : Nat) : ScaleEntry :=
  { eT := (BitVec.ofNat 8 v).toInt, delay := bits v 9 8, margin := bits v 11 10, threshold := bits v 31 16 }

/-- A scale entry from all its 256 bits, RO fields included (R24 Table 3). -/
def ScaleEntry.unpack (v : Nat) : ScaleEntry :=
  { ScaleEntry.parse v with
    nonfinite := bits v 12 12 == 1, catchup := bits v 13 13 == 1, sat := bits v 63 32, raw := BitVec.ofNat 32 (bits v 95 64),
    hist := (List.range 4).map fun k => BitVec.ofNat 32 (bits v (127 + 32 * k) (96 + 32 * k)),
    nonfiniteCount := bits v 239 224, stored := BitVec.ofNat 16 (bits v 255 240) }

/-- The 256 bits of a scale entry (R24 Table 3). -/
def ScaleEntry.pack (e : ScaleEntry) : Nat :=
  (BitVec.ofInt 8 e.eT).toNat + field 8 e.delay + field 10 e.margin + field 12 (bit e.nonfinite) +
  field 13 (bit e.catchup) + field 16 e.threshold + field 32 e.sat + field 64 e.raw.toNat +
  field 96 (at' e.hist 0 0).toNat + field 128 (at' e.hist 1 0).toNat + field 160 (at' e.hist 2 0).toNat +
  field 192 (at' e.hist 3 0).toNat + field 224 e.nonfiniteCount + field 240 e.stored.toNat

/-! ### Writing elements (the store path) -/

/-- The offset of R25 for the block maximum: the largest o from 15 down whose rounding stays within q_max. -/
def chooseOffsetGo (f : Format) (eT : Int) (mb : Dy) : Nat → Nat
  | 0 => 0
  | o + 1 => if mb.rne (f.stepExp eT (o + 1)) ≤ f.qMax then o + 1 else chooseOffsetGo f eT mb o
def chooseOffset (f : Format) (eT : Int) (mb : Dy) : Nat := if mb.isZero then 15 else chooseOffsetGo f eT mb 15

/-- The largest magnitude of a list. -/
def maxAbs (l : List Dy) : Dy := l.foldl (fun a d => a.max d.abs) Dy.zero

/-- Saturates a count of steps (R26): the code and whether it saturated. -/
def saturate (f : Format) (q : Int) : Int × Bool :=
  if (f.qMax : Int) < q then (f.qMax, true)
  else if q < -(f.qMax : Int) then (if f.signed then -(f.qMax : Int) else 0, true)
  else if !f.signed && decide (q < 0) then (0, true)
  else (q, false)

/-- Converts one block of values (R25, R26, R35): the offset, the codes, the statistics. -/
def quantBlock (f : Format) (eT : Int) (vals : List FVal) : Nat × List Int × Stats :=
  let limit : Dy := ⟨f.qMax, eT - f.places⟩
  let ds := vals.map (finite limit)
  let o := chooseOffset f eT (maxAbs (ds.map fun d => d.1))
  let qs := ds.map fun d => saturate f (d.1.rneInt (f.stepExp eT o))
  let raw := maxAbs (ds.map fun d => if d.2 then Dy.zero else d.1)
  (o, qs.map fun q => q.1,
   { sat := qs.countP fun q => q.2, nonfinite := ds.countP fun d => d.2, raw := amaxBits raw,
     stored := amaxBits (maxAbs (List.zipWith (fun d q => if d.2 then Dy.zero else ⟨q.1, f.stepExp eT o⟩) ds qs)) })

/-- Converts a value to a form of R18 that holds its own exponent: F32 or F16, saturating finite overflow. -/
def quantIeee (i : Ieee) (limit : Dy) (v : FVal) : Nat × Stats :=
  let d := finite limit v
  let p := i.roundMag d.1.m.natAbs d.1.e
  let above := decide (i.maxBits < p)
  let mag := min p i.maxBits
  let raw := if d.2 then 0 else amaxBits d.1
  (mag + (if d.1.m < 0 && decide (mag ≠ 0) then i.signBit else 0),
   { sat := bit above, nonfinite := bit d.2, raw, stored := if d.2 then 0 else amaxBits (i.decode mag).dy })

/-- Converts a value to an integer of w bits (R412): nearest even, saturated; NaN as 0, infinities at the limits. -/
def quantInt (w : Nat) (v : FVal) : Nat × Stats :=
  let hi : Int := 2 ^ (w - 1) - 1
  let limit : Dy := match v with | .inf true => ⟨hi + 1, 0⟩ | _ => ⟨hi, 0⟩
  let d := finite limit v
  let r := d.1.rneInt 0
  let c := max (-hi - 1) (min hi r)
  let raw := if d.2 then 0 else amaxBits d.1
  ((c % 2 ^ w).toNat, { sat := bit (decide (c ≠ r)), nonfinite := bit d.2, raw,
                            stored := if d.2 then 0 else amaxBits (Dy.ofInt c) })

/-- A pattern of F32 or F16 as a copy writes it: zero for −0 and NaN, the largest finite value for an infinity (R34, R35). -/
def cleanWord (i : Ieee) (v : Nat) : Nat :=
  match i.decode v with
  | .nan => 0
  | .inf n => i.maxBits + (if n then i.signBit else 0)
  | .fin _ m _ => if m = 0 then 0 else v

/-- The bytes of a 4- or 8-bit code list. -/
def packCodes (w : Nat) : List Int → List Byte
  | [] => []
  | [a] => [BitVec.ofInt 8 (if w = 4 then a % 16 else a)]
  | a :: b :: l =>
    if w = 4 then BitVec.ofInt 8 (a % 16 + 16 * (b % 16)) :: packCodes w l
    else BitVec.ofInt 8 a :: BitVec.ofInt 8 b :: packCodes w l

/-- The bytes of a dense tile of values and the statistics of its conversion (R20 to R22, R25, R26). Blocks that lie
wholly outside the object carry offset 0. -/
def encodeTile (f : Format) (eT : Int) (val : Nat → Nat → FVal) (real : Nat → Nat → Bool) : List Byte × Stats :=
  let v (k n : Nat) : FVal := if real k n then val k n else .fin false 0 0
  if f.isBlock then
    let blk (n h : Nat) : Nat × List Int × Stats :=
      let b := quantBlock f eT ((List.range 32).map fun k => v (32 * h + k) n)
      if real (32 * h) n then b else (0, b.2.1, b.2.2)
    let cols := (List.range 128).map fun n => (blk n 0, blk n 1)
    ((cols.map fun c => BitVec.ofNat 8 (c.1.1 + 16 * c.2.1)) ++
       (cols.map fun c => packCodes f.width (c.1.2.1 ++ c.2.2.1)).flatten,
     cols.foldl (fun st c => (st.merge c.1.2.2).merge c.2.2.2) {})
  else
    let es := ((List.range 128).map fun n => (List.range 64).map fun k =>
      match f with
      | .f16 => quantIeee ieee16 maxF16 (v k n)
      | .int32 | .int64 => quantInt f.width (v k n)
      | _ => quantIeee ieee32 maxF32 (v k n)).flatten
    ((es.map fun x => leBytes (f.width / 8) x.1).flatten, es.foldl (fun st x => st.merge x.2) {})

/-- Replaces a range of a memory by bytes, keeping the canonical form. -/
def Mem.splice (m : Mem) (a : Nat) (bs : List Byte) : Mem :=
  (m.filter fun c => decide (c.1 < a)) ++
  ((bs.zipIdx a).filterMap fun x => if x.1 = 0 then none else some (x.2, x.1)) ++
  (m.filter fun c => decide (a + bs.length ≤ c.1))

/-- The code of a block format as the load path takes it: −127 and −7 for −128 and −8 (R19). -/
def cleanCode (f : Format) (p : Nat) : Nat := if f.signed && p == 2 ^ (f.width - 1) then p + 1 else p

/-- The bytes of a dense tile as a copy writes them, after the load path's substitutions (R19, R34, R35). -/
def cleanTile (f : Format) (bs : List Byte) : List Byte :=
  let words (i : Ieee) (w : Nat) : List Byte :=
    ((chunksOf w (bs.length / w) bs).map fun b => leBytes w (cleanWord i (leValue b))).flatten
  match f with
  | .f32 => words ieee32 4
  | .f16 => words ieee16 2
  | .bx8 => bs.take 128 ++ (bs.drop 128).map fun b => BitVec.ofNat 8 (cleanCode f b.toNat)
  | .bx4 => bs.take 128 ++ (bs.drop 128).map fun b =>
      BitVec.ofNat 8 (cleanCode f (b.toNat % 16) + 16 * cleanCode f (b.toNat / 16))
  | _ => bs

/-! ### Zero-run tiles (R23) -/

/-- The element codes of a dense block-format tile in the order i = 64n + k. -/
def tileCodes (f : Format) (dense : List Byte) : List Nat :=
  if f.width = 4 then ((dense.drop 128).map fun b => [b.toNat % 16, b.toNat / 16]).flatten
  else (dense.drop 128).map fun b => b.toNat

/-- The bytes of element codes, low nibble first at 4 bits. -/
def codeBytes (f : Format) : List Nat → List Byte
  | [] => []
  | [a] => [BitVec.ofNat 8 a]
  | a :: b :: l =>
    if f.width = 4 then BitVec.ofNat 8 (a + 16 * b) :: codeBytes f l
    else BitVec.ofNat 8 a :: BitVec.ofNat 8 b :: codeBytes f l

/-- The zero-run form of a dense tile (R23): header, presence map, and the elements that are not zero in increasing i, padded
to a multiple of 32 bytes. -/
def zeroRunPack (f : Format) (dense : List Byte) : List Byte :=
  let cs := tileCodes f dense
  let map := (chunksOf 8 1024 cs).map fun p =>
    BitVec.ofNat 8 (p.foldr (fun c v => 2 * v + (if c = 0 then 0 else 1)) 0)
  let body := codeBytes f (cs.filter fun c => c != 0)
  dense.take 128 ++ map ++ body ++ List.replicate (zeroRunBytes f (cs.countP fun c => c != 0) - 1152 - body.length) 0

/-- Puts the elements of a payload where the presence map has a one. -/
def zeroRunSpread : List Bool → List Nat → List Nat
  | [], _ => []
  | false :: m, cs => 0 :: zeroRunSpread m cs
  | true :: m, cs => cs.headD 0 :: zeroRunSpread m cs.tail

/-- The dense tile of a zero-run tile (R23). -/
def zeroRunRestore (f : Format) (packed : List Byte) : List Byte :=
  let map := (((packed.drop 128).take 1024).map fun b => (List.range 8).map fun i => b.getLsbD i).flatten
  let body := packed.drop 1152
  let cs := if f.width = 4 then (body.map fun b => [b.toNat % 16, b.toNat / 16]).flatten else body.map fun b => b.toNat
  packed.take 128 ++ codeBytes f (zeroRunSpread map cs)

/-- Where a tile of an object begins in its dense bytes. -/
def ObjEntry.tileBase (e : ObjEntry) (t : Nat) : Nat := t * e.format.tileBytes

/-- Where a tile begins in an object's stored bytes: a zero-run tile has the room of the largest (R23). -/
def ObjEntry.slotBase (e : ObjEntry) (t : Nat) : Nat := t * e.tileMax

/-- The stored bytes of a tile from its dense bytes (R23: every tile of a zero-run object takes that form). -/
def ObjEntry.storedTile (e : ObjEntry) (dense : List Byte) : List Byte :=
  if e.zeroRun then
    let p := zeroRunPack e.format dense
    p ++ List.replicate (e.tileMax - p.length) 0
  else dense

/-- An object as the load path meets it: zero-run tiles restored to the dense form (R23). -/
def Obj.dense (o : Obj) : Obj :=
  if o.entry.zeroRun then
    { o with data := o.written.foldl (fun m t => Mem.splice m (o.entry.tileBase t)
        (zeroRunRestore o.entry.format (Mem.bytes o.data (o.entry.slotBase t) o.entry.tileMax))) [] }
  else o

/-- The value of element (k, n) of a tile of an object, as the load path delivers it: its number (R35 applied for the
given destination form) and the saturations and non-finite values met. An absent tile of a gradient reads as zero
(R180). -/
def Obj.load (o : Obj) (eT : Int) (limit : Dy) (t k n : Nat) : Dy × Stats :=
  if o.entry.role = .gradient && !o.present.contains t then (Dy.zero, {})
  else
    let r := readElem o.entry.format eT o.data (o.entry.tileBase t) k n
    let d := finite limit r.1
    (d.1, { sat := bit r.2, nonfinite := bit d.2 })

/-- The value alone. -/
def Obj.value (o : Obj) (eT : Int) (limit : Dy) (t k n : Nat) : Dy := (o.load eT limit t k n).1

/-- Element k, n at outer index i of a tiled object, by its own coordinates. -/
def Obj.elem (o : Obj) (eT : Int) (limit : Dy) (k n i : Nat) : Dy :=
  o.value eT limit (o.entry.tileAt (k / 64) (n / 128) i) (k % 64) (n % 128)

/-- The saturations and non-finite values that reading these elements of a tile counts. -/
def Obj.loadStats (o : Obj) (eT : Int) (limit : Dy) (t : Nat) : Stats :=
  (List.range 128).foldl (fun st n => (List.range 64).foldl (fun st k =>
    if o.entry.real t k n then st.merge (o.load eT limit t k n).2 else st) st) {}

/-- An int32 or int64 element by number, as a signed integer. -/
def Obj.int (o : Obj) (i : Nat) : Int :=
  if o.entry.format = .int64 then (BitVec.ofNat 64 (Mem.le o.data (8 * i) 8)).toInt
  else (BitVec.ofNat 32 (Mem.le o.data (4 * i) 4)).toInt

/-- Writes dense tile bytes into an object, in the form it is stored in: the tile is written, and its presence bit takes the
flag's value (R180). -/
def Obj.putTile (o : Obj) (t : Nat) (bs : List Byte) (present : Bool) : Obj :=
  { o with data := Mem.splice o.data (o.entry.slotBase t) (o.entry.storedTile bs),
           written := if o.written.contains t then o.written else t :: o.written,
           narrowed := o.narrowed.filter fun u => u != t,
           present := if present then (if o.present.contains t then o.present else t :: o.present)
                      else o.present.filter fun u => u != t }

/-! ### The counter generator (R268) -/

/-- Four 32-bit words, least significant first. -/
structure Quad where
  w0 : Word
  w1 : Word
  w2 : Word
  w3 : Word
  deriving DecidableEq, Repr

def Quad.get (q : Quad) (i : Nat) : Word :=
  match i % 4 with
  | 0 => q.w0 | 1 => q.w1 | 2 => q.w2 | _ => q.w3

/-- The words of a 128-bit key. -/
def Quad.ofBits (k : BitVec 128) : Quad :=
  ⟨k.extractLsb' 0 32, k.extractLsb' 32 32, k.extractLsb' 64 32, k.extractLsb' 96 32⟩

/-- Round r of the generator. -/
def ctrRound (k x : Quad) (r : Nat) : Quad :=
  let ka := k.get r + BitVec.ofNat 32 (r * 0x7F4A7C15)
  let kb := k.get (r + 1) + BitVec.ofNat 32 (r * 0xBB67AE85)
  let p0 := 0xA3B195A5 * x.w0.toNat
  let p1 := 0xE1D3C7B9 * x.w2.toNat
  ⟨BitVec.ofNat 32 (p1 / 2 ^ 32) ^^^ x.w1 ^^^ ka, (BitVec.ofNat 32 p1).rotateLeft 11,
   BitVec.ofNat 32 (p0 / 2 ^ 32) ^^^ x.w3 ^^^ kb, (BitVec.ofNat 32 p0).rotateLeft 19⟩

/-- The counter generator: 12 rounds, then the key added. -/
def counterGen (k c : Quad) : Quad :=
  let x := (List.range 12).foldl (ctrRound k) c
  ⟨x.w0 + k.w0, x.w1 + k.w1, x.w2 + k.w2, x.w3 + k.w3⟩

/-- draw_int of R268. -/
def drawInt (w : Word) (n : Nat) : Nat := w.toNat * n / 2 ^ 32

/-- draw_unit of R268: bits [31:8] × 2^−24 as F32. -/
def drawUnit (w : Word) : Word := f32OfDy ⟨(w.toNat / 256 : Nat), -24⟩ false

/-! ### Stochastic rounding (R33) -/

/-- r of R33 for an element. -/
def stochR (seed : BitVec 128) (step object element : Nat) : Nat :=
  (counterGen (Quad.ofBits seed) ⟨BitVec.ofNat 32 element, BitVec.ofNat 32 object, BitVec.ofNat 32 step,
    BitVec.ofNat 32 (step / 2 ^ 32)⟩).w0.toNat / 65536

/-- The count of steps 2^q of a number, rounded stochastically with r. -/
def stochRound (d : Dy) (q : Int) (r : Nat) : Int :=
  let k := d.floorAt q
  let F := d.floorAt (q - 16) - 65536 * k
  if (r : Int) < F then k + 1 else k

/-- Converts a block stochastically: the offset from the unrounded values, saturation past q_max not counted. -/
def stochBlock (f : Format) (eT : Int) (vals : List FVal) (r : Nat → Nat) : Nat × List Int × Stats :=
  let limit : Dy := ⟨f.qMax, eT - f.places⟩
  let ds := vals.map (finite limit)
  let o := chooseOffset f eT (maxAbs (ds.map fun d => d.1))
  let qs := ds.zipIdx.map fun d => (saturate f (stochRound d.1.1 (f.stepExp eT o) (r d.2))).1
  let raw := maxAbs (ds.map fun d => if d.2 then Dy.zero else d.1)
  (o, qs, { nonfinite := ds.countP fun d => d.2, raw := amaxBits raw,
            stored := amaxBits (maxAbs (List.zipWith (fun d q => if d.2 then Dy.zero else ⟨q, f.stepExp eT o⟩) ds qs)) })

/-- Converts a value to F16 stochastically; a result past 65,504 saturates and counts (R33). -/
def stochF16 (v : FVal) (r : Nat) : Nat × Stats :=
  let d := finite maxF16 v
  let q := if d.1.m = 0 then ieee16.least else ieee16.quantum d.1.m.natAbs d.1.e
  let x : Dy := ⟨stochRound d.1 q r, q⟩
  let above := maxF16.lt x.abs
  let y := if above then (if x.m < 0 then maxF16.neg else maxF16) else x
  (ieee16.ofDy y, { sat := bit above, nonfinite := bit d.2, raw := if d.2 then 0 else amaxBits d.1,
                    stored := if d.2 then 0 else amaxBits y })

/-- The bytes of a tile that UPDATE writes (R33). The element index is 8,192 × tile + 64n + k. -/
def stochTile (f : Format) (eT : Int) (tile : Nat) (val : Nat → Nat → FVal) (real : Nat → Nat → Bool)
    (r : Nat → Nat) : List Byte × Stats :=
  let v (k n : Nat) : FVal := if real k n then val k n else .fin false 0 0
  let idx (k n : Nat) : Nat := 8192 * tile + 64 * n + k
  if f.isBlock then
    let blk (n h : Nat) : Nat × List Int × Stats :=
      let b := stochBlock f eT ((List.range 32).map fun k => v (32 * h + k) n) fun k => r (idx (32 * h + k) n)
      if real (32 * h) n then b else (0, b.2.1, b.2.2)
    let cols := (List.range 128).map fun n => (blk n 0, blk n 1)
    ((cols.map fun c => BitVec.ofNat 8 (c.1.1 + 16 * c.2.1)) ++
       (cols.map fun c => packCodes f.width (c.1.2.1 ++ c.2.2.1)).flatten,
     cols.foldl (fun st c => (st.merge c.1.2.2).merge c.2.2.2) {})
  else
    let es := ((List.range 128).map fun n => (List.range 64).map fun k => stochF16 (v k n) (r (idx k n))).flatten
    ((es.map fun x => leBytes 2 x.1).flatten, es.foldl (fun st x => st.merge x.2) {})

/-! ### Wide products (R38, R39) -/

/-- e_i of R39 from the largest magnitude of a row: ⌊log2⌋ + 2. -/
def wideExp (m : Dy) : Int := if m.isZero then 0 else m.floorLog + 2

/-- N of R39 for an element: RNE of a × 2^(8L − 1 − e). -/
def wideInt (limbs : Nat) (e : Int) (a : Dy) : Int := a.rneInt (-(8 * (limbs : Int) - 1 - e))

/-- The balanced base-256 digits of N, the lowest first. -/
def wideDigits : Nat → Int → List Int
  | 0, _ => []
  | 1, n => [n]
  | k + 1, n =>
    let b := n % 256
    let d := if 128 ≤ b then b - 256 else b
    d :: wideDigits k ((n - d) / 256)

/-- Digit c_p, p = 0 the highest. -/
def wideDigit (ds : List Int) (p : Nat) : Int := at' ds.reverse p 0

/-- The level sums of one element of a product combined exactly (R39 items 4 and 5), before the scale. -/
def wideSum (limbs : Nat) (pairs : List (List Int × List Int)) : Int :=
  (List.range limbs).foldl (fun acc s =>
    acc + shiftUp (pairs.foldl (fun t x => (List.range (s + 1)).foldl (fun t p =>
      t + wideDigit x.1 p * wideDigit x.2 (s - p)) t) 0) (8 * (2 * limbs - 2 - s))) 0

/-- A binary64 pattern of an exact number, a result beyond the largest finite value held there and counted. Both amax
values are those of the binary64 value (R412). -/
def quantF64 (v : FVal) : Nat × Stats :=
  let q := quantIeee ieee64 maxF64 v
  (q.1, { q.2 with raw := q.2.stored })

end Sys2Proof.Machine
end

