-- ==== Sys2Proof/Machine/Operands.lean ====
section
/-!
DEFINITION. Operands of descriptors: loops and instances (R50 to R59), length tables (R60, R61), element access by
reference, the whole-tile writers with their statistics and presence (R24, R180), and the dealing of units to groves
(R64, R106).
Choices of the model, by log entry: 5 DESIGN CHOICE, 16 DESIGN CHOICE, 20 DESIGN CHOICE, 26 DEDUCED, 27 DEDUCED, 35
DEDUCED, 38 DEDUCED, 67 DEDUCED.
-/

namespace Sys2Proof.Machine

/-! ### Descriptors and loops -/

def noObject : Nat := 0xFFFFFFFF
def noLoop : Nat := 0xFFFF

/-- Operand reference n of a descriptor. -/
def Desc.opr (d : Desc) (n : Nat) : Opr := at' d.oprs n ⟨noObject, 0, 0, 0⟩
/-- Parameter word n. -/
def Desc.param (d : Desc) (n : Nat) : Nat := at' d.params n 0
/-- Whether operand n is used. -/
def Desc.uses (d : Desc) (n : Nat) : Bool := (d.opr n).object != noObject

/-- The innermost loop of a descriptor other than the micro-batch loop, if any (R51). -/
def innerLoop (img : Image) (d : Desc) : Option LoopEnt :=
  if d.loop = noLoop || d.loop = img.mbLoop then none else img.loops[d.loop]?

/-- The micro-batch loop, if it encloses the descriptor (R51, R56). -/
def mbLoopOf (img : Image) (d : Desc) : Option LoopEnt :=
  if img.mbLoop = noLoop then none
  else if d.loop = img.mbLoop then img.loops[img.mbLoop]?
  else match innerLoop img d with
    | some l => if l.parent = img.mbLoop then img.loops[img.mbLoop]? else none
    | none => none

def innerCount (img : Image) (d : Desc) : Nat := ((innerLoop img d).map fun l => l.count).getD 1
def mbCount (img : Image) (d : Desc) : Nat := ((mbLoopOf img d).map fun l => l.count).getD 1
/-- Micro-batches of the step (R184): 1 where there is no micro-batch loop. -/
def Image.micro (img : Image) : Nat := ((img.loops[img.mbLoop]?).map fun l => l.count).getD 1

/-- Whether an instance exists (R56). -/
def validInst (img : Image) (i : InstId) : Bool :=
  match img.descs[i.index]? with
  | some d => decide (i.mb < mbCount img d) && decide (i.it < innerCount img d)
  | none => false

/-- The instances of one descriptor in iteration order. -/
def instsOf (img : Image) (n : Nat) : List InstId :=
  match img.descs[n]? with
  | none => []
  | some d => ((List.range (mbCount img d)).map fun mb =>
      (List.range (innerCount img d)).map fun it => (⟨mb, it, n⟩ : InstId)).flatten

/-- Every instance of the image, by descriptor. -/
def Image.insts (img : Image) : List InstId :=
  ((List.range img.descs.length).map (instsOf img)).flatten

/-- The order of R58 between two instances: micro-batch iteration where both lie in the micro-batch loop, then inner
iteration where both lie in one inner loop, then INDEX. -/
def precedes (img : Image) (a b : InstId) : Bool :=
  match img.descs[a.index]?, img.descs[b.index]? with
  | some x, some y =>
    if (mbLoopOf img x).isSome && (mbLoopOf img y).isSome && a.mb != b.mb then decide (a.mb < b.mb)
    else if (innerLoop img x).isSome && x.loop == y.loop && a.it != b.it then decide (a.it < b.it)
    else decide (a.index < b.index)
  | _, _ => decide (a.index < b.index)

/-- The predecessor instances that DEPn gives (R57). -/
def depInsts (img : Image) (i : InstId) (d : Desc) (p : Nat) : List InstId :=
  match img.descs[p]? with
  | none => []
  | some x => (instsOf img p).filter fun j =>
      ((mbLoopOf img x).isNone || (mbLoopOf img d).isNone || j.mb == i.mb) &&
      ((innerLoop img x).isNone || x.loop != d.loop || j.it == i.it)

/-- The instances that SERIAL loops place before one (R57): every instance of the iteration before. -/
def serialPreds (img : Image) (i : InstId) (d : Desc) : List InstId :=
  let body (l : LoopEnt) (ok : InstId → Bool) : List InstId :=
    (((List.range img.descs.length).filter fun n => decide (l.first ≤ n) && decide (n ≤ l.last)).map
      (instsOf img)).flatten.filter ok
  (match mbLoopOf img d with
   | some l => if l.serial && decide (0 < i.mb) then body l fun j => j.mb + 1 == i.mb else []
   | none => []) ++
  (match innerLoop img d with
   | some l => if l.serial && decide (0 < i.it) then body l fun j => j.mb == i.mb && j.it + 1 == i.it else []
   | none => [])

/-- The predecessors of an instance by DEP0 to DEP3 and the loops. -/
def predsOf (img : Image) (i : InstId) : List InstId :=
  match img.descs[i.index]? with
  | none => []
  | some d => (d.deps.map (depInsts img i d)).flatten ++ serialPreds img i d

/-- Adds what is not yet in a list. -/
def addNew (l : List InstId) : List InstId → List InstId
  | [] => l
  | x :: xs => if l.contains x then addNew l xs else addNew (l ++ [x]) xs

/-- The instances that a path leads from to a set, the set included; each round adds one layer. -/
def ancestors (img : Image) : Nat → List InstId → List InstId
  | 0, l => l
  | n + 1, l =>
    let m := addNew l ((l.map (predsOf img)).flatten)
    if m.length = l.length then l else ancestors img n m

/-- Whether a path leads from one instance to another (R57, R58). -/
def hasPath (img : Image) (a b : InstId) : Bool := (ancestors img img.insts.length (predsOf img b)).contains a

/-! ### Operand references -/

/-- The first tile of an operand in an instance (R51). -/
def baseTile (d : Desc) (n : Nat) (i : InstId) : Int :=
  (d.opr n).base + i.it * (d.opr n).strideIn + i.mb * (d.opr n).strideMb

/-- The same as a tile number. -/
def baseOf (d : Desc) (n : Nat) (i : InstId) : Nat := (baseTile d n i).toNat

/-- Entry of an object in an image. -/
def Image.entry (img : Image) (o : Nat) : Option ObjEntry := img.objects.find? fun e => e.object == o

/-- The tiles of a kx × nx range that begins at a tile: K-tiles fastest. Integer objects are covered in units. -/
def rangeTiles (e : ObjEntry) (base kx nx : Nat) : List Nat :=
  if e.format.isTiled then
    ((List.range (ceilDiv nx 128)).map fun j1 => (List.range (ceilDiv kx 64)).map fun j0 => base + j0 + e.t0 * j1).flatten
  else
    (List.range (ceilDiv ((nx - 1) * e.dim 0 + kx) e.format.perTile)).map fun j => base + j

/-- Whether a kx × nx range stays inside its object and its K and N axes (R51). -/
def rangeInside (e : ObjEntry) (base : Int) (kx nx : Nat) : Bool :=
  decide (0 ≤ base) &&
  (if e.format.isTiled then
    let p := e.tilePos base.toNat
    decide (base.toNat < e.tiles) && decide (p.1 + ceilDiv kx 64 ≤ e.t0) && decide (p.2.1 + ceilDiv nx 128 ≤ e.t1)
  else decide (base.toNat + ceilDiv ((nx - 1) * e.dim 0 + kx) e.format.perTile ≤ e.tiles))

/-- The tile, and k and n within it, of element (k, n) of a range that begins at a tile. -/
def refElem (e : ObjEntry) (base k n : Nat) : Nat × Nat × Nat := (base + k / 64 + e.t0 * (n / 128), k % 64, n % 128)

/-- The element number of (k, n) of a range of an integer object (R21). -/
def refInt (e : ObjEntry) (base k n : Nat) : Nat := e.format.perTile * base + k + e.dim 0 * n

/-- The element (k, n) of a range of an object, as a number for the given destination form. -/
def Obj.at (o : Obj) (eT : Int) (limit : Dy) (base k n : Nat) : Dy :=
  if o.entry.format.isTiled then
    let r := refElem o.entry base k n
    o.value eT limit r.1 r.2.1 r.2.2
  else Dy.ofInt (o.int (refInt o.entry base k n))

/-- The format in which a reader meets an object: BX4 once it has been narrowed (R232). A narrowed tile keeps the BX8
layout, each code 16 times its BX4 code, which is the same value. -/
def Obj.stored (o : Obj) : Format := if o.narrowed.isEmpty then o.entry.format else .bx4

/-- The E_T in force for an object (R24: fixed for the step). -/
def scaleOf (s : State) (ctx : Nat) (e : ObjEntry) : Int := (scaleAt s ctx e.scale).eT

/-- An object of a context as the load path meets it, zero-run tiles restored (R23), or an empty one of the image's entry
where the step has not made it. -/
def objFor (s : State) (img : Image) (n : Nat) : Option Obj :=
  match objAt s img.ctx n with
  | some o => some o.dense
  | none => (img.entry n).map fun e => { entry := e }

/-- The object that operand n of a descriptor names. -/
def oprObj (s : State) (img : Image) (d : Desc) (n : Nat) : Option Obj := objFor s img (d.opr n).object

/-! ### Array operands (R31 Table 5, R95) -/

/-- The form in which an F32 or F16 operand enters the arrays: BX4 where the other is stored in BX4 or UX4. -/
def arrayForm (other : Format) : Format := match other with | .bx4 | .ux4 => .bx4 | _ => .bx8

/-- An array operand by blocks along K: each element as a code and the exponent of its step. -/
structure ArrayBlock where
  codes : List Int
  step : Int
  stats : Stats
  deriving DecidableEq, Repr

/-- The block that holds elements 32h to 32h + 31 of column n of a range, as the arrays take it. -/
def arrayBlock (o : Obj) (other : Format) (eT : Int) (base h n : Nat) : ArrayBlock :=
  if o.entry.format.isBlock then
    let r := refElem o.entry base (32 * h) n
    let tb := o.entry.tileBase r.1
    if o.entry.role = .gradient && !o.present.contains r.1 then ⟨List.replicate 32 0, 0, {}⟩
    else
      let cs := (List.range 32).map fun j =>
        codeValue o.entry.format (readPattern o.entry.format o.data tb (r.2.1 + j) r.2.2)
      ⟨cs.map fun c => c.1, o.entry.format.stepExp eT (readOffset o.data tb r.2.1 r.2.2),
       { sat := cs.countP fun c => c.2 }⟩
  else
    let f := arrayForm other
    let vs := (List.range 32).map fun j =>
      let r := refElem o.entry base (32 * h + j) n
      if o.entry.role = .gradient && !o.present.contains r.1 then FVal.fin false 0 0
      else (readElem o.entry.format eT o.data (o.entry.tileBase r.1) r.2.1 r.2.2).1
    let b := quantBlock f eT vs
    ⟨b.2.1, f.stepExp eT b.1, { sat := b.2.2.sat, nonfinite := b.2.2.nonfinite }⟩

/-- The exact sum of products of two blocks (R97): an integer half-sum at the combined step. -/
def blockDot (a b : ArrayBlock) : Dy :=
  ⟨(List.zipWith (fun x y => x * y) a.codes b.codes).foldl (fun t x => t + x) 0, a.step + b.step⟩

/-- The blocks of a column of a range over an extent K. Elements at K or beyond count as zero (R22). -/
def arrayColumn (o : Obj) (other : Format) (eT : Int) (base kx n : Nat) : List ArrayBlock :=
  (List.range (ceilDiv kx 32)).map fun h =>
    let b := arrayBlock o other eT base h n
    { b with codes := b.codes.zipIdx.map fun c => if 32 * h + c.2 < kx then c.1 else 0 }

/-- The exact column sum (R97). -/
def columnDot (a b : List ArrayBlock) : Dy := Dy.sum (List.zipWith blockDot a b)

/-- The statistics of reading a range as an array operand, each element counted once. -/
def columnStats (cols : List (List ArrayBlock)) : Stats :=
  cols.foldl (fun st c => c.foldl (fun st b => st.merge b.stats) st) {}

/-! ### Writing objects -/

/-- Changes the running step. -/
def setRun (s : State) (f : Run → Run) : State := { s with sched := { s.sched with run := s.sched.run.map f } }

/-- Adds statistics to what a micro-batch has added to a scale entry. -/
def addPart (tag : Option Nat) (scale : Nat) (st : Stats) : List (Option Nat × Nat × Stats) → List (Option Nat × Nat × Stats)
  | [] => [(tag, scale, st)]
  | p :: l => if p.1 = tag ∧ p.2.1 = scale then (tag, scale, p.2.2.merge st) :: l else p :: addPart tag scale st l

/-- Adds statistics to the scale entry of an object, and to the part of the micro-batch at work (R24, R29). -/
def recordStats (s : State) (ctx : Nat) (e : ObjEntry) (st : Stats) : State :=
  if st = {} then s
  else setRun (setScale s ctx e.scale fun x => x.record st) fun r => { r with parts := addPart r.tag e.scale st r.parts }

/-- Counts what the load path substitutes in the tiles that an instance reads (R19, R35). -/
def countTiles (s : State) (ctx : Nat) (o : Obj) (eT : Int) (limit : Dy) (tiles : List Nat) : State :=
  recordStats s ctx o.entry (tiles.foldl (fun st t => st.merge (o.loadStats eT limit t)) {})

/-- Makes sure a context holds an object for the running step, so that it can be written. -/
def ensureObj (s : State) (img : Image) (n : Nat) : State :=
  match objAt s img.ctx n, img.entry n with
  | none, some e => setCtx s img.ctx fun c => { c with objects := c.objects ++ [{ entry := e }] }
  | _, _ => s

/-- Writes one tile of an object from values: conversion, statistics, written and presence bits. -/
def writeTile (s : State) (img : Image) (n t : Nat) (val : Nat → Nat → FVal) (pres : Bool) : State :=
  match objFor s img n with
  | none => s
  | some o =>
    let b := encodeTile o.entry.format (scaleOf s img.ctx o.entry) val (o.entry.real t)
    let s := setObj (ensureObj s img n) img.ctx n fun o => o.putTile t b.1 pres
    recordStats s img.ctx o.entry b.2

/-- Writes bytes of an integer object from a byte position on, marking its units written. -/
def writeIntBytes (s : State) (img : Image) (n : Nat) (pos : Nat) (bs : List Byte) (st : Stats) : State :=
  match objFor s img n with
  | none => s
  | some o =>
    let units := (List.range (bs.length / 8192 + 2)).filterMap fun j =>
      if pos / 8192 + j ≤ (pos + bs.length - 1) / 8192 then some (pos / 8192 + j) else none
    let s := setObj (ensureObj s img n) img.ctx n fun o =>
      { o with data := Mem.splice o.data pos bs,
               written := (units.filter fun u => !o.written.contains u) ++ o.written,
               present := (units.filter fun u => !o.present.contains u) ++ o.present }
    recordStats s img.ctx o.entry st

/-- Writes a range of kx × nx product elements into an object (R98): every tile that holds an element is written whole,
elements outside the product as zero, or with ACCUMULATE as their existing values, whose tiles are read (R19, R35). `keep` tells which columns are real
(R22, R61), `pres` the presence bit of a tile (R180), `skip` the K-tiles that go elsewhere (R151). -/
def writeRange (s : State) (img : Image) (n base kx nx : Nat) (acc : Bool) (val : Nat → Nat → FVal)
    (keep : Nat → Bool) (pres : Nat → Nat → Bool) (skip : Nat → Bool) : State :=
  match objFor s img n with
  | none => s
  | some o =>
    let eT := scaleOf s img.ctx o.entry
    if o.entry.format.isTiled then
      (List.range (ceilDiv nx 128)).foldl (fun s j1 =>
        if !(List.range 128).any fun c => decide (128 * j1 + c < nx) && keep (128 * j1 + c) then s else
        (List.range (ceilDiv kx 64)).foldl (fun s j0 =>
          if skip j0 then s else
          let t := base + j0 + o.entry.t0 * j1
          let v (k c : Nat) : FVal :=
            if 64 * j0 + k < kx && decide (128 * j1 + c < nx) && keep (128 * j1 + c) then val (64 * j0 + k) (128 * j1 + c)
            else if acc then FVal.ofDy (o.value eT maxF32 t k c) else .fin false 0 0
          let p := pres j0 j1 || (acc && o.present.contains t)
          writeTile (if acc then countTiles s img.ctx o eT maxF32 [t] else s) img n t v p) s) s
    else
      (List.range nx).foldl (fun s c =>
        if !keep c then s else
        (List.range kx).foldl (fun s k =>
          let q := quantInt o.entry.format.width (val k c)
          writeIntBytes s img n (o.entry.format.width / 8 * refInt o.entry base k c)
            (leBytes (o.entry.format.width / 8) q.1) q.2) s) s

/-- The existing value of element (k, n) of a destination range, for ACCUMULATE (R98). -/
def existing (o : Obj) (eT : Int) (acc : Bool) (base k n : Nat) : Dy :=
  if acc then o.at eT maxF32 base k n else Dy.zero

/-- The presence that gradient operands give (R180): set where no operand is a gradient, otherwise the OR of the bits
of the gradient tiles read. -/
def presenceOf (ops : List (Obj × List Nat)) : Bool :=
  let gs := ops.filter fun o => o.1.entry.role = .gradient
  gs.isEmpty || gs.any fun o => o.2.any fun t => o.1.present.contains t

/-! ### Shards carried on for a failed member (R307, R308) -/

/-- Works on a shard that this device carries on: its context stands among the device's while the work is done. -/
def inShadow (s : State) (job : Nat) (x : Shadow) (f : State → State) : State :=
  let t := f { s with ctxs := x.ctx :: s.ctxs }
  setJob { t with ctxs := t.ctxs.filter fun c => c.number != x.ctx.number } job fun j =>
    { j with shadows := j.shadows.map fun y =>
        if y.device = x.device then { y with ctx := (ctxAt t x.ctx.number).getD x.ctx } else y }

/-- The shards that this device carries on in a job. -/
def shadowsOf (s : State) (job : Nat) : List Shadow := match jobAt s job with | some j => j.shadows | none => []

/-- An image as a carried shard meets it. -/
def Shadow.image (x : Shadow) (img : Image) : Image := { img with ctx := x.ctx.number }

/-- A running step as a carried shard meets it. -/
def Shadow.run (x : Shadow) (r : Run) : Run :=
  { r with adm := { r.adm with ctx := x.ctx.number, image := x.image r.adm.image } }

/-- The object by whose tiles the tiles of an object are owned: a parameter for the gradient of its UPDATE. -/
def ownerObject (img : Image) (n : Nat) : Nat :=
  match img.descs.find? fun d => d.opcode == 8 && (d.opr 1).object == n with
  | some d => (d.opr 0).object
  | none => n

/-- Whether this device owns a tile of the carried shard (R307); tiles of objects that are not secured are the first survivor's. -/
def Shadow.owns (x : Shadow) (img : Image) (n t : Nat) : Bool :=
  match x.owned.find? fun o => o.1 == ownerObject img n with
  | some o => o.2.contains t
  | none => x.first

/-! ### Length tables (R60, R61) -/

/-- One change that the reading of a length table makes: sequence and kind (R89). -/
abbrev Clamp := Nat × Nat

/-- Entries limited to 0 and MAX_LEN. -/
def clampEntries (maxLen : Nat) : List Int → Nat → List Nat × List Clamp
  | [], _ => ([], [])
  | x :: l, i =>
    let r := clampEntries maxLen l (i + 1)
    if x < 0 then (0 :: r.1, (i, 1) :: r.2)
    else if (maxLen : Int) < x then (maxLen :: r.1, (i, 2) :: r.2)
    else (x.toNat :: r.1, r.2)

/-- Lowers entries from the last sequence backwards until the sum fits; the list comes reversed. -/
def clampTotal : Nat → List Nat → Nat → List Nat × List Clamp
  | _, [], _ => ([], [])
  | excess, x :: l, i =>
    if excess = 0 then (x :: l, [])
    else
      let cut := min excess x
      let r := clampTotal (excess - cut) l (i - 1)
      ((x - cut) :: r.1, if cut = 0 then r.2 else (i, 3) :: r.2)

/-- The token counts of a length table as an instance reads it, and the changes (R61). -/
def readLengths (t : LenTab) (o : Obj) : List Nat × List Clamp :=
  let a := clampEntries t.maxLen ((List.range t.s).map o.int) 0
  let limit := if t.maxTotal = 0 then t.s * t.maxLen else t.maxTotal
  let b := clampTotal (a.1.sum - limit) a.1.reverse (t.s - 1)
  (b.1.reverse, a.2 ++ b.2)

/-- Reads the length table that a descriptor names: the counts, and the state with the clamps counted and recorded. -/
def lengthsFor (s : State) (r : Run) (d : Desc) : Option (List Nat) × State :=
  match r.adm.image.lentabs[d.lentab]? with
  | none => (none, s)
  | some t =>
    match objFor s r.adm.image t.object with
    | none => (none, s)
    | some o =>
      let x := readLengths t o
      let s := x.2.foldl (fun s c =>
        tally (count s r.adm.job fun k => { k with clamps := k.clamps + 1 })
          0x0204 islandForeman 2 d.index d.lentab c.1 c.2) s
      (some x.1, s)

/-- The token counts that an instance read when it started, none where it names no length table. -/
def lensOf (r : Run) (i : InstId) : Option (List Nat) := (r.lengths.find? fun x => x.1 == i).map fun x => x.2

/-- Reads an instance's length table when it starts, once (R61): the running step keeps the counts. -/
def readLens (s : State) (r : Run) (i : InstId) (d : Desc) : State × Run :=
  if (lensOf r i).isSome then (s, r) else
  let x := lengthsFor s r d
  match x.1 with
  | none => (x.2, r)
  | some l => (setRun x.2 fun r => { r with lengths := (i, l) :: r.lengths }, { r with lengths := (i, l) :: r.lengths })


/-- Whether token column n is real under a length table whose sequences take ⌈MAX_LEN/128⌉ tiles each (R60, R151). -/
def tokenReal (maxLen : Nat) (lens : List Nat) (n : Nat) : Bool :=
  let per := 128 * ceilDiv maxLen 128
  if per = 0 then false else decide (n % per < at' lens (n / per) 0)

/-- The real columns of a descriptor's N axis. -/
def realColumns (r : Run) (d : Desc) (lens : Option (List Nat)) (n : Nat) : Bool :=
  match lens, r.adm.image.lentabs[d.lentab]? with
  | some l, some t => tokenReal t.maxLen l n
  | _, _ => true

/-- Whether an instance makes work for a tile of an operand that begins at a base tile (R60): the tile, its N-tiles counted
from the base's, holds a real token. Units of integer objects, and every tile where no length table is named, count. -/
def tileReal (r : Run) (i : InstId) (d : Desc) (e : ObjEntry) (base t : Nat) : Bool :=
  match lensOf r i with
  | none => true
  | some l => !e.format.isTiled ||
      (let b := (e.tilePos base).2.1
       let j := (e.tilePos t).2.1
       (List.range 128).any fun c => realColumns r d (some l) (128 * (if b ≤ j then j - b else j) + c))

/-! ### Dealing work to groves (R64, R106) -/

/-- The groves in service, suspect ones included until their boundary (R107), by island number. -/
def serves (s : State) (g : Nat) : Bool := match (at' s.groves g {}).role with | .inService | .suspect => true | _ => false
def inService (s : State) : List Nat := (List.range 128).filter (serves s)

/-- Inserts a number by key, kept rising. -/
def insertBy (key : Nat → Nat) (x : Nat) : List Nat → List Nat
  | [] => [x]
  | y :: l => if key x ≤ key y then x :: y :: l else y :: insertBy key x l
def sortBy (key : Nat → Nat) (l : List Nat) : List Nat := l.foldr (insertBy key) []

/-- A number of its own for every instance of every step. -/
def instKey (step : Nat) (i : InstId) : Nat := i.index + 2 ^ 16 * (i.mb + 2 ^ 32 * (i.it + 2 ^ 32 * step))

/-- The groves an instance uses: those that the step's schedule gives it, and in a step without one all that were in service as
it began, or as many as GROVES names, which ones being the Foreman's choice (R12, R50). -/
def grovesFor (r : Run) (i : InstId) (wanted : Nat) : List Nat :=
  let all := r.groves
  match r.adm.plan.find? fun p => p.item == .inst i with
  | some p => if wanted = 0 then p.groves else p.groves.take wanted
  | none =>
  if wanted = 0 || decide (all.length ≤ wanted) then all
  else sortBy id ((sortBy (Config.grovePreference (instKey r.adm.step i)) all).take wanted)

/-- The work of an instance on a grove: the tiles it counts (R106), and the stationary sets that its last two passes leave
(R93). -/
def addTiles (s : State) (i : InstId) (g n : Nat) : State :=
  { s with groves := s.groves.modify g fun x =>
      if n = 0 then x else
      { x with tiles := (x.tiles + n) % 2 ^ 48, active := some (i, n - 1), shadow := if n = 1 then x.active else some (i, n - 2) } }

/-- The groves that take a share: its own, or, where that one is lost, the others of its die among the instance's (R79). -/
def takersOf (s : State) (gs : List Nat) (g : Nat) : List Nat :=
  if serves s g then [g] else gs.filter fun h => h / 32 == g / 32 && serves s h

/-- Splits n consecutive units from a first one over groves, in island order. -/
def splitUnits (hs : List Nat) (first n : Nat) : List (Nat × Nat × Nat) :=
  let c := ceilDiv n hs.length
  hs.zipIdx.map fun h => (h.1, first + c * h.2, min c (n - c * h.2))

/-- The dealing of units, `share` consecutive ones to each grove in island order (R64): grove, first unit, how many. -/
def shareOut (s : State) (gs : List Nat) (share units : Nat) : List (Nat × Nat × Nat) :=
  (gs.zipIdx.map fun g => splitUnits (takersOf s gs g.1) (share * g.2) (min share (units - share * g.2))).flatten

/-- N_t of R63. -/
def tileCount (img : Image) (d : Desc) (n : Nat) : Nat :=
  match img.lentabs[d.lentab]? with
  | none => ceilDiv n 128
  | some t =>
    let total := if t.maxTotal = 0 then t.s * t.maxLen else t.maxTotal
    min (t.s * ceilDiv t.maxLen 128) (ceilDiv total 128 + t.s - 1)

/-- Deals units with the tiles each makes its grove count, `share` consecutive units to each grove in island order (R64). -/
def dealList (s : State) (i : InstId) (gs : List Nat) (share : Nat) (units : List Nat) : State :=
  (shareOut s gs share units.length).foldl (fun s x => addTiles s i x.1 ((units.drop x.2.1).take x.2.2).sum) s

/-- Deals units of `tilesEach` tiles, as many consecutive units to each grove as the declared number of units gives it, in
island order (R64). -/
def dealDeclared (s : State) (i : InstId) (gs : List Nat) (declared units tilesEach : Nat) : State :=
  (shareOut s gs (ceilDiv declared gs.length) units).foldl (fun s x => addTiles s i x.1 (tilesEach * x.2.2)) s

/-- Deals so many units, all of them declared. -/
def dealUnits (s : State) (i : InstId) (gs : List Nat) (units tilesEach : Nat) : State := dealDeclared s i gs units units tilesEach

/-- The compute cycles of a dense product at panel height h (R64 Table 7). -/
def denseCycles (h m nt k l n : Nat) (int4 : Bool) : Nat :=
  ceilDiv (ceilDiv m h * nt) n * ceilDiv k 64 * (max (ceilDiv h (if int4 then 8 else 4)) l + 1) + 80

/-- The panel height: the power of two from 256 to 4,096 with the fewest cycles, a tie to the larger (R64). -/
def panelHeight (m nt k l n : Nat) (int4 : Bool) : Nat :=
  [2048, 1024, 512, 256].foldl (fun b h =>
    if denseCycles h m nt k l n int4 < denseCycles b m nt k l n int4 then h else b) 4096

/-- The broadcast cycles of a stationary tile (R63, R93). -/
def broadcastCycles (f : Format) : Nat := match f with | .bx4 | .ux4 => 17 | _ => 33

/-- Whether a format is 4 bits wide. -/
def Format4 (f : Format) : Bool := match f with | .bx4 | .ux4 => true | _ => false

/-- The array form of an operand, given how the other is stored (R95). -/
def operandForm (f other : Format) : Format := if f.isBlock then f else arrayForm other

/-! ### Instances of the running step -/

/-- Whether a micro-batch of this device contributes to the step (R29, R37). -/
def contributes (r : Run) : Bool := decide (r.dropped.length < r.adm.image.micro)

/-- Whether a contributing KV_APPEND of the step has failed (R155). -/
def appendFlag (r : Run) : Bool := r.appendFail.any fun t => match t with | none => true | some b => !r.dropped.contains b

/-- Whether an instance is complete: completed, or of a dropped micro-batch and never started (R55, R59). -/
def instDone (r : Run) (i : InstId) : Bool :=
  r.complete.contains i ||
  (match r.adm.image.descs[i.index]? with
   | some d => (mbLoopOf r.adm.image d).isSome && r.dropped.contains i.mb && !r.executed.contains i
   | none => true)

/-- The operand that a descriptor's opcode writes first, none where it writes no object. -/
def outputSlot (op : Nat) : Option Nat :=
  match op with
  | 1 => some 2 | 2 => some 2 | 3 => some 2 | 4 => some 2 | 6 => some 2 | 9 => some 1 | 10 => some 1 | 11 => some 1
  | 12 => some 0 | _ => none

/-- The problems of a descriptor's packed lists, of all its instances (R102). -/
def Image.problems (img : Image) (n : Nat) : List Problem :=
  ((img.lists.filter fun x => x.1.index == n).map fun x => x.2).flatten

/-- The objects a descriptor itself writes: for VEC the operands its program header declares written, for a packed MATMUL
the C objects of its lists, for KV_APPEND and SLUICE_TAKE every object they write. -/
def ownWritten (img : Image) (d : Desc) : List Nat :=
  if d.opcode = 7 then
    let h := ((at' img.vprogs (d.param 0) []).headD 0).toNat
    (List.range 4).filterMap fun m => if bits h (39 + 8 * m) (39 + 8 * m) = 1 then some (d.opr m).object else none
  else if d.opcode = 1 && d.param 3 % 2 == 1 then (img.problems d.index).map fun p => p.c
  else if d.opcode = 5 then [(d.opr 1).object]
  else if d.opcode = 12 then ((List.range 3).filter d.uses).map fun n => (d.opr n).object
  else match outputSlot d.opcode with
    | some n => if d.uses n then [(d.opr n).object] else []
    | none => []

/-- The objects a descriptor writes: a RECOMPUTE's are those of its segment (R53). -/
def writtenObjects (img : Image) (d : Desc) : List Nat :=
  if d.opcode = 13 then
    ((img.descs.filter fun x => decide (d.param 0 ≤ x.index) && decide (x.index ≤ d.param 1)).map (ownWritten img)).flatten
  else ownWritten img d

/-- Whether an earlier accumulating write of an object that this one adds to is still owed (R58): such writes are applied in
the order of R58, whatever opcode makes them. -/
def accumulateWaits (r : Run) (i : InstId) (d : Desc) : Bool :=
  d.accumulate && r.adm.image.insts.any fun j =>
    match r.adm.image.descs[j.index]? with
    | some x => x.accumulate && ((writtenObjects r.adm.image x).any (writtenObjects r.adm.image d).contains) &&
        precedes r.adm.image j i && !instDone r j && !r.executed.contains j && !hasPath r.adm.image i j
    | none => false

/-- Whether every object that an instance names, in its problem list too, is in T1 (R241, R243). -/
def operandsPresent (s : State) (r : Run) (i : InstId) (d : Desc) : Bool :=
  let here (n : Nat) : Bool := match objAt s r.adm.ctx n with | some x => x.inT1 | none => true
  (d.oprs.all fun o => here o.object) &&
  ((r.adm.image.lists.filter fun x => x.1 == i).all fun x => x.2.all fun p => here p.a && here p.b && here p.c)


/-- The objects that a descriptor itself names: its operands, its length table's, and those of its problem lists. -/
def objectsNamed (img : Image) (d : Desc) : List Nat :=
  ((List.range 4).filter d.uses).map (fun n => (d.opr n).object) ++
  (match img.lentabs[d.lentab]? with | some t => [t.object] | none => []) ++
  ((img.problems d.index).map fun p => [p.a, p.b, p.c]).flatten

/-- The objects that a descriptor's instances read or write: a RECOMPUTE's are those of its segment (R53). -/
def objectsTouched (img : Image) (d : Desc) : List Nat :=
  if d.opcode = 13 then
    ((img.descs.filter fun x => decide (d.param 0 ≤ x.index) && decide (x.index ≤ d.param 1)).map (objectsNamed img)).flatten
  else objectsNamed img d

/-- Whether a descriptor writes an object of ROLE gradient. -/
def writesGradient (img : Image) (d : Desc) : Bool :=
  (writtenObjects img d).any fun o => match img.entry o with | some e => e.role = .gradient | none => false

/-- Whether a micro-batch whose versions are recorded still waits for their confirmation (R197). -/
def confirmWaits (r : Run) (i : InstId) (d : Desc) : Bool :=
  writesGradient r.adm.image d && (mbLoopOf r.adm.image d).isSome &&
  (r.recorded.any fun x => x.1 == i.mb) && !r.confirmed.contains i.mb

/-- Whether a version that a micro-batch has confirmed is the previous one of a parameter, which an UPDATE would overwrite (R197). -/
def retainedBlocks (s : State) (ctx n : Nat) : Bool :=
  match objAt s ctx n with
  | some o => s.fabric.retained.any fun x => x.2.1 == ctx && x.2.2.2.1 == n && x.2.2.2.2 != o.version && x.2.2.2.2 == o.prevVersion
  | none => false

/-- Whether an item of the schedule is over (R73). Evictions are made at admission; the moves of a dropped micro-batch are not
owed. -/
def itemDone (s : State) (r : Run) : Item → Bool
  | .inst i => instDone r i
  | .norm => r.norm.isSome
  | .sync => r.executed.contains ⟨0, 0, r.adm.image.descs.length⟩
  | .securing => r.secured
  | .switch => r.switched
  | .filter i => r.filters.contains i || r.executed.contains i || instDone r i
  | .fetch n => match objAt s r.adm.ctx n with | some o => o.inT1 | none => true
  | .room _ _ => true
  | .writeBack n => r.moves.any fun m => m.1 == .writeBack && m.2.1 == n
  | .narrow n b => r.moves.contains (.narrow, n, b) || r.dropped.contains b
  | .out n b => r.moves.contains (.evict, n, b) || r.dropped.contains b
  | .back n b => r.dropped.contains b ||
      (r.moves.contains (.evict, n, b) && (match objAt s r.adm.ctx n with | some o => o.inT1 | none => true))

/-- Whether an item may start by the order of the schedule (R73): all that was placed before it on what it holds is over, and
its islands are awake. An item that the schedule does not hold waits for nothing. -/
def planFree (s : State) (r : Run) (x : Item) : Bool :=
  match r.adm.plan.find? fun p => p.item == x with
  | none => true
  | some p =>
    (r.adm.plan.all fun q => !(q.shares p && q.fin.le p.start) || itemDone s r q.item) &&
    p.islands.all fun k => islandPower s k == .p0 || (decide (k < 128) && !serves s k)

/-- Whether an instance may start now (R55 to R59, R246): the context switch is over, it exists, has not started, its micro-batch is not dropped, its
predecessors are complete, its operands in T1, and the schedule lets it (R73). -/
def mayStart (s : State) (r : Run) (i : InstId) (d : Desc) : Bool :=
  let img := r.adm.image
  r.switched && validInst img i && !r.executed.contains i &&
  !((mbLoopOf img d).isSome && r.dropped.contains i.mb) &&
  (!(d.opcode == 8) || (r.norm.isSome && (!r.adm.securing || r.secured) && !retainedBlocks s r.adm.ctx (d.opr 0).object)) &&
  (predsOf img i).all (instDone r) && !accumulateWaits r i d && !confirmWaits r i d &&
  operandsPresent s r i d && planFree s r (.inst i)

/-- Marks an instance executed and its free values spent. -/
def markExecuted (s : State) (i : InstId) : State :=
  { setRun s (fun r => { r with executed := i :: r.executed }) with fresh := s.fresh + 1 }

/-- The micro-batch whose statistics an instance adds to (R29), none outside the micro-batch loop. -/
def tagOf (img : Image) (i : InstId) (d : Desc) : Option Nat := if (mbLoopOf img d).isSome then some i.mb else none

/-- Names the micro-batch at work. -/
def setTag (s : State) (t : Option Nat) : State := setRun s fun r => { r with tag := t }

/-- The effect of an instance that starts: its length table is read once, and what it measures counts for its micro-batch. -/
def startInstance (s : State) (r : Run) (i : InstId) (d : Desc) (go : Run → Desc → State → State) : State :=
  let t := tagOf r.adm.image i d
  let x := readLens (setTag s t) { r with tag := t } i d
  markExecuted (go x.2 d x.1) i

/-- An instance of a descriptor with this opcode: runs the given effect if it may start, and nothing otherwise. -/
def onInstance (s : State) (i : InstId) (opcode : Nat) (go : Run → Desc → State → State) : State :=
  match s.sched.run with
  | none => s
  | some r =>
    match r.adm.image.descs[i.index]? with
    | none => s
    | some d =>
      if d.opcode = opcode && mayStart s r i d && s.dev.state != .halt then startInstance s r i d go else s

end Sys2Proof.Machine
end

