-- ==== Sys2Proof/Machine/Lode.lean ====
section
/-!
DEFINITION. The Lode engines' score records (R140 to R143, R43): the running maximum and sum of each row, and the
probabilities that every reader of a score object meets.
Choices of the model, by log entry: 16 DESIGN CHOICE, 23 DESIGN CHOICE, 28 DEDUCED.
-/

namespace Sys2Proof.Machine

/-- log2(e) / √128 at the scale 2^400 (R135). -/
def lodeScale : Nat := 329281870200775754374034224237349469686656342613430060377898825240863214487520344714965531743077415291173341606530560017

/-- x′ = x × log2(e) / √128 of a stored score (R135). -/
def lodeUnits (x : Dy) : Dy := ⟨x.m * lodeScale, x.e - 400⟩

/-- ⌈x′⌉. -/
def lodeCeil (x : Dy) : Int := (lodeUnits x).ceilAt 0

/-- 2^(x′ − m) as a number. -/
def lodePower (x : Dy) (m : Int) : Dy := Approx.dy (fixExp2 ((lodeUnits x).sub (Dy.ofInt m)).fix)

/-- A number with a significand of at most 40 bits (R43). -/
def round40 (d : Dy) : Dy :=
  if d.m = 0 then Dy.zero else let q := d.floorLog - 39; ⟨d.rneInt q, q⟩

/-- The record of a row of a score object. -/
def Obj.rowAt (o : Obj) (head query : Nat) : Option RowRec := o.rows.find? fun r => r.head == head && r.query == query

/-- A running maximum as the record holds it: a signed 16-bit integer. What the record holds for a maximum beyond 16 bits the
manual does not say: a free value. -/
def rowMax (seed : Nat) (m : Int) : BitVec 16 :=
  if -32768 ≤ m ∧ m ≤ 32767 then BitVec.ofInt 16 m else BitVec.ofNat 16 (Config.free 12 seed)

/-- Folds the kept scores of one tile into a row record (R142). -/
def RowRec.fold (seed : Nat) (r : RowRec) (xs : List Dy) : RowRec :=
  match xs with
  | [] => r
  | x :: l =>
    let top := l.foldl (fun t y => if t < lodeCeil y then lodeCeil y else t) (lodeCeil x)
    let m := rowMax seed (match r.max with | some m => (if m.toInt < top then top else m.toInt) | none => top)
    let old : Dy := match r.max with | some k => ⟨r.sumM, r.sumE + k.toInt - m.toInt⟩ | none => Dy.zero
    let sum := round40 (xs.foldl (fun t y => t.add (lodePower y m.toInt)) old)
    { r with max := some m, sumM := sum.m.natAbs, sumE := sum.e, kept := r.kept + xs.length }

/-- Changes the record of a row, an empty one first (R142). -/
def Obj.foldRow (seed : Nat) (o : Obj) (head query : Nat) (xs : List Dy) : Obj :=
  match o.rowAt head query with
  | some _ => { o with rows := modifyWhere (fun r => r.head == head && r.query == query) (fun r => r.fold seed xs) o.rows }
  | none => { o with rows := RowRec.fold seed ⟨head, query, none, 0, 0, 0⟩ xs :: o.rows }

/-- Whether an object is the score object of an ATTN_SCORE of an image (R140). -/
def isScore (img : Image) (n : Nat) : Bool := img.descs.any fun d => d.opcode == 3 && (d.opr 2).object == n

/-- The kept elements of a score tile, as 64n + k. -/
def Obj.keptOf (o : Obj) (t : Nat) : List Nat := ((o.kept.find? fun x => x.1 == t).map fun x => x.2).getD []

/-- The Lode engine's normalised probability of a kept score (R43, R143): p = 2^(x′ − m) / Σ with a relative deviation
the manual leaves open within 2^−18 + n × 2^−40 (R42). -/
def lodeProb (seed : Nat) (r : RowRec) (slot : Nat) (x : Dy) : Dy :=
  match r.max with
  | none => Dy.zero
  | some m =>
    let p := lodePower x m.toInt
    let q : Dy := ⟨p.m * (2 ^ 100 : Nat) / (r.sumM : Int), p.e - 100 - r.sumE⟩
    let limit : Int := 2 ^ 22 + r.kept
    let off := max (-limit) (min limit (Config.lodeProb seed ((r.head * 2 ^ 40 + r.query) * 2 ^ 40 + slot)))
    ⟨q.m * (2 ^ 40 + off), q.e - 40⟩

/-- A score object as its readers meet it: UX8 probabilities at e_t = 0 (R143). Elements that are not kept and tiles
that were suppressed read as zero. -/
def probView (seed : Nat) (o : Obj) (eT : Int) : Obj :=
  let e := { o.entry with format := .ux8 }
  let data := o.kept.foldl (fun m x =>
    let p := o.entry.tilePos x.1
    let val (k n : Nat) : FVal :=
      if x.2.contains (64 * n + k) then
        match o.rowAt p.2.2 (128 * p.2.1 + n) with
        | some r => FVal.ofDy (lodeProb seed r (64 * p.1 + k) (readElem o.entry.format eT o.data (o.entry.tileBase x.1) k n).1.dy)
        | none => .fin false 0 0
      else .fin false 0 0
    Mem.splice m (e.tileBase x.1) (encodeTile .ux8 0 val (e.real x.1)).1) []
  { o with entry := e, data }

/-- An object as a reader of the running step meets it, with the E_T of its elements. -/
def readerView (s : State) (img : Image) (n : Nat) : Option (Obj × Int) :=
  (objFor s img n).map fun o =>
    let eT := scaleOf s img.ctx o.entry
    if isScore img n then (probView s.fresh o eT, 0) else (o, eT)

end Sys2Proof.Machine
end

