-- ==== Sys2Proof/Machine/Matmul.lean ====
section
/-!
DEFINITION. MATMUL (R92 to R102, R38 to R40): dense, wide and packed products.
Choices of the model, by log entry: 27 DEDUCED.
-/

namespace Sys2Proof.Machine

/-- The limbs of a MATMUL: 0, 3 or 7 (R52). -/
def limbsOf (d : Desc) : Nat := bits (d.param 3) 3 1

/-- What a product is made of: M, N, K, the operand views with their exponents and first tiles, the destination, and
the K-tiles (first and count, from the base) that a KV_APPEND redirects into pages (R151). -/
structure Product where
  m : Nat
  n : Nat
  k : Nat
  a : Obj
  eA : Int
  baseA : Nat
  b : Obj
  eB : Int
  baseB : Nat
  c : Nat
  baseC : Nat
  bias : Option (Obj × Nat)
  acc : Bool
  cover : Option (Nat × Nat) := none
  deriving DecidableEq, Repr

/-- The bias of row m, an F32 value (R98). -/
def Product.biasAt (p : Product) (m : Nat) : Dy :=
  match p.bias with
  | some x => x.1.at 0 maxF32 x.2 m 0
  | none => Dy.zero

/-- Counts what reading the bias substitutes (R35). -/
def Product.countBias (s : State) (ctx : Nat) (p : Product) : State :=
  match p.bias with
  | some x => recordStats s ctx x.1.entry ((List.range p.m).foldl (fun st m =>
      let r := refElem x.1.entry x.2 m 0
      st.merge (x.1.load 0 maxF32 r.1 r.2.1 r.2.2).2) {})
  | none => s

/-- The presence bit of output tile (j0, j1) (R180): A tiles of its rows, B tiles of its columns. -/
def Product.present (p : Product) (j0 j1 : Nat) : Bool :=
  let kt := List.range (ceilDiv p.k 64)
  presenceOf [(p.a, kt.map fun j => p.baseA + j + p.a.entry.t0 * (j0 / 2)),
              (p.b, kt.map fun j => p.baseB + j + p.b.entry.t0 * j1)]

/-- Whether K-tile j0 of the output is redirected into pages (R151). -/
def Product.covered (p : Product) (j0 : Nat) : Bool :=
  match p.cover with
  | some x => decide (x.1 ≤ j0) && decide (j0 < x.1 + x.2)
  | none => false

/-- The exact results of the redirected tiles. -/
def Product.coveredValues (p : Product) (keep : Nat → Bool) (val : Nat → Nat → Dy) : List (Nat × Nat × Int × Int) :=
  ((List.range p.m).map fun m => (List.range p.n).filterMap fun n =>
    if p.covered (m / 64) && keep n then let v := val m n; some (m, n, v.m, v.e) else none).flatten

/-- Keeps the exact results of the tiles that a KV_APPEND redirects (R151). -/
def keepCovered (s : State) (i : InstId) (p : Product) (keep : Nat → Bool) (val : Nat → Nat → Dy) : State :=
  if p.cover.isSome then setRun s fun r => { r with covered := (i, p.coveredValues keep val) :: r.covered } else s

/-- A dense product: exact column sums, the bias and any existing value added exactly, one rounding (R97, R98). -/
def denseProduct (s : State) (img : Image) (i : InstId) (p : Product) (keep : Nat → Bool) : State :=
  match objFor s img p.c with
  | none => s
  | some c =>
    let acols := (List.range p.m).map fun m => arrayColumn p.a p.b.stored p.eA p.baseA p.k m
    let bcols := (List.range p.n).map fun n =>
      if keep n then arrayColumn p.b p.a.stored p.eB p.baseB p.k n else []
    let eC := scaleOf s img.ctx c.entry
    let val (m n : Nat) : Dy :=
      ((columnDot (at' acols m []) (at' bcols n [])).add (p.biasAt m)).add (existing c eC p.acc p.baseC m n)
    let s := p.countBias (keepCovered s i p keep val) img.ctx
    let s := recordStats s img.ctx p.a.entry (columnStats acols)
    let s := recordStats s img.ctx p.b.entry (columnStats bcols)
    writeRange s img p.c p.baseC p.m p.n p.acc (fun m n => FVal.ofDy (val m n)) keep p.present p.covered

/-- The values of a column of a wide operand with the count of values that were not finite (R35, R38). -/
def wideColumn (o : Obj) (limbs base k n : Nat) : List (Dy × Bool) :=
  (List.range k).map fun j =>
    if limbs = 7 then finite maxF64 (ieee64.decode (Mem.le o.data (8 * refInt o.entry base j n) 8))
    else
      let r := refElem o.entry base j n
      if o.entry.role = .gradient && !o.present.contains r.1 then (Dy.zero, false)
      else finite maxF64 (readElem .f32 0 o.data (o.entry.tileBase r.1) r.2.1 r.2.2).1

/-- A column's exponent e_i or f_j and the balanced digits of its elements (R39 items 1 to 3). -/
def wideScaled (limbs : Nat) (col : List (Dy × Bool)) : Int × List (List Int) :=
  let e := wideExp (maxAbs (col.map fun x => x.1))
  (e, col.map fun x => wideDigits limbs (wideInt limbs e x.1))

/-- A wide product (R39, R99). -/
def wideProduct (s : State) (img : Image) (i : InstId) (p : Product) (limbs : Nat) (keep : Nat → Bool) : State :=
  match objFor s img p.c with
  | none => s
  | some c =>
    let araw := (List.range p.m).map (wideColumn p.a limbs p.baseA p.k)
    let braw := (List.range p.n).map fun n => if keep n then wideColumn p.b limbs p.baseB p.k n else []
    let as := araw.map (wideScaled limbs)
    let bs := braw.map (wideScaled limbs)
    let bad (l : List (List (Dy × Bool))) : Stats := { nonfinite := (l.map fun x => x.countP fun y => y.2).sum }
    let s := recordStats (p.countBias s img.ctx) img.ctx p.a.entry (bad araw)
    let s := recordStats s img.ctx p.b.entry (bad braw)
    let exact (m n : Nat) : Dy :=
      let a := at' as m (0, [])
      let b := at' bs n (0, [])
      Dy.add ⟨wideSum limbs (a.2.zip b.2), a.1 + b.1 - 16 * limbs + 2⟩ (p.biasAt m)
    if limbs = 7 then
      (List.range p.n).foldl (fun s n =>
        if !keep n then s else
        (List.range p.m).foldl (fun s m =>
          let pos := 8 * refInt c.entry p.baseC m n
          let old := if p.acc then finite maxF64 (ieee64.decode (Mem.le c.data pos 8)) else (Dy.zero, false)
          let q := quantF64 (FVal.ofDy ((exact m n).add old.1))
          writeIntBytes s img p.c pos (leBytes 8 q.1) { q.2 with nonfinite := q.2.nonfinite + bit old.2 }) s) s
    else
      let val (m n : Nat) : Dy := (exact m n).add (existing c 0 p.acc p.baseC m n)
      writeRange (keepCovered s i p keep val) img p.c p.baseC p.m p.n p.acc (fun m n => FVal.ofDy (val m n)) keep p.present
        p.covered

/-- Word w of problem q of a packed problem list (R52). -/
def problemWord (o : Obj) (base q w : Nat) : Nat := (o.int (2048 * base + 8 * q + w) % 2 ^ 32).toNat

/-- The problems of a list that begins at a unit of an object (R52). -/
def readProblems (o : Obj) (base count : Nat) : List Problem :=
  (List.range count).map fun q =>
    let w := problemWord o base q
    ⟨w 0, w 1, w 2, w 3, w 4, w 5⟩

/-- One problem of a packed product (R100): each object from its first tile. -/
def packedProblem (s : State) (img : Image) (i : InstId) (p : Problem) (acc : Bool) (keep : Nat → Bool) : State :=
  match readerView s img p.a, readerView s img p.b with
  | some a, some b =>
    denseProduct s img i ⟨p.m, p.n, p.k, a.1, a.2, 0, b.1, b.2, 0, p.c, 0, none, acc, none⟩ keep
  | _, _ => s

/-- The passes of a problem: N chunks of 64, panels of 512 rows, K chunks of 32 (R101). -/
def Problem.passes (p : Problem) : Nat := ceilDiv p.k 32 * ceilDiv p.n 64 * ceilDiv p.m 512

/-- The image with the problem lists of its packed MATMUL instances as they stand (R102: checked at SUBMIT). -/
def resolveLists (s : State) (img : Image) : Image :=
  { img with lists := img.insts.filterMap fun i =>
      match img.descs[i.index]? with
      | some d => if d.opcode == 1 && d.param 3 % 2 == 1 then
          (oprObj s img d 0).map fun o => (i, readProblems o (baseOf d 0 i) (d.param 0)) else none
      | none => none }

/-- The K-tiles of a MATMUL's output, counted from its base, that the KV_APPEND it is DEP0 of redirects into pages: 2G
K-tiles of keys and 2G of values (R151). -/
def appendCover (img : Image) (i : InstId) (d : Desc) : Option (Nat × Nat) :=
  match img.descs.find? fun x => x.opcode == 5 && x.deps.head? == some d.index && (x.opr 0).object == (d.opr 2).object with
  | none => none
  | some x =>
    match img.entry (x.opr 1).object, img.entry (d.opr 2).object with
    | some t, some c => some ((c.tilePos (baseOf x 0 i)).1 - (c.tilePos (baseOf d 2 i)).1, 4 * t.dim 1)
    | _, _ => none

/-- Whether a tile of an object is one that a MATMUL's product redirects into pages, so that it takes no T1 (R151). -/
def coveredTile (img : Image) (n t : Nat) : Bool :=
  img.insts.any fun i => match img.descs[i.index]? with
    | none => false
    | some d => d.opcode == 1 && d.param 3 % 2 == 0 && (d.opr 2).object == n &&
      (match appendCover img i d, img.entry n with
       | some c, some e =>
         let k := (e.tilePos t).1
         let b := (e.tilePos (baseOf d 2 i)).1 + c.1
         decide (b ≤ k) && decide (k < b + c.2) && (rangeTiles e (baseOf d 2 i) (d.param 0) (d.param 1)).contains t
       | _, _ => false)

/-- The effect of a MATMUL instance. -/
def matmulDo (i : InstId) (r : Run) (d : Desc) (s : State) : State :=
  let img := r.adm.image
  let keep := realColumns r d (lensOf r i)
  if d.param 3 % 2 = 1 then
    match oprObj s img d 0 with
    | none => s
    | some list =>
      let ps := readProblems list (baseOf d 0 i) (d.param 0)
      let s := ps.foldl (fun s p => packedProblem s img i p d.accumulate keep) s
      addTiles s i (((takersOf s r.groves ((grovesFor r i 1).headD 0))).headD 0) (ps.map Problem.passes).sum
  else
    match readerView s img (d.opr 0).object, readerView s img (d.opr 1).object with
    | some a, some b =>
      let bias := if d.uses 3 then (oprObj s img d 3).map fun o => (o, baseOf d 3 i) else none
      let p : Product := ⟨d.param 0, d.param 1, d.param 2, a.1, a.2, baseOf d 0 i, b.1, b.2, baseOf d 1 i,
        (d.opr 2).object, baseOf d 2 i, bias, d.accumulate, appendCover img i d⟩
      let nt := (List.range (ceilDiv p.n 128)).countP fun j =>
        (List.range 128).any fun c => decide (128 * j + c < p.n) && keep (128 * j + c)
      let fa := operandForm a.1.stored b.1.stored
      let fb := operandForm b.1.stored a.1.stored
      let gs := grovesFor r i d.groves
      let declared := tileCount img d p.n
      let h := panelHeight p.m declared p.k (if limbsOf d = 0 then broadcastCycles fb else 33) gs.length
        (limbsOf d == 0 && Format4 fa && Format4 fb)
      let slices := match limbsOf d with | 3 => 6 | 7 => 28 | _ => 1
      let s := dealDeclared s i gs (ceilDiv p.m h * declared) (ceilDiv p.m h * nt) (4 * ceilDiv p.k 64 * slices)
      if limbsOf d = 0 then denseProduct s img i p keep else wideProduct s img i p (limbsOf d) keep
    | _, _ => s

/-- MATMUL (R64, R92 to R102). -/
def execMatmul (i : InstId) (s : State) : Host.Outcome State Fault Refusal := done (onInstance s i 0x01 (matmulDo i))

/-- The checks of a MATMUL descriptor (R40, R52, R102, R175) on its entries; the problem list is read at admission. -/
def matmulBad (img : Image) (d : Desc) : Bool :=
  let e (n : Nat) : Option ObjEntry := img.entry (d.opr n).object
  if d.param 3 % 2 = 1 then
    !(1 ≤ d.param 0 && decide (d.param 0 ≤ 16)) || d.param 3 != 1 || d.uses 3 || d.uses 1 || d.uses 2 ||
    (match e 0 with | some x => x.format != .int32 | none => true)
  else
    let l := limbsOf d
    decide (d.param 3 / 16 ≠ 0) || d.param 3 % 2 == 1 || !(l == 0 || l == 3 || l == 7) ||
    d.param 0 == 0 || d.param 1 == 0 || d.param 2 == 0 || (l != 0 && decide (2 ^ 30 < d.param 2)) ||
    (match e 0, e 1, e 2 with
     | some a, some b, some c =>
       (match l with
        | 3 => a.format != .f32 || b.format != .f32 || c.format != .f32
        | 7 => a.format != .int64 || b.format != .int64 || c.format != .int64
        | _ => !a.format.isTiled || !b.format.isTiled) ||
       (d.accumulate && c.zeroRun)
     | _, _, _ => true) ||
    (d.uses 3 && (match e 3 with | some b => b.format != .f32 | none => true))

/-- A packed problem list that R102 refuses, read at admission for each instance: extents, objects, formats, overlapping
outputs, reserved words (R4, R52). -/
def problemsBad (s : State) (img : Image) (d : Desc) (i : InstId) : Bool :=
  d.opcode == 1 && d.param 3 % 2 == 1 &&
  match oprObj s img d 0 with
  | none => true
  | some list =>
    let w := problemWord list (baseOf d 0 i)
    let qs := List.range (d.param 0)
    let outside (x : Nat) : Bool := decide (x = 0) || decide (65536 < x)
    (qs.any fun q =>
      outside (w q 3) || outside (w q 4) || outside (w q 5) || w q 6 != 0 || w q 7 != 0 ||
      (match img.entry (w q 0), img.entry (w q 1), img.entry (w q 2) with
       | some a, some b, some c =>
         !a.format.isTiled || !b.format.isTiled || !c.format.isTiled || (d.accumulate && c.zeroRun) ||
         !rangeInside a 0 (w q 5) (w q 3) || !rangeInside b 0 (w q 5) (w q 4) || !rangeInside c 0 (w q 3) (w q 4)
       | _, _, _ => true)) ||
    (qs.any fun q => qs.any fun p => decide (p < q) && w p 2 == w q 2)

end Sys2Proof.Machine
end

