-- ==== Sys2Proof/Machine/Conv.lean ====
section
/-!
DEFINITION. CONV on the groves and on the Sapling engines, and the filter loads (R162 to R178).
Choices of the model, by log entry: 84 DEDUCED.
-/

namespace Sys2Proof.Machine

/-- The geometry of a CONV (R52 Table 6, R165). -/
structure ConvGeo where
  d : Nat
  f : List Nat
  st : List Nat
  dil : List Nat
  pad : List Nat
  cIn : Nat
  cOut : Nat
  replicate : Bool
  rectify : Bool
  deriving DecidableEq, Repr

def convGeo (d : Desc) : ConvGeo :=
  let p := d.param
  { d := bits (p 0) 13 12, f := [bits (p 0) 3 0, bits (p 0) 7 4, bits (p 0) 11 8],
    st := [bits (p 1) 4 0, bits (p 1) 12 8, bits (p 1) 20 16],
    dil := [bits (p 2) 6 0, bits (p 2) 14 8, bits (p 2) 22 16],
    pad := [bits (p 5) 7 0, bits (p 5) 15 8, bits (p 5) 23 16],
    cIn := p 3, cOut := p 4, replicate := decide (bits (p 0) 14 14 = 1), rectify := decide (bits (p 0) 15 15 = 1) }

/-- The reduction extent K = C_in × f0 × f1 × f2. -/
def ConvGeo.k (g : ConvGeo) : Nat := g.cIn * at' g.f 0 1 * at' g.f 1 1 * at' g.f 2 1

/-- Output extent along an axis (R166); the floor rounds towards −∞. -/
def ConvGeo.out (g : ConvGeo) (x i : Nat) : Int :=
  ((x : Int) + 2 * (at' g.pad i 0 : Nat) - (at' g.dil i 1 : Nat) * ((at' g.f i 1 : Nat) - 1) - 1) / (at' g.st i 1 : Nat) + 1

/-- Tap coordinates and channel of reduction index k (R164). -/
def ConvGeo.tap (g : ConvGeo) (k : Nat) : Nat × Nat × Nat × Nat :=
  let f0 := at' g.f 0 1
  let f1 := at' g.f 1 1
  let f2 := at' g.f 2 1
  (k % f0, k / f0 % f1, k / f0 / f1 % f2, k / f0 / f1 / f2)

/-- The input coordinate along axis i for output o and tap t, none in zero padding (R167). -/
def ConvGeo.coord (g : ConvGeo) (x i o t : Nat) : Option Nat :=
  let c : Int := (o * at' g.st i 1 + t * at' g.dil i 1 : Nat) - (at' g.pad i 0 : Nat)
  if c < 0 then (if g.replicate then some 0 else none)
  else if (x : Int) ≤ c then (if g.replicate then some (x - 1) else none)
  else some c.toNat

/-- The input element that reduction index k reads at an output position: K coordinate, N coordinate, outer index. -/
def ConvGeo.source (g : ConvGeo) (e : ObjEntry) (sample k o0 o1 o2 : Nat) : Option (Nat × Nat × Nat) :=
  let t := g.tap k
  match g.coord (e.dim 0) 0 o0 t.1, g.coord (e.dim 1) 1 o1 t.2.1, g.coord (e.dim 2) 2 o2 t.2.2.1 with
  | some x0, some x1, some x2 => some (x0, x1, x2 + e.dim 2 * (t.2.2.2 + e.dim 3 * sample))
  | _, _, _ => none

/-- Tiles per sample of a planar object (R162). -/
def sampleTiles (e : ObjEntry) : Nat := e.t0 * e.t1 * e.dim 2 * e.dim 3

/-- Filter bytes in the tiles R169 counts. -/
def filterBytes (e : ObjEntry) : Nat := (if e.format = .bx4 then 4224 else 8320) * e.tiles

/-- Whether a CONV runs on a Sapling engine (R169). -/
def onSapling (img : Image) (d : Desc) : Bool :=
  let g := convGeo d
  d.opcode == 2 && (decide (g.cIn ≤ 16) || decide (g.cOut ≤ 16)) &&
  (match img.entry (d.opr 0).object with | some e => decide (filterBytes e ≤ 1048576) | none => false)

/-- The Sapling instances of an image. -/
def saplingInsts (img : Image) : List InstId :=
  img.insts.filter fun i => match img.descs[i.index]? with | some d => onSapling img d | none => false

/-- The number of a Sapling instance in the order of R58 (R170). -/
def saplingRank (img : Image) (i : InstId) : Nat := (saplingInsts img).countP fun j => precedes img j i

/-- The input element of a block at its own offset, as the Sapling engine multiplies it (R177): code and step. -/
def saplingInput (o : Obj) (eT : Int) (x0 x1 outer : Nat) : Dy :=
  let b := arrayBlock o .bx8 eT (o.entry.tileAt 0 0 outer) (x0 / 32) x1
  ⟨at' b.codes (x0 % 32) 0, b.step⟩

/-- The assembled block of 32 reduction indices at one output position on the groves (R172). -/
def patchBlock (g : ConvGeo) (o : Obj) (filter : Format) (eT : Int) (sample h o0 o1 o2 : Nat) : ArrayBlock :=
  let src (j : Nat) : Option (Nat × Nat × Nat) :=
    if 32 * h + j < g.k then g.source o.entry sample (32 * h + j) o0 o1 o2 else none
  if o.entry.format.isBlock then
    let es := (List.range 32).map fun j => match src j with
      | some x => saplingInput o eT x.1 x.2.1 x.2.2
      | none => Dy.zero
    let nz := es.filter fun e => !e.isZero
    let step := nz.foldl (fun t e => max t e.e) ((nz.headD ⟨0, eT⟩).e)
    ⟨es.map fun e => e.rneInt step, step, {}⟩
  else
    let f := arrayForm filter
    let b := quantBlock f eT ((List.range 32).map fun j => match src j with
      | some x =>
        let t := o.entry.tileAt (x.1 / 64) (x.2.1 / 128) x.2.2
        if o.entry.role = .gradient && !o.present.contains t then FVal.fin false 0 0
        else (readElem o.entry.format eT o.data (o.entry.tileBase t) (x.1 % 64) (x.2.1 % 128)).1
      | none => .fin false 0 0)
    ⟨b.2.1, f.stepExp eT b.1, { sat := b.2.2.sat }⟩

/-- The exact result of one output element, before rectification and rounding. -/
def convElem (g : ConvGeo) (sapling : Bool) (w : List ArrayBlock) (x : Obj) (filter : Format) (eT : Int)
    (sample o0 o1 o2 : Nat) : Dy :=
  if sapling then
    Dy.sum ((List.range g.k).map fun k => match g.source x.entry sample k o0 o1 o2 with
      | some p =>
        let b := at' w (k / 32) ⟨[], 0, {}⟩
        Dy.mul ⟨at' b.codes (k % 32) 0, b.step⟩ (saplingInput x eT p.1 p.2.1 p.2.2)
      | none => Dy.zero)
  else
    columnDot w ((List.range (ceilDiv g.k 32)).map fun h => patchBlock g x filter eT sample h o0 o1 o2)

/-- Whether a coordinate along axis i is read by some window (R168): zero padding and the gaps of a wide stride are not. -/
def ConvGeo.axisRead (g : ConvGeo) (x out i : Nat) : List Bool :=
  let hits := ((List.range out).map fun o => (List.range (at' g.f i 1)).filterMap fun t => g.coord x i o t).flatten
  (List.range x).map hits.contains

/-- What reading one input element counts: the substitutions of the load path, and for F32 and F16 the saturation of its
conversion, which no block's offset decides (R19, R25, R26, R35). -/
def convElemStats (o : Obj) (f : Format) (eT : Int) (t k n : Nat) : Stats :=
  let r := readElem o.entry.format eT o.data (o.entry.tileBase t) k n
  if o.entry.role = .gradient && !o.present.contains t then {}
  else if o.entry.format.isBlock then { sat := bit r.2 }
  else
    let v := finite ⟨f.qMax, eT - f.places⟩ r.1
    { sat := bit (saturate f (v.1.rneInt (f.stepExp eT 0))).2, nonfinite := bit v.2 }

/-- What a CONV counts in its input's scale entry: each element that some window reads, once. -/
def convStats (g : ConvGeo) (o : Obj) (f : Format) (eT : Int) (sample : Nat) (out : ObjEntry) : Stats :=
  let e := o.entry
  let r0 := g.axisRead (e.dim 0) (out.dim 0) 0
  let r1 := g.axisRead (e.dim 1) (out.dim 1) 1
  let r2 := g.axisRead (e.dim 2) (out.dim 2) 2
  (List.range (sampleTiles e)).foldl (fun st q =>
    let t := sample * sampleTiles e + q
    let p := e.tilePos t
    if !at' r2 (p.2.2 % e.dim 2) false then st else
    (List.range 128).foldl (fun st n => if !at' r1 (128 * p.2.1 + n) false then st else
      (List.range 64).foldl (fun st k => if at' r0 (64 * p.1 + k) false then st.merge (convElemStats o f eT t k n) else st)
        st) st) {}

/-- The N tiles of a grove CONV: output positions by 64 and 2 along the first two axes that it convolves, at every other index
and line (R171). -/
def convUnits (g : ConvGeo) (y : ObjEntry) : Nat :=
  ceilDiv (y.dim 0) 64 * (if g.d = 1 then y.dim 1 else ceilDiv (y.dim 1) 2) * y.dim 2

/-- The input tiles that an output tile draws on (R180). -/
def convTiles (g : ConvGeo) (x e : ObjEntry) (sample j0 j1 o2 : Nat) : List Nat :=
  ((List.range 64).map fun k => ((List.range 128).map fun n => (List.range g.k).filterMap fun q =>
    if 64 * j0 + k < e.dim 0 && decide (128 * j1 + n < e.dim 1) then
      (g.source x sample q (64 * j0 + k) (128 * j1 + n) o2).map fun p => x.tileAt (p.1 / 64) (p.2.1 / 128) p.2.2
    else none).flatten).flatten

/-- The filter in the buffer that was loaded for an instance, none where none was (R176). -/
def bufferedFilter (s : State) (die : Nat) (i : InstId) : Option Mem :=
  (at' s.islands.saplings die {}).buffers.findSome? fun b => match b with
    | some x => if x.1 = i then some x.2 else none
    | none => none

/-- The accumulators of a Sapling engine after its last output position and C_out group (R97, R176 to R178): V of each
column. -/
def lastAccumulators (g : ConvGeo) (val : Nat → Dy) (eW eX : Int) (fw fx : Format) : List Int :=
  let first := 16 * ((g.cOut - 1) / 16)
  (List.range 16).map fun j => if first + j < g.cOut then
    (val (first + j)).floorAt (eW + eX - fw.places - fx.places - 30) else 0

/-- The effect of a CONV instance: one sample (R163). A Sapling engine multiplies by the filter in its buffer. -/
def convDo (i : InstId) (r : Run) (d : Desc) (s : State) : State :=
  let img := r.adm.image
  let g := convGeo d
  let sapling := onSapling img d
  match readerView s img (d.opr 0).object, readerView s img (d.opr 1).object, oprObj s img d 2 with
  | some w0, some x, some y =>
    let die := saplingRank img i % 4
    let w : Obj × Int := if sapling then
        match bufferedFilter s die i with | some m => ({ w0.1 with data := m }, w0.2) | none => w0
      else w0
    let ins := baseOf d 1 i / sampleTiles x.1.entry
    let base := baseOf d 2 i
    let outs := base / sampleTiles y.entry
    let eY := scaleOf s img.ctx y.entry
    let rows := (List.range g.cOut).map fun m => arrayColumn w.1 x.1.stored w.2 (baseOf d 0 i) g.k m
    let s := recordStats s img.ctx w.1.entry (columnStats rows)
    let form := if sapling then Format.bx8 else operandForm x.1.stored w.1.stored
    let s := recordStats s img.ctx x.1.entry (convStats g x.1 form x.2 ins y.entry)
    let e := y.entry
    let s := if !sapling then s else
      { s with islands := { s.islands with saplings := s.islands.saplings.modify die fun z =>
        { z with accumulators := lastAccumulators g (fun m => convElem g true (at' rows m []) x.1 w.1.stored x.2 ins
            (e.dim 0 - 1) (e.dim 1 - 1) (e.dim 2 - 1)) w.2 x.2 (operandForm w.1.stored .bx8) (operandForm x.1.stored .bx8) } } }
    (List.range g.cOut).foldl (fun s m => (List.range (e.dim 2)).foldl (fun s o2 =>
      (List.range e.t1).foldl (fun s j1 => (List.range e.t0).foldl (fun s j0 =>
        let t := e.tileAt j0 j1 (o2 + e.dim 2 * (m + e.dim 3 * outs))
        let val (k n : Nat) : FVal :=
          let c := convElem g sapling (at' rows m []) x.1 w.1.stored x.2 ins (64 * j0 + k) (128 * j1 + n) o2
          let v := if d.accumulate then c.add (y.value eY maxF32 t k n) else c
          FVal.ofDy (if g.rectify && decide (v.m < 0) then Dy.zero else v)
        let gradients := w.1.entry.role = .gradient || x.1.entry.role = .gradient
        let p := !gradients || presenceOf [(w.1, (List.range (ceilDiv g.k 64)).map fun j => baseOf d 0 i + j + w.1.entry.t0 * (m / 128)),
          (x.1, convTiles g x.1.entry e ins j0 j1 o2)] || (d.accumulate && y.present.contains t)
        writeTile (if d.accumulate then countTiles s img.ctx y eY maxF32 [t] else s) img (d.opr 2).object t val p) s) s) s) s
  | _, _, _ => s

/-- Deals the units of a grove CONV (R171). -/
def convDeal (i : InstId) (r : Run) (d : Desc) (s : State) : State :=
  let img := r.adm.image
  let g := convGeo d
  match img.entry (d.opr 0).object, img.entry (d.opr 1).object, img.entry (d.opr 2).object with
  | some w, some x, some y =>
    let nt := convUnits g y
    let fx := operandForm x.format w.format
    let gs := grovesFor r i d.groves
    let h := panelHeight g.cOut nt g.k (broadcastCycles fx) gs.length (Format4 fx && Format4 (operandForm w.format x.format))
    dealUnits s i gs (ceilDiv g.cOut h * nt) (4 * ceilDiv g.k 64)
  | _, _, _ => s

/-- Whether a Sapling instance may run: its filter is loaded and every earlier instance of its engine has run (R170,
R176). -/
def saplingReady (r : Run) (i : InstId) : Bool :=
  let img := r.adm.image
  r.filters.contains i &&
  (saplingInsts img).all fun j =>
    !(precedes img j i && saplingRank img j % 4 == saplingRank img i % 4) || r.executed.contains j || instDone r j

/-- Frees the filter buffer that an instance used. -/
def freeFilter (s : State) (die : Nat) (i : InstId) : State :=
  { s with islands := { s.islands with saplings := s.islands.saplings.modify die fun x =>
      { x with buffers := x.buffers.map fun b => match b with | some y => if y.1 = i then none else b | none => none } } }

/-- CONV (R164). -/
def execConv (i : InstId) (s : State) : Host.Outcome State Fault Refusal :=
  done (match s.sched.run with
    | none => s
    | some r =>
      match r.adm.image.descs[i.index]? with
      | none => s
      | some d =>
        if onSapling r.adm.image d then
          if saplingReady r i then
            onInstance s i 0x02 fun r d s => freeFilter (convDo i r d s) (saplingRank r.adm.image i % 4) i
          else s
        else onInstance s i 0x02 fun r d s => convDeal i r d (convDo i r d s))

/-- FILTER_LOAD (R176): the filter of a Sapling instance goes into the idle buffer of its engine, once the writers of the
filter that the instance waits for have completed. -/
def execFilterLoad (i : InstId) (s : State) : Host.Outcome State Fault Refusal :=
  done (match s.sched.run with
    | none => s
    | some r =>
      let die := saplingRank r.adm.image i % 4
      let sap := at' s.islands.saplings die {}
      let img := r.adm.image
      match img.descs[i.index]? with
      | none => s
      | some d =>
        let settled := (predsOf img i).all fun j => instDone r j || (match img.descs[j.index]? with
          | some x => !(writtenObjects img x).contains (d.opr 0).object
          | none => true)
        if (saplingInsts img).contains i && !r.filters.contains i && (at' sap.buffers sap.idle none).isNone &&
            !((mbLoopOf img d).isSome && r.dropped.contains i.mb) && settled &&
            planFree s r (.filter i) then
          let m := match oprObj s img d 0 with | some o => o.data | none => []
          let s := { s with islands := { s.islands with saplings := s.islands.saplings.modify die fun x =>
            { x with buffers := x.buffers.set x.idle (some (i, m)), idle := 1 - x.idle } } }
          setRun s fun r => { r with filters := i :: r.filters }
        else s)

/-- The checks of a CONV descriptor (R163, R165, R174, R175). -/
def convBad (img : Image) (d : Desc) : Bool :=
  let g := convGeo d
  let p := d.param
  let reserved := decide (p 0 / 65536 ≠ 0) || decide (bits (p 0) 31 16 ≠ 0) ||
    p 1 != bits (p 1) 4 0 + 256 * bits (p 1) 12 8 + 65536 * bits (p 1) 20 16 ||
    p 2 != bits (p 2) 6 0 + 256 * bits (p 2) 14 8 + 65536 * bits (p 2) 22 16 || decide (2 ^ 24 ≤ p 5)
  let limits := g.d == 0 || (List.range 3).any fun a =>
    let f := at' g.f a 0
    let st := at' g.st a 0
    let dl := at' g.dil a 0
    f == 0 || st == 0 || decide (16 < st) || dl == 0 || decide (64 < dl) ||
    (decide (g.d ≤ a) && (f != 1 || st != 1 || dl != 1 || at' g.pad a 0 != 0))
  let chan := g.cIn == 0 || decide (65536 < g.cIn) || g.cOut == 0 || decide (65536 < g.cOut)
  reserved || limits || chan || d.uses 3 || d.lentab != 0xFFFF ||
  (match img.entry (d.opr 0).object, img.entry (d.opr 1).object, img.entry (d.opr 2).object with
   | some w, some x, some y =>
     !x.format.isTiled || !w.format.isTiled || w.format == .ux8 || w.format == .ux4 || !y.format.isTiled ||
     w.rank != 2 || w.dim 0 != g.k || w.dim 1 != g.cOut || x.dim 3 != g.cIn || y.dim 3 != g.cOut ||
     ((List.range 3).any fun a => decide (g.out (x.dim a) a ≤ 0) || decide (2 ^ 31 < g.out (x.dim a) a) ||
       decide ((y.dim a : Int) ≠ g.out (x.dim a) a)) ||
     (d.opr 1).base % sampleTiles x != 0 || (d.opr 2).base % sampleTiles y != 0 ||
     (g.rectify && !y.zeroRun) || (d.accumulate && y.zeroRun)
   | _, _, _ => true)

end Sys2Proof.Machine
end

