-- ==== Sys2Proof/Machine/Seam.lean ====
section
/-!
DEFINITION. The Seam form of every tile in T2 and T3 (R237 to R240): container header, raw and block bodies, coding and
decoding.
Choices of the model, by log entry: 16 DESIGN CHOICE, 32 DEDUCED.
-/

namespace Sys2Proof.Machine

/-! ### Block bodies (R238) -/

/-- The number that an element pattern of a block format stands for. -/
def seamValue (f : Format) (p : Nat) : Int :=
  if f.signed && decide (2 ^ (f.width - 1) ≤ p) then (p : Int) - (2 ^ f.width : Nat) else p

/-- The smallest width of a block. -/
def seamWidth (f : Format) (ps : List Nat) : Nat :=
  ((List.range (f.width + 1)).find? fun w => ps.all fun p =>
    let c := seamValue f p
    if f.signed then (if w = 0 then c == 0 else decide (-(2 ^ (w - 1) : Int) ≤ c) && decide (c < (2 ^ (w - 1) : Int)))
    else decide (c < (2 ^ w : Int))).getD f.width

/-- The 4w bytes of a block: w bits of each element, the first in the lowest. -/
def seamPack (w : Nat) (ps : List Nat) : List Byte := leBytes (4 * w) (ps.foldr (fun p v => 2 ^ w * v + p % 2 ^ w) 0)

/-- The 32 element patterns of a block from its bytes, sign-extended. -/
def seamUnpack (f : Format) (w : Nat) (bs : List Byte) : List Nat :=
  let v := leValue bs
  (List.range 32).map fun i =>
    let p := v / 2 ^ (w * i) % 2 ^ w
    if f.signed && decide (0 < w) && decide (2 ^ (w - 1) ≤ p) then p + 2 ^ f.width - 2 ^ w else p

/-- The bytes from 32 on of a coded tile whose dense form is given: raw, or blocks with their widths. -/
def seamBody (f : Format) (block : Bool) (dense : List Byte) : List Byte :=
  if !block then dense else
  let bs := chunksOf 32 256 (tileCodes f dense)
  let ws := bs.map (seamWidth f)
  let pay := (bs.zip ws).flatMap fun x => seamPack x.2 x.1
  dense.take 128 ++ (chunksOf 2 128 ws).map (fun p => BitVec.ofNat 8 (at' p 0 0 + 16 * at' p 1 0)) ++ pay ++
    List.replicate (32 * ceilDiv ws.sum 8 - pay.length) 0

/-- The payload of a block body, block by block. -/
def seamBlocks (f : Format) : List Nat → List Byte → List Nat
  | [], _ => []
  | w :: l, bs => seamUnpack f w (bs.take (4 * w)) ++ seamBlocks f l (bs.drop (4 * w))

/-- The dense tile of a body, none where its widths are reserved or do not give its length. -/
def seamOpen (f : Format) (block : Bool) (body : List Byte) : Option (List Byte) :=
  if !block then some body else
  let ws := ((body.drop 128).take 128).flatMap fun b => [b.toNat % 16, b.toNat / 16]
  if ws.any (fun w => decide (f.width < w)) || body.length != 256 + 32 * ceilDiv ws.sum 8 then none
  else some (body.take 128 ++ codeBytes f (seamBlocks f ws (body.drop 256)))

/-! ### Coded tiles (R237) -/

/-- What a tile is coded as: its format, and the dense bytes of that format. A narrowed tile is BX4 (R31, R232). -/
def Obj.seamFormat (o : Obj) (t : Nat) : Format := if o.narrowed.contains t then .bx4 else o.entry.format

def Obj.seamDense (o : Obj) (t : Nat) : List Byte :=
  let d := o.dense
  let bs := Mem.bytes d.data (o.entry.tileBase t) o.entry.format.tileBytes
  if o.narrowed.contains t then bs.take 128 ++ codeBytes .bx4 ((tileCodes .bx8 bs).map fun p => p / 16) else bs

/-- Whether a tile is coded in blocks (R239 Table 5). -/
def Obj.seamBlock (o : Obj) : Bool := o.entry.format.isBlock && o.entry.compress

/-- Bytes 0 to 11 and 16 to 31 of the header of a tile whose body has so many bytes. -/
def seamHead (o : Obj) (t body : Nat) : List Byte :=
  leBytes 12 ((if o.seamBlock then 2 else 1) + field 8 (o.seamFormat t).code + field 11 (bit o.entry.zeroRun) +
    field 12 (bit (o.narrowed.contains t)) + field 16 (ceilDiv (32 + body) 32) + field 32 o.entry.object + field 64 t)
def seamTail (o : Obj) : List Byte := leBytes 16 o.coded

/-- A coded tile: header, CRC over all the rest, body. -/
def seamTile (o : Obj) (t : Nat) : List Byte :=
  let body := seamBody (o.seamFormat t) o.seamBlock (o.seamDense t)
  let head := seamHead o t body.length
  let rest := seamTail o ++ body
  head ++ leBytes 4 (crc32c (head ++ rest)).toNat ++ rest

/-- The coded length of a tile of an object in T2 or T3 (R238). -/
def seamLength (o : Obj) (t : Nat) : Nat := 32 + (seamBody (o.seamFormat t) o.seamBlock (o.seamDense t)).length

/-- The dense bytes in the object's own format that coded bytes give, none where a header field, the length or the CRC is not
what the device expects of the tile (R237, R240). -/
def seamDecode (o : Obj) (t : Nat) (bs : List Byte) : Option (List Byte) :=
  let body := bs.drop 32
  let head := seamHead o t (seamLength o t - 32)
  if bs.length != seamLength o t || bs.take 12 != head || (bs.drop 16).take 16 != seamTail o ||
      leValue ((bs.drop 12).take 4) != (crc32c (bs.take 12 ++ bs.drop 16)).toNat then none
  else (seamOpen (o.seamFormat t) o.seamBlock body).map fun d =>
    if o.narrowed.contains t then d.take 128 ++ codeBytes .bx8 ((tileCodes .bx4 d).map fun p => 16 * p) else d

/-- The worst-case Seam size of a tile (R239 Table 5). -/
def seamMax (e : ObjEntry) : Nat :=
  match e.format with
  | .bx8 => if e.compress then 8480 else 8352
  | .ux8 => if e.compress then 8480 else 8352
  | .bx4 => if e.compress then 4384 else 4256
  | .ux4 => if e.compress then 4384 else 4256
  | .f32 => 32800
  | .f16 => 16416
  | _ => 8224

end Sys2Proof.Machine
end

