-- ==== Sys2Proof/Machine/Cache.lean ====
section
/-!
DEFINITION. The shared cache's slices (R214) and their atomic operations (R215). The device's own agents alone issue atomics.
Choices of the model, by log entry: 80 DEDUCED.
-/

namespace Sys2Proof.Machine

/-- The slice of a die that caches the line at a device address (R214). -/
def sliceOf (a : Nat) : Nat := (a >>> 7) % 16

/-- The operations and types of Table 5. -/
inductive AtomicOp where
  | add | min | max | and | or | xor | swap
  | cas (compare : DWord)
  deriving DecidableEq, Repr
inductive AtomicType where
  | int32 | int64 | f32
  deriving DecidableEq, Repr

/-- Whether Table 5 gives an operation for a type. -/
def AtomicOp.has : AtomicOp → AtomicType → Bool
  | .add, _ | .min, _ | .max, _ => true
  | _, .f32 => false
  | _, _ => true

/-- Bytes of a type's word. -/
def AtomicType.bytes : AtomicType → Nat
  | .int64 => 8
  | _ => 4

/-- The new value of an integer word of w bits. -/
def atomicInt {w : Nat} (op : AtomicOp) (old x : BitVec w) : BitVec w :=
  match op with
  | .add => old + x
  | .min => if x.toInt < old.toInt then x else old
  | .max => if old.toInt < x.toInt then x else old
  | .and => old &&& x
  | .or => old ||| x
  | .xor => old ^^^ x
  | .swap => x
  | .cas c => if old = c.setWidth w then x else old

/-- The new value of a binary32 word (R125's ordering for MIN and MAX). -/
def atomicF32 (op : AtomicOp) (old x : Word) : Word :=
  match op with
  | .add => f32Add old x
  | .min => f32Min old x
  | .max => f32Max old x
  | _ => old

/-- The new value of a word given in its type's bytes. -/
def atomicWord (op : AtomicOp) (ty : AtomicType) (old x : List Byte) : List Byte :=
  match ty with
  | .int32 => leBytes 4 (atomicInt op (BitVec.ofNat 32 (leValue old)) (BitVec.ofNat 32 (leValue x))).toNat
  | .int64 => leBytes 8 (atomicInt op (BitVec.ofNat 64 (leValue old)) (BitVec.ofNat 64 (leValue x))).toNat
  | .f32 => leBytes 4 (atomicF32 op (BitVec.ofNat 32 (leValue old)) (BitVec.ofNat 32 (leValue x))).toNat

/-- An atomic on a naturally aligned word of a memory: the old value returned and the memory after it; none where the word is not
aligned or Table 5 does not give the operation for the type. -/
def Mem.atomic (m : Mem) (op : AtomicOp) (ty : AtomicType) (a : Nat) (x : List Byte) : Option (List Byte × Mem) :=
  if a % ty.bytes != 0 || !op.has ty then none else
  let old := Mem.bytes m a ty.bytes
  some (old, Mem.store m a (atomicWord op ty old x))

/-- An atomic on each of the words of two runs of bytes. -/
def atomicWords (op : AtomicOp) (ty : AtomicType) (a b : List Byte) : List Byte :=
  (List.zipWith (atomicWord op ty) (chunksOf ty.bytes (a.length / ty.bytes) a) (chunksOf ty.bytes (b.length / ty.bytes) b)).flatten

end Sys2Proof.Machine
end

