-- ==== Sys2Proof/Machine/Attention.lean ====
section
/-!
DEFINITION. Attention and the key-value page pool (R134 to R161): ATTN_SCORE, ATTN_APPLY, KV_APPEND, KV_SELECT,
pages, bookings and eviction.
Choices of the model, by log entry: 16 DESIGN CHOICE, 28 DEDUCED, 49 DESIGN CHOICE.
-/

namespace Sys2Proof.Machine

/-! ### Sequence tables (R148) -/

/-- A field of entry i of a sequence table. -/
def seqField (t : Obj) (i hi lo : Nat) : Nat := bits (Mem.le t.data (64 * i) 64) hi lo
def seqNumber (t : Obj) (i : Nat) : Nat := seqField t i 31 0
def seqReserve (t : Obj) (i : Nat) : Nat := seqField t i 63 32
def seqLength (t : Obj) (i : Nat) : Nat := seqField t i 95 64
def seqEvicted (t : Obj) (i : Nat) : Nat := seqField t i 127 96
def seqOpen (t : Obj) (i : Nat) : Bool := seqField t i 128 128 == 1
def seqBx4 (t : Obj) (i : Nat) : Bool := seqField t i 129 129 == 1
def seqEK (t : Obj) (i : Nat) : Int := (BitVec.ofNat 8 (seqField t i 143 136)).toInt
def seqEV (t : Obj) (i : Nat) : Int := (BitVec.ofNat 8 (seqField t i 151 144)).toInt
/-- An entry that holds a sequence; 0xFFFFFFFF marks an unused one. -/
def seqUsed (t : Obj) (i : Nat) : Bool := seqNumber t i != 0xFFFFFFFF
/-- The number of entries S. -/
def seqCount (e : ObjEntry) : Nat := e.dim 0 / 16

/-- Writes the RO fields of entry i: LENGTH, EVICTED, OPEN, WIDTH, E_K, E_V and LAST_STEP. -/
def seqWrite (t : Obj) (i length evicted : Nat) (opened bx4 : Bool) (eK eV : Int) (step : Nat) : Obj :=
  let bs := leBytes 4 length ++ leBytes 4 evicted ++ [BitVec.ofNat 8 (bit opened + 2 * bit bx4), BitVec.ofInt 8 eK,
    BitVec.ofInt 8 eV, 0, 0, 0, 0, 0] ++ leBytes 8 step ++ List.replicate 32 0
  { t with data := Mem.splice t.data (64 * i + 8) bs }

/-! ### Pages and bookings (R145 to R147) -/

def unitsPerPage (bx4 : Bool) : Nat := if bx4 then 1 else 2

/-- Units of the pool in force (R146). -/
def poolUnits (s : State) : Nat := bits (inForce s 2) 31 0

/-- Units that pages hold and that open sequences still book. -/
def unitsUsed (s : State) : Nat := (s.kv.pages.map fun p => unitsPerPage p.bx4).sum
def unitsBooked (s : State) : Nat := (s.kv.booked.map fun b =>
  match objAt s b.1 b.2.1 with
  | some t => b.2.2.2.1 * t.entry.dim 1 * unitsPerPage b.2.2.2.2
  | none => 0).sum
def unitsFree (s : State) : Nat := poolUnits s - unitsUsed s - unitsBooked s

/-- Units of the pool on a stack (R147). -/
def stackUnits (s : State) (k : Nat) : Nat := poolUnits s / 16 + (if k < poolUnits s % 16 then 1 else 0)
def stackFree (s : State) (k : Nat) : Nat := stackUnits s k - (s.kv.pages.map fun p => p.hbm.count k).sum

/-- The stack of a unit: the wanted one where it has a free unit, otherwise the lowest-numbered that has (R147). -/
def unitStack (s : State) (want : Nat) (taken : List Nat) : Nat :=
  let free (k : Nat) : Bool := decide (taken.count k < stackFree s k)
  if free want then want else ((List.range 16).find? free).getD want

/-- The stacks of a new page's units. -/
def pageStacks (s : State) (sequence group : Nat) (bx4 : Bool) : List Nat :=
  let a := unitStack s ((sequence + group) % 16) []
  if bx4 then [a] else [a, unitStack s a [a]]

/-- The lowest-numbered units of the named stacks that no page holds (R145). -/
def unitNumbers (s : State) (homes : List Nat) : List Nat :=
  let held : List (Nat × Nat) := (s.kv.pages.map fun p => p.hbm.zip p.units).flatten
  (homes.foldl (fun (acc : List (Nat × Nat)) k =>
    let u := ((List.range (stackUnits s k)).find? fun u => !(held ++ acc).contains (k, u)).getD 0
    acc ++ [(k, u)]) []).map fun x => x.2

/-- A page of a sequence's head group. -/
def pageAt (s : State) (ctx table sequence group index : Nat) : Option Page :=
  s.kv.pages.find? fun p => p.ctx == ctx && p.table == table && p.sequence == sequence && p.group == group && p.index == index

/-- The key or value part of a page as an object of two tiles: 128 features by 128 positions, or transposed. -/
def pageObj (bx4 : Bool) (m : Mem) : Obj :=
  { entry := ⟨0, if bx4 then .bx4 else .bx8, 2, .other, false, 0, false, false, false, false, false, 0, 0, [128, 128, 1, 1, 1]⟩,
    data := m }

/-! ### Sequences of an attention instance (R137, R138, R159) -/

/-- What an instance knows of one sequence: index, query tokens, first query tile, position of query 0, keys in its
range and, for a table, its sequence number and length. -/
structure SeqView where
  idx : Nat
  tq : Nat
  tile : Nat
  qBase : Int
  keys : Nat
  number : Nat
  length : Nat
  deriving DecidableEq, Repr

/-- Whether operand 1 of an attention descriptor is a sequence table (R136). -/
def isTable (o : Obj) : Bool := o.entry.format == .int32

/-- The sequences of an ATTN_SCORE or ATTN_APPLY instance. -/
def seqViews (r : Run) (d : Desc) (kv : Obj) (lens : Option (List Nat)) : List SeqView :=
  let per := match lens, r.adm.image.lentabs[d.lentab]? with
    | some _, some t => ceilDiv t.maxLen 128
    | _, _ => ceilDiv (d.param 1) 128
  let tq (i : Nat) : Nat := match lens with | some l => at' l i 0 | none => d.param 1
  if isTable kv then
    ((List.range (seqCount kv.entry)).filter (seqUsed kv)).map fun i =>
      let len := seqLength kv i
      ⟨i, tq i, per * i, (len : Int) - tq i, min len (d.param 2), seqNumber kv i, len⟩
  else
    (List.range (match lens with | some l => l.length | none => 1)).map fun i =>
      ⟨i, tq i, per * i, 0, (match lens with | some _ => tq i | none => d.param 2), 0, 0⟩

/-- Removes numbers that stand in a list already, keeping it rising: the union of two rising lists of positions. -/
def unionPositions (n : Nat) (p : Nat → Bool) : List Nat := (List.range n).filter p

/-- The attended positions of a sequence and head group in increasing order; a key's slot is its place (R140, R159). -/
def attendedPositions (s : State) (r : Run) (d : Desc) (i : InstId) (kv : Obj) (v : SeqView) (g : Nat) : List Nat :=
  if isTable kv then
    if d.uses 3 then
      match oprObj s r.adm.image d 3 with
      | none => []
      | some sel =>
        let gs := kv.entry.dim 1
        let p := sel.entry.dim 0 / (seqCount kv.entry * gs)
        let base := 2048 * baseOf d 3 i
        let chosen := (List.range p).filterMap fun j =>
          let x := sel.int (base + p * (v.idx * gs + g) + j)
          if x < 0 then none else some (x.toNat / 128)
        unionPositions v.length fun q => chosen.contains (q / 128) || decide (v.length ≤ q + d.param 4)
    else (List.range v.keys).map fun j => v.length - v.keys + j
  else List.range v.keys

/-- Whether the mask keeps a key position for a query position (R137). -/
def maskKeeps (mask w : Nat) (q : Int) (k : Nat) : Bool :=
  match mask with
  | 0 => true
  | 1 => decide ((k : Int) ≤ q)
  | _ => decide (q - w < k) && decide ((k : Int) ≤ q)

/-- Whether a position is still held (evicted positions are never kept). -/
def positionHeld (s : State) (ctx : Nat) (kv : Obj) (table : Nat) (v : SeqView) (g pos : Nat) : Bool :=
  !isTable kv || (pageAt s ctx table v.number g (pos / 128)).isSome

/-- Whether slot j of query token t is kept. -/
def slotKept (s : State) (ctx : Nat) (d : Desc) (kv : Obj) (v : SeqView) (g : Nat) (att : List Nat) (j t : Nat) : Bool :=
  match att[j]? with
  | none => false
  | some pos => decide (t < v.tq) && maskKeeps (d.param 3 % 4) (d.param 4) (v.qBase + t) pos &&
      positionHeld s ctx kv (d.opr 1).object v g pos

/-- The head group of a query head (R134). -/
def headGroup (h gs heads : Nat) : Nat := h * gs / heads

/-- The first tile of the keys or values of a plain object for a sequence: its sequences take the same number of
128-token tiles as its queries. -/
def plainToken (v : SeqView) (j : Nat) : Nat := 128 * v.tile + j

/-! ### ATTN_SCORE (R135, R139 to R142) -/

/-- The key column of a slot as an array operand. -/
def keyColumn (s : State) (r : Run) (d : Desc) (i : InstId) (kv : Obj) (eK : Int) (q : Format) (v : SeqView) (g pos : Nat) :
    List ArrayBlock :=
  if isTable kv then
    match pageAt s r.adm.ctx (d.opr 1).object v.number g (pos / 128) with
    | none => []
    | some p => arrayColumn (pageObj p.bx4 p.keys) q (seqEK kv v.idx) 0 128 (pos % 128)
  else arrayColumn kv q eK (baseOf d 1 i + 2 * g) 128 (plainToken v pos)

/-- Resets the rows that an ATTN_SCORE with ACCUMULATE clear is about to write (R142). -/
def Obj.resetRows (o : Obj) (h0 heads j1 tiles : Nat) : Obj :=
  let hit (t : Nat) : Bool :=
    let p := o.entry.tilePos t
    decide (h0 ≤ p.2.2) && decide (p.2.2 < h0 + heads) && decide (j1 ≤ p.2.1) && decide (p.2.1 < j1 + tiles)
  { o with rows := o.rows.filter fun r => !(decide (h0 ≤ r.head) && decide (r.head < h0 + heads) &&
             decide (128 * j1 ≤ r.query) && decide (r.query < 128 * (j1 + tiles))),
           kept := o.kept.filter fun x => !hit x.1, folded := o.folded.filter fun t => !hit t }

/-- Folds a written score tile into its rows, exactly once: a tile whose folded bit is set is not folded again (R142). -/
def Obj.foldTile (seed : Nat) (o : Obj) (eT : Int) (t : Nat) (kept : List Nat) : Obj :=
  let p := o.entry.tilePos t
  let fresh := kept.filter fun e => !(o.keptOf t).contains e
  let o := if o.folded.contains t then o else (List.range 128).foldl (fun o n =>
    let xs := (fresh.filter fun e => e / 64 == n).map fun e =>
      (readElem o.entry.format eT o.data (o.entry.tileBase t) (e % 64) n).1.dy
    if xs.isEmpty then o else o.foldRow seed p.2.2 (128 * p.2.1 + n) xs) o
  { o with kept := (t, o.keptOf t ++ fresh) :: o.kept.filter (fun x => x.1 != t),
           folded := if o.folded.contains t then o.folded else t :: o.folded }

/-! ### Dealing the units of an attention (R139, R141) -/

/-- Whether the mask leaves an element of keys k0 to k1 − 1 and queries q0 to q1 − 1 at the declared maxima. -/
def maskLeaves (mask w : Nat) (off k0 k1 q0 q1 : Nat) : Bool :=
  match mask with
  | 0 => true
  | 1 => decide (k0 ≤ q1 - 1 + off)
  | _ => decide (k0 ≤ q1 - 1 + off) && decide (q0 + off < k1 - 1 + w)

/-- The sequence table of an attention descriptor, none for a plain object (R136). -/
def attnTable (img : Image) (d : Desc) : Option ObjEntry :=
  (img.entry (d.opr 1).object).bind fun e => if e.format = .int32 then some e else none

/-- Whether every open sequence of a table holds BX4 pages; one that is still to open takes the width of the image's append. -/
def tableBx4 (s : State) (img : Image) (n : Nat) : Bool :=
  let appends := img.descs.any fun d => d.opcode == 5 && (d.opr 1).object == n && d.param 1 % 2 == 1
  match objAt s img.ctx n with
  | some t => (List.range (seqCount t.entry)).all fun e => !seqUsed t e || (if seqOpen t e then seqBx4 t e else appends)
  | none => appends

/-- Whether an ATTN_SCORE runs at the int4 rate: BX4 queries on BX4 keys (R95, R156). -/
def attnInt4 (s : State) (img : Image) (d : Desc) : Bool :=
  (match img.entry (d.opr 0).object with | some q => q.format == .bx4 | none => false) &&
  (match attnTable img d with
   | some _ => tableBx4 s img (d.opr 1).object
   | none => match img.entry (d.opr 1).object with | some k => k.format == .bx4 | none => false)

/-- The query tiles of one sequence, and of the instance, at the declared maxima (R63, R138). -/
def attnPerSequence (img : Image) (d : Desc) : Nat :=
  match img.lentabs[d.lentab]? with | some t => ceilDiv t.maxLen 128 | none => ceilDiv (d.param 1) 128
def attnQueryTiles (img : Image) (d : Desc) : Nat :=
  tileCount img d (d.param 1) *
    (match img.lentabs[d.lentab]?, attnTable img d with | none, some e => max 1 (seqCount e) | _, _ => 1)

/-- Whether the mask leaves anything of keys k0 to k1 − 1 for query tile j at the declared maxima (R139): the queries of a
table's sequence are its newest positions, those of a plain object begin with the keys (R137). -/
def attnLeaves (img : Image) (d : Desc) (k0 k1 j : Nat) : Bool :=
  let off := if (attnTable img d).isSome then d.param 2 - d.param 1 else 0
  let q := j % max 1 (attnPerSequence img d)
  maskLeaves (d.param 3) (d.param 4) off k0 k1 (128 * q) (min (128 * q + 128) (max (d.param 1) (128 * q + 1)))

/-- The units of one head of an ATTN_SCORE at panel height h: query tile and panel, those the mask leaves. -/
def scorePairs (img : Image) (d : Desc) (h : Nat) : List (Nat × Nat) :=
  ((List.range (attnQueryTiles img d)).map fun j => ((List.range (ceilDiv (d.param 2) h)).filter fun p =>
    attnLeaves img d (p * h) (min ((p + 1) * h) (d.param 2)) j).map fun p => (j, p)).flatten

/-- The cycles of an ATTN_SCORE at panel height h (R63 Table 7, R141). -/
def scoreCycles (s : State) (img : Image) (d : Desc) (ng h : Nat) : Nat :=
  let l := broadcastCycles (match img.entry (d.opr 0).object with | some q => q.format | none => .bx8)
  ceilDiv (d.param 0 * (scorePairs img d h).length) ng * 2 *
    (max (ceilDiv h (if attnInt4 s img d then 8 else 4)) l + 1) + 80

/-- The panel height of an ATTN_SCORE (R64, R141). -/
def scorePanel (s : State) (img : Image) (d : Desc) (ng : Nat) : Nat :=
  [2048, 1024, 512, 256].foldl (fun b h => if scoreCycles s img d ng h < scoreCycles s img d ng b then h else b) 4096

/-- The 64-key tiles that the mask leaves for query tile j (R139). -/
def applyTiles (img : Image) (d : Desc) (j : Nat) : List Nat :=
  (List.range (ceilDiv (d.param 2) 64)).filter fun p => attnLeaves img d (64 * p) (min (64 * p + 64) (d.param 2)) j

/-- The kept elements of one pair of a 64-key tile and a 128-query tile, as 64c + k (R139). -/
def keptSlots (s : State) (ctx : Nat) (d : Desc) (kv : Obj) (v : SeqView) (g : Nat) (att : List Nat) (jk jq : Nat) : List Nat :=
  ((List.range 128).map fun c => (List.range 64).filterMap fun k =>
    if slotKept s ctx d kv v g att (64 * jk + k) (128 * jq + c) then some (64 * c + k) else none).flatten

/-- The 64-key tiles of each head and query tile that are not suppressed, in the order of R141. -/
def liveTiles (s : State) (r : Run) (d : Desc) (i : InstId) (kv : Obj) (vs : List SeqView) (heads gs : Nat) : List (List Nat) :=
  ((List.range heads).map fun h => (vs.map fun v =>
    let g := headGroup h gs heads
    let att := attendedPositions s r d i kv v g
    (List.range (ceilDiv v.tq 128)).map fun jq => (List.range (ceilDiv att.length 64)).filter fun jk =>
      !(keptSlots s r.adm.ctx d kv v g att jk jq).isEmpty).flatten).flatten

/-- Deals the units of an attention with the tiles each makes its grove count (R106, R141). -/
def attnDeal (s : State) (i : InstId) (r : Run) (d : Desc) (live : List (List Nat)) : State :=
  let img := r.adm.image
  let gs := grovesFor r i d.groves
  if d.opcode = 3 then
    let h := scorePanel s img d gs.length
    let units := (live.map fun l => (l.map fun jk => 64 * jk / h).eraseDups.map fun _ => 8).flatten
    dealList s i gs (ceilDiv (d.param 0 * (scorePairs img d h).length) gs.length) units
  else
    dealList s i gs (ceilDiv (d.param 0 * attnQueryTiles img d) gs.length) (live.map fun l => 4 * l.length)

/-- Counts what the load path substitutes in the tokens of an operand of an attention: so many K-tiles or N-tiles of features
from a base, the tokens of each sequence along the other axis (R19). -/
def countTokens (s : State) (ctx : Nat) (o : Obj) (base features : Nat) (alongK : Bool) (tokens : List (Nat × Nat)) : State :=
  let e := o.entry
  countTiles s ctx o (scaleOf s ctx e) maxF32 (tokens.map fun t => if alongK
    then ((List.range (ceilDiv t.2 64)).map fun k => (List.range (ceilDiv features 128)).map fun n => base + t.1 / 64 + k + e.t0 * n).flatten
    else ((List.range (ceilDiv t.2 128)).map fun n => (List.range (ceilDiv features 64)).map fun k => base + k + e.t0 * (t.1 / 128 + n)).flatten).flatten

/-- KV_EVICTED_READ (R161): a sequence whose attended positions include evicted ones, with the 64-key tiles that hold
no held position. -/
def evictedRead (s : State) (r : Run) (d : Desc) (kv : Obj) (v : SeqView) (g : Nat) (att : List Nat) : State :=
  let gone (j : Nat) : Bool := match att[j]? with
    | some pos => !positionHeld s r.adm.ctx kv (d.opr 1).object v g pos | none => false
  let tiles := (List.range (ceilDiv att.length 64)).countP fun t =>
    (List.range 64).all fun j => gone (64 * t + j) || decide (att.length ≤ 64 * t + j)
  if tiles = 0 then s else tally s 0x0232 islandForeman 1 d.index v.number tiles 0

/-- The effect of ATTN_SCORE. -/
def scoreDo (i : InstId) (r : Run) (d : Desc) (s : State) : State :=
  let img := r.adm.image
  match oprObj s img d 0, oprObj s img d 1, oprObj s img d 2 with
  | some q, some kv, some o =>
    let heads := d.param 0
    let gs := if isTable kv then kv.entry.dim 1 else kv.entry.dim 0 / 128
    let eQ := scaleOf s img.ctx q.entry
    let eK := scaleOf s img.ctx kv.entry
    let eS := scaleOf s img.ctx o.entry
    let vs := seqViews r d kv (lensOf r i)
    let sb := o.entry.tilePos (baseOf d 2 i)
    let s := attnDeal s i r d (liveTiles s r d i kv vs heads gs)
    let s := countTokens s img.ctx q (baseOf d 0 i) (128 * heads) false (vs.map fun v => (128 * v.tile, v.tq))
    let s := if isTable kv then s else
      countTokens s img.ctx kv (baseOf d 1 i) (kv.entry.dim 0) false (vs.map fun v => (128 * v.tile, v.keys))
    let qTiles (v : SeqView) : Nat := ceilDiv v.tq 128
    let n := (d.opr 2).object
    let s := ensureObj s img n
    let s := if d.accumulate then s else
      vs.foldl (fun s v => setObj s img.ctx n fun o => o.resetRows sb.2.2 heads (sb.2.1 + v.tile) (max 1 (qTiles v))) s
    (List.range heads).foldl (fun s h => vs.foldl (fun s v =>
      let g := headGroup h gs heads
      let att := attendedPositions s r d i kv v g
      let s := evictedRead s r d kv v g att
      (List.range (qTiles v)).foldl (fun s jq => (List.range (ceilDiv att.length 64)).foldl (fun s jk =>
        let kept := keptSlots s img.ctx d kv v g att jk jq
        if kept.isEmpty then s else
        let t := o.entry.tileAt (sb.1 + jk) (sb.2.1 + v.tile + jq) (sb.2.2 + h)
        let val (k c : Nat) : FVal :=
          let old := if d.accumulate then o.value eS maxF32 t k c else Dy.zero
          if kept.contains (64 * c + k) then
            let kc := keyColumn s r d i kv eK q.stored v g (at' att (64 * jk + k) 0)
            let qc := arrayColumn q kv.stored eQ (baseOf d 0 i + 2 * h) 128 (128 * (v.tile + jq) + c)
            FVal.ofDy ((columnDot kc qc).add old)
          else FVal.ofDy old
        let seed := s.fresh
        let s := writeTile (if d.accumulate then countTiles s img.ctx o eS maxF32 [t] else s) img n t val true
        setObj s img.ctx n fun o => o.foldTile seed eS t kept) s) s) s) s
  | _, _, _ => s

/-- ATTN_SCORE (R135, R142). -/
def execAttnScore (i : InstId) (s : State) : Host.Outcome State Fault Refusal :=
  done (onInstance s i 0x03 (scoreDo i))

/-! ### ATTN_APPLY (R143, R144) -/

/-- The value of feature f at a position of a head group. -/
def valueElem (s : State) (r : Run) (d : Desc) (i : InstId) (kv : Obj) (eV : Int) (v : SeqView) (g pos f : Nat) : Dy :=
  if isTable kv then
    match pageAt s r.adm.ctx (d.opr 1).object v.number g (pos / 128) with
    | none => Dy.zero
    | some p => (pageObj p.bx4 p.vals).elem (seqEV kv v.idx) maxF32 (pos % 128) f 0
  else kv.at eV maxF32 (baseOf d 1 i) (plainToken v pos) (128 * g + f)

/-- The effect of ATTN_APPLY. -/
def applyDo (i : InstId) (r : Run) (d : Desc) (s : State) : State :=
  let img := r.adm.image
  match readerView s img (d.opr 0).object, oprObj s img d 1, oprObj s img d 2 with
  | some p, some kv, some o =>
    let heads := d.param 0
    let gs := if isTable kv then kv.entry.dim 1 else kv.entry.dim 1 / 128
    let eV := scaleOf s img.ctx kv.entry
    let eO := scaleOf s img.ctx o.entry
    let sb := p.1.entry.tilePos (baseOf d 0 i)
    let ob := o.entry.tilePos (baseOf d 2 i)
    let vs := seqViews r d kv (lensOf r i)
    let s := attnDeal s i r d (liveTiles s r d i kv vs heads gs)
    let s := if isTable kv then s else
      countTokens s img.ctx kv (baseOf d 1 i) (kv.entry.dim 1) true (vs.map fun v => (128 * v.tile, v.keys))
    (List.range heads).foldl (fun s h => vs.foldl (fun s v =>
      let g := headGroup h gs heads
      let att := attendedPositions s r d i kv v g
      let s := evictedRead s r d kv v g att
      (List.range (ceilDiv v.tq 128)).foldl (fun s jq => (List.range 2).foldl (fun s jd =>
        let t := o.entry.tileAt (ob.1 + 2 * h + jd) (ob.2.1 + v.tile + jq) ob.2.2
        let val (k c : Nat) : FVal :=
          let old := if d.accumulate then o.value eO maxF32 t k c else Dy.zero
          if 128 * jq + c < v.tq then
            FVal.ofDy ((Dy.sum ((List.range att.length).map fun j =>
              let x := p.1.value p.2 maxF32 (p.1.entry.tileAt (sb.1 + j / 64) (sb.2.1 + v.tile + jq) (sb.2.2 + h)) (j % 64) c
              if x.isZero then Dy.zero else x.mul (valueElem s r d i kv eV v g (at' att j 0) (64 * jd + k)))).add old)
          else FVal.ofDy old
        let pres := presenceOf [(p.1, (List.range (ceilDiv att.length 64)).map fun j =>
            p.1.entry.tileAt (sb.1 + j) (sb.2.1 + v.tile + jq) (sb.2.2 + h)), (kv, kv.present)]
        writeTile (if d.accumulate then countTiles s img.ctx o eO maxF32 [t] else s) img (d.opr 2).object t val
          (pres || (d.accumulate && o.present.contains t))) s) s) s) s
  | _, _, _ => s

/-- ATTN_APPLY (R144). -/
def execAttnApply (i : InstId) (s : State) : Host.Outcome State Fault Refusal :=
  done (onInstance s i 0x04 (applyDo i))

/-! ### KV_APPEND (R149 to R155) -/

/-- One sequence of an append: entry, tokens, whether it opens now, pages it opens per head group. -/
structure AppendSeq where
  entry : Nat
  tokens : Nat
  opens : Bool
  newPages : Nat
  deriving DecidableEq, Repr

/-- Pages per head group still booked for an open sequence. -/
def bookedFree (s : State) (ctx table entry : Nat) : Nat :=
  ((s.kv.booked.find? fun b => b.1 == ctx && b.2.1 == table && b.2.2.1 == entry).map fun b => b.2.2.2.1).getD 0

/-- Whether a sequence number is open in another entry or table, or named twice in this table (R148, R155). -/
def sequenceInUse (s : State) (ctx table entry : Nat) (t : Obj) : Bool :=
  let n := seqNumber t entry
  (s.kv.booked.any fun b => !(b.1 == ctx && b.2.1 == table && b.2.2.1 == entry) &&
    (match objAt s b.1 b.2.1 with | some u => seqNumber u b.2.2.1 == n | none => false)) ||
  ((List.range (seqCount t.entry)).any fun j => j != entry && seqNumber t j == n)

/-- The loop of take_pages (R153): the units needed, or the failure of the first entry that fails. -/
def appendNeed (s : State) (ctx table : Nat) (t : Obj) (bx4 : Bool) (tokens : Nat → Nat) :
    List Nat → Nat → List AppendSeq → Except Nat (Nat × List AppendSeq)
  | [], need, acc => .ok (need, acc.reverse)
  | e :: l, need, acc =>
    let isOpen := seqOpen t e
    if isOpen && seqBx4 t e != bx4 then .error St.pageWidthMismatch
    else if 16777216 < seqLength t e + tokens e then .error St.sequenceFull
    else if !isOpen && sequenceInUse s ctx table e t then .error St.sequenceInUse
    else
      let u := unitsPerPage bx4
      let g := t.entry.dim 1
      let free := if isOpen then bookedFree s ctx table e else seqReserve t e
      let slots := if isOpen then (128 - seqLength t e % 128) % 128 else 0
      let new := ceilDiv (tokens e - slots) 128
      appendNeed s ctx table t bx4 tokens l
        (need + (if isOpen then 0 else seqReserve t e * g * u) + g * (new - free) * u) (⟨e, tokens e, !isOpen, new⟩ :: acc)

/-- The sequence entry of a page in its table. -/
def pageEntry (s : State) (p : Page) : Option (Obj × Nat) :=
  match objAt s p.ctx p.table with
  | none => none
  | some t => ((List.range (seqCount t.entry)).find? fun i => seqNumber t i == p.sequence && seqOpen t i).map fun i => (t, i)

/-- Whether a page may be evicted for an append (R154). -/
def evictable (s : State) (r : Run) (i : InstId) (table : Nat) (seqs : List AppendSeq) (p : Page) : Bool :=
  match pageEntry s p with
  | none => false
  | some (t, e) =>
    let mine := p.ctx == r.adm.ctx && p.table == table
    let grp := s.kv.pages.filter fun q => q.ctx == p.ctx && q.table == p.table && q.sequence == p.sequence && q.group == p.group
    let opening := if mine then ((seqs.find? fun a => a.entry == e).map fun a => a.newPages).getD 0 else 0
    let tokens := if mine then ((seqs.find? fun a => a.entry == e).map fun a => a.tokens).getD 0 else 0
    let rank := (grp.countP fun q => decide (p.index < q.index)) + opening
    let pinned := grp.countP fun q => q.pinned
    let receives := decide (0 < tokens) && seqLength t e % 128 != 0 && p.index == seqLength t e / 128
    let named := p.ctx == r.adm.ctx && (r.adm.image.insts.any fun j =>
      j != i && !instDone r j && (match r.adm.image.descs[j.index]? with
        | some d => (objectsTouched r.adm.image d).contains p.table
        | none => false))
    !p.pinned && decide (seqReserve t e - pinned ≤ rank) && !receives && !named

/-- The eviction order (R154): step of opening, context, sequence, position, head group. -/
def pageBefore (a b : Page) : Bool :=
  if a.opened != b.opened then decide (a.opened < b.opened)
  else if a.ctx != b.ctx then decide (a.ctx < b.ctx)
  else if a.sequence != b.sequence then decide (a.sequence < b.sequence)
  else if a.index != b.index then decide (a.index < b.index)
  else decide (a.group < b.group)

def insertPage (x : Page) : List Page → List Page
  | [] => [x]
  | y :: l => if pageBefore x y then x :: y :: l else y :: insertPage x l

/-- The shortest prefix of a list whose units reach a number, if the list holds that many. -/
def evictPrefix : Nat → List Page → Option (List Page)
  | 0, _ => some []
  | _ + 1, [] => none
  | n + 1, p :: l => (evictPrefix (n + 1 - unitsPerPage p.bx4) l).map fun x => p :: x

/-- Evicts one page for an append (R154): its units return, and with SPILL_T3 it goes to host memory if any region is
registered. EVICTED rises when the append completes (R148). Which region and place the Foreman uses the manual leaves open. -/
def evictPage (s : State) (i : InstId) (step : Nat) (p : Page) : State :=
  let e := pageEntry s p
  let s := { s with kv := { s.kv with pages := s.kv.pages.filter fun q => q != p } }
  let s := match e with
    | some x => setRun s fun r => { r with evicted := (i, p.ctx, p.table, x.2) :: r.evicted }
    | none => s
  let s := tally s 0x0231 islandForeman 1 p.sequence (128 * p.index) p.group (lo32 step)
  if bits (inForce s 2) 32 32 = 1 then
    if s.mem.regions.isEmpty then tally s 0x0233 islandForeman 2 p.sequence (128 * p.index) p.group 0
    else
      let k := Config.free 3 s.fresh % s.mem.regions.length
      let reg := at' s.mem.regions k ⟨0, 0, 0⟩
      { s with kv := { s.kv with spills :=
          ⟨p.ctx, p.sequence, p.group, 128 * p.index, reg.number, Config.free 4 s.fresh % reg.bytes⟩ :: s.kv.spills },
               fresh := s.fresh + 1 }
  else s

/-- The exact covered value at row m and column n of the append's MATMUL, with its base moved to the append's. -/
def coveredAt (vals : List (Nat × Nat × Int × Int)) (m n : Nat) : Dy :=
  match vals.find? fun x => x.1 == m && x.2.1 == n with
  | some x => ⟨x.2.2.1, x.2.2.2⟩
  | none => Dy.zero

/-- One block of a summary key (R157): BX8 at E_K at the largest offset that holds every value, each value rounded away from
the keys it bounds, up in a maximum and down in a minimum, so that the summary score stays a bound. -/
def summaryBlock (up : Bool) (eK : Int) (vs : List Dy) : SummaryBlock :=
  let code (o : Nat) (v : Dy) : Int :=
    if up then v.ceilAt (Format.stepExp .bx8 eK o) else v.floorAt (Format.stepExp .bx8 eK o)
  let o := ((List.range 16).reverse.find? fun o => vs.all fun v => decide ((code o v).natAbs ≤ 127)).getD 0
  (o, vs.map (code o))

/-- Element d of a summary key as a number. -/
def summaryAt (eK : Int) (l : List SummaryBlock) (d : Nat) : Dy :=
  let b := at' l (d / 32) (0, [])
  ⟨at' b.2 (d % 32) 0, Format.stepExp .bx8 eK b.1⟩

/-- Writes the tokens of one append that fall into one page: keys by feature, values transposed, each block converted
with what it already holds; the summary takes in the new keys (R151, R157). -/
def fillPage (p : Page) (eK eV : Int) (first last : Nat) (key val : Nat → Nat → Dy) : Page × Stats :=
  let f : Format := if p.bx4 then .bx4 else .bx8
  let ko := pageObj p.bx4 p.keys
  let vo := pageObj p.bx4 p.vals
  let new (pos : Nat) : Bool := decide (first ≤ pos) && decide (pos < last)
  let kt (j : Nat) := encodeTile f eK (fun k n =>
    FVal.ofDy (if new (128 * p.index + n) then key (64 * j + k) (128 * p.index + n) else ko.value eK maxF32 j k n)) fun _ _ => true
  let vt (j : Nat) := encodeTile f eV (fun k n =>
    let pos := 128 * p.index + 64 * j + k
    FVal.ofDy (if new pos then val n pos else vo.value eV maxF32 j k n)) fun _ _ => true
  let k0 := kt 0
  let k1 := kt 1
  let v0 := vt 0
  let v1 := vt 1
  let keys := Mem.splice (Mem.splice p.keys 0 k0.1) f.tileBytes k1.1
  let ks := pageObj p.bx4 keys
  let col (d : Nat) : List Dy := ((List.range 128).filter fun n =>
    decide (128 * p.index + n < last)).map fun n => ks.elem eK maxF32 d n 0
  let best (g : Dy → Dy → Dy) : List Dy := (List.range 128).map fun d => (col d).foldl g ((col d).headD Dy.zero)
  ({ p with keys, vals := Mem.splice (Mem.splice p.vals 0 v0.1) f.tileBytes v1.1,
            kMax := (chunksOf 32 4 (best Dy.max)).map (summaryBlock true eK),
            kMin := (chunksOf 32 4 (best fun a b => if b.lt a then b else a)).map (summaryBlock false eK) },
   (k0.2.merge k1.2).merge (v0.2.merge v1.2))

/-- Opens the pages of one sequence and head group and stores its tokens. -/
def storeGroup (s : State) (r : Run) (d : Desc) (t : Obj) (bx4 : Bool) (eK eV : Int) (a : AppendSeq) (g : Nat)
    (key val : Nat → Nat → Dy) : State :=
  let n := seqNumber t a.entry
  let first := if a.opens then 0 else seqLength t a.entry
  let last := first + a.tokens
  (List.range (ceilDiv last 128 - first / 128)).foldl (fun s j =>
    let idx := first / 128 + j
    let held := pageAt s r.adm.ctx (d.opr 1).object n g idx
    let p : Page := held.getD ⟨r.adm.ctx, (d.opr 1).object, n, g, idx, bx4, pageStacks s n g bx4,
      unitNumbers s (pageStacks s n g bx4), decide (d.param 1 / 2 % 2 = 1), r.adm.step, [], [], [], []⟩
    let q := fillPage p eK eV first last key val
    let s := match oprObj s r.adm.image d 0 with
      | some o => recordStats s r.adm.ctx o.entry q.2
      | none => s
    { s with kv := { s.kv with pages := q.1 :: s.kv.pages.filter fun x => x != p } }) s

/-- A failed append (R155): the record and the step's append-failure flag; nothing else changes. -/
def appendFailed (s : State) (d : Desc) (status need avail : Nat) : State :=
  setRun (tally s 0x0230 islandForeman 2 status d.index need avail) fun r => { r with appendFail := r.tag :: r.appendFail }

/-- The effect of KV_APPEND. The table's RO fields follow at the instance's completion (R148). -/
def appendDo (i : InstId) (r : Run) (d : Desc) (s : State) : State :=
  let img := r.adm.image
  let lens := lensOf r i
  let tab := (d.opr 1).object
  match oprObj s img d 0, oprObj s img d 1 with
  | some o, some t =>
    let bx4 := decide (d.param 1 % 2 = 1)
    let tokens (e : Nat) : Nat := match lens with | some l => at' l e 0 | none => d.param 0
    let per := match lens, img.lentabs[d.lentab]? with
      | some _, some x => ceilDiv x.maxLen 128 | _, _ => ceilDiv (d.param 0) 128
    match appendNeed s img.ctx tab t bx4 tokens ((List.range (seqCount t.entry)).filter (seqUsed t)) 0 [] with
    | .error e => appendFailed s d e 0 (unitsFree s)
    | .ok (need, seqs) =>
      let cands := (s.kv.pages.filter (evictable s r i tab seqs)).foldr insertPage []
      match evictPrefix (need - unitsFree s) cands with
      | none => appendFailed s d St.pageExhausted need
          (unitsFree s + (cands.map fun p => unitsPerPage p.bx4).sum)
      | some out =>
        let s := out.foldl (fun s p => evictPage s i r.adm.step p) s
        let eT := scaleOf s img.ctx o.entry
        let gs := t.entry.dim 1
        let src := (img.descs[(d.deps.headD 0)]?).map fun x =>
          let ob := o.entry.tilePos (baseOf d 0 i)
          let cb := o.entry.tilePos (baseOf x 2 i)
          (64 * (ob.1 - cb.1), 128 * (ob.2.1 - cb.2.1))
        let vals := ((r.covered.find? fun c => c.1.index == d.deps.headD 0 &&
          (depInsts img i d (d.deps.headD 0)).contains c.1).map fun c => c.2).getD []
        let off := src.getD (0, 0)
        let s := seqs.foldl (fun s a =>
          let eK := if a.opens then eT else seqEK t a.entry
          let eV := if a.opens then eT else seqEV t a.entry
          let first := if a.opens then 0 else seqLength t a.entry
          let at_ (row pos : Nat) : Dy := coveredAt vals (off.1 + row) (off.2 + 128 * per * a.entry + (pos - first))
          let booked := if a.opens then seqReserve t a.entry else bookedFree s img.ctx tab a.entry
          let rest := s.kv.booked.filter fun b => !(b.1 == img.ctx && b.2.1 == tab && b.2.2.1 == a.entry)
          let s := { s with kv := { s.kv with booked := (img.ctx, tab, a.entry, booked - a.newPages, bx4) :: rest } }
          (List.range gs).foldl (fun s g => storeGroup s r d t bx4 eK eV a g
            (fun f pos => at_ (128 * g + f) pos) (fun f pos => at_ (128 * gs + 128 * g + f) pos)) s) s
        setRun s fun r => { r with appended := (i, (List.range (seqCount t.entry)).map tokens) :: r.appended }
  | _, _ => s

/-- KV_APPEND (R151): appends of a step take their pages in the order of R58 (R153). -/
def execKvAppend (i : InstId) (s : State) : Host.Outcome State Fault Refusal :=
  done (match s.sched.run with
    | none => s
    | some r =>
      let img := r.adm.image
      let waits := img.insts.any fun j =>
        (match img.descs[j.index]? with | some d => d.opcode == 5 | none => false) &&
        precedes img j i && !r.executed.contains j && !instDone r j && !hasPath img i j
      if waits then s else onInstance s i 0x05 (appendDo i))

/-- The RO fields of a table when its KV_APPEND completes (R148, R149), with the pages it evicted. -/
def appendComplete (s : State) (r : Run) (i : InstId) (d : Desc) : State :=
  let s := (r.evicted.filter fun x => x.1 == i).foldl (fun s x => setObj s x.2.1 x.2.2.1 fun o =>
    let e := x.2.2.2
    seqWrite o e (seqLength o e) (seqEvicted o e + 1) (seqOpen o e) (seqBx4 o e) (seqEK o e) (seqEV o e)
      (seqField o e 255 192)) s
  match r.appended.find? fun x => x.1 == i, oprObj s r.adm.image d 1, oprObj s r.adm.image d 0 with
  | some l, some t, some o =>
    let eT := scaleOf s r.adm.ctx o.entry
    let bx4 := decide (d.param 1 % 2 = 1)
    ((List.range (seqCount t.entry)).filter (seqUsed t)).foldl (fun s e =>
      setObj s r.adm.ctx (d.opr 1).object fun t =>
        if seqOpen t e then
          seqWrite t e (seqLength t e + at' l.2 e 0) (seqEvicted t e) true (seqBx4 t e) (seqEK t e) (seqEV t e) r.adm.step
        else seqWrite t e (at' l.2 e 0) 0 true bx4 eT eT r.adm.step) s
  | _, _, _ => s

/-! ### KV_SELECT (R157, R158) -/

/-- The summary score of a page for a query token of a head (R157). -/
def summaryScore (q : Obj) (eQ : Int) (base h : Nat) (eK : Int) (p : Page) (n : Nat) : Dy :=
  Dy.sum ((List.range 128).map fun f =>
    let x := q.at eQ maxF32 (base + 2 * h) f n
    (x.mul (summaryAt eK p.kMax f)).max (x.mul (summaryAt eK p.kMin f)))

/-- Inserts a scored page index: higher score first, on an equal score the higher position. -/
def insertScored (x : Dy × Nat) : List (Dy × Nat) → List (Dy × Nat)
  | [] => [x]
  | y :: l => if y.1.lt x.1 || (!x.1.lt y.1 && decide (y.2 < x.2)) then x :: y :: l else y :: insertScored x l

/-- The effect of KV_SELECT. -/
def selectDo (i : InstId) (r : Run) (d : Desc) (s : State) : State :=
  let img := r.adm.image
  let lens := lensOf r i
  match oprObj s img d 0, oprObj s img d 1 with
  | some q, some t =>
    let gs := t.entry.dim 1
    let heads := q.entry.dim 0 / 128
    let eQ := scaleOf s img.ctx q.entry
    let share := q.entry.dim 1 / seqCount t.entry
    let per := match lens, img.lentabs[d.lentab]? with
      | some _, some x => ceilDiv x.maxLen 128 | _, _ => ceilDiv share 128
    let p := d.param 0
    let s := countTokens s img.ctx q (baseOf d 0 i) (128 * heads) false
      (((List.range (seqCount t.entry)).filter (seqUsed t)).map fun e =>
        (128 * per * e, match lens with | some l => at' l e 0 | none => share))
    ((List.range (seqCount t.entry)).filter (seqUsed t)).foldl (fun s e =>
      let tq := match lens with | some l => at' l e 0 | none => share
      (List.range gs).foldl (fun s g =>
        let total := ceilDiv (seqLength t e) 128
        let held := s.kv.pages.filter fun x => x.ctx == img.ctx && x.table == (d.opr 1).object &&
          x.sequence == seqNumber t e && x.group == g && decide (x.index + d.param 1 < total)
        let hs := (List.range heads).filter fun h => headGroup h gs heads == g
        let scored := held.map fun x =>
          let all := (hs.map fun h => (List.range tq).map fun n =>
            summaryScore q eQ (baseOf d 0 i) h (seqEK t e) x (128 * per * e + n)).flatten
          (all.foldl Dy.max (all.headD Dy.zero), x.index)
        let chosen := sortBy id (((scored.foldr insertScored []).take p).map fun x => x.2)
        let vals := (List.range p).map fun j => match chosen[j]? with | some x => 128 * x | none => 0xFFFFFFFF
        writeIntBytes s img (d.opr 2).object (8192 * baseOf d 2 i + 4 * p * (e * gs + g)) ((vals.map (leBytes 4)).flatten) {}) s) s
  | _, _ => s

/-- KV_SELECT (R158). -/
def execKvSelect (i : InstId) (s : State) : Host.Outcome State Fault Refusal :=
  done (onInstance s i 0x06 (selectDo i))

/-! ### Checks of the descriptors (R134, R136, R137, R140, R148, R151, R159, R175) -/

/-- Whether an object-table entry can serve as a sequence table (R148). -/
def tableBad (e : ObjEntry) : Bool :=
  e.format != .int32 || e.role != .other || e.dim 0 % 16 != 0 || e.dim 0 == 0 || decide (16 * 65536 < e.dim 0) ||
  decide (256 < e.dim 1) || e.dim 2 != 1 || e.dim 3 != 1 || e.dim 4 != 1

/-- Heads and groups (R134). -/
def headsBad (h g : Nat) : Bool :=
  h == 0 || decide (256 < h) || g == 0 || h % g != 0 || decide (16 < h / g)

def bx (f : Format) : Bool := f == .bx8 || f == .bx4

def attnBad (img : Image) (d : Desc) : Bool :=
  let e (n : Nat) : Option ObjEntry := img.entry (d.opr n).object
  let score := d.opcode == 3
  let mask := d.param 3
  decide (3 ≤ mask) || d.param 1 == 0 || d.param 2 == 0 || (mask == 2 && (d.param 4 == 0 || decide (2 ^ 24 < d.param 4))) || (mask == 2 && d.uses 3) ||
  (match e 0, e 1, e 2 with
   | some q, some kv, some o =>
     let table := kv.format == .int32
     let g := if table || !score then (if table then kv.dim 1 else kv.dim 1 / 128) else kv.dim 0 / 128
     headsBad (d.param 0) g ||
     (if score then !bx q.format || q.dim 0 != 128 * d.param 0 || (!table && !bx kv.format) ||
        o.format != .bx8 || o.role != .activation || o.zeroRun || o.compress || o.narrow || o.recompute || o.tier != 0 ||
        o.dim 2 != d.param 0
      else (d.accumulate && o.zeroRun) || !o.format.isTiled || (!table && !kv.format.isBlock) ||
        !isScore img (d.opr 0).object) ||
     (if table then tableBad kv else
        if score then kv.dim 0 % 128 != 0 else kv.dim 1 % 128 != 0) ||
     (d.uses 3 && (!table || (match e 3 with
        | some sel => sel.format != .int32 || decide (d.param 2 < 128 * (sel.dim 0 / (seqCount kv * kv.dim 1)) + d.param 4 + 127)
        | none => true)))
   | _, _, _ => true)

def appendBad (img : Image) (d : Desc) : Bool :=
  decide (4 ≤ d.param 1) || d.param 0 == 0 ||
  (match img.entry (d.opr 0).object, img.entry (d.opr 1).object, img.descs[d.deps.headD noObject]? with
   | some o, some t, some x =>
     tableBad t || x.opcode != 1 || x.param 3 % 2 != 0 || (x.opr 2).object != (d.opr 0).object || !o.format.isTiled ||
     (img.descs.any fun y => y.index != d.index &&
       (y.oprs.zipIdx.any fun p => p.1.object == (d.opr 0).object && !(y.index == x.index && p.2 == 2) &&
         (let c := o.tilePos (d.opr 0).base
          let b := o.tilePos p.1.base
          decide (c.1 ≤ b.1) && decide (b.1 < c.1 + 4 * t.dim 1))))
   | _, _, _ => true)

def selectBad (img : Image) (d : Desc) : Bool :=
  d.param 0 == 0 || decide (4096 < d.param 0) ||
  (match img.entry (d.opr 0).object, img.entry (d.opr 1).object, img.entry (d.opr 2).object with
   | some q, some t, some o =>
     !bx q.format || q.dim 0 % 128 != 0 || tableBad t || headsBad (q.dim 0 / 128) (t.dim 1) || o.format != .int32 ||
     o.dim 0 != d.param 0 * seqCount t * t.dim 1
   | _, _, _ => true)

end Sys2Proof.Machine
end

