-- ==== Sys2Proof/Machine/Vector.lean ====
section
/-!
DEFINITION. The vector engine's instructions (R113 to R133). Each row acts on the engine of one grove: it reads the
registers, writes its destination under R123 and moves to the next word.
Choices of the model, by log entry: 22 DEDUCED, 71 DESIGN CHOICE.
-/

namespace Sys2Proof.Machine

/-! ### The engine of a grove -/

/-- Lanes that are all zero. -/
def zeroLanes : List Word := List.replicate 256 0

/-- The vector engine of grove g; one that no run has begun on holds the values of R114. -/
def vecAt (s : State) (g : Nat) : VecEngine := ((s.vec.find? fun x => x.1 == g).map fun x => x.2).getD {}

/-- Replaces the vector engine of grove g. -/
def setVec (s : State) (g : Nat) (e : VecEngine) : State :=
  { s with vec := (g, e) :: s.vec.filter fun x => x.1 != g }

/-- Runs an operation on the engine and moves to the next word (R115: in order). -/
def vecDo (s : State) (g : Nat) (f : VecEngine → VecEngine) : State :=
  let e := f (vecAt s g)
  setVec s g { e with pc := e.pc + 1 }

def VecEngine.vreg (e : VecEngine) (i : BitVec 5) : List Word := at' e.v i.toNat zeroLanes
def VecEngine.sreg (e : VecEngine) (i : Nat) : Word := at' e.s i 0
def VecEngine.preg (e : VecEngine) (i : Nat) : BitVec 256 := if i = 0 then BitVec.allOnes 256 else at' e.p i 0
def VecEngine.setV (e : VecEngine) (i : Nat) (l : List Word) : VecEngine := { e with v := e.v.set i l }
def VecEngine.setS (e : VecEngine) (i : Nat) (w : Word) : VecEngine := { e with s := e.s.set i w }
/-- p0 cannot be written (R113). -/
def VecEngine.setP (e : VecEngine) (i : Nat) (p : BitVec 256) : VecEngine :=
  if i = 0 then e else { e with p := e.p.set i p }

/-- Destination lanes under R123: active lanes take the result, inactive lanes keep their value or become zero. -/
def mergeLanes : Nat → Bool → List Word → List Word → List Word
  | p, zm, o :: os, n :: ns =>
    (if p % 2 = 1 then n else if zm then 0 else o) :: mergeLanes (p / 2) zm os ns
  | _, _, _, _ => []

/-- The active lanes of an instruction. -/
def VecEngine.active (e : VecEngine) (f : VFields) : Nat := (e.preg f.pred.toNat).toNat

/-- Writes vector register i under R123. -/
def VecEngine.putLanes (e : VecEngine) (f : VFields) (i : Nat) (r : List Word) : VecEngine :=
  e.setV i (mergeLanes (e.active f) f.zm (at' e.v i zeroLanes) r)

/-- Writes vD under R123. -/
def VecEngine.put (e : VecEngine) (f : VFields) (r : List Word) : VecEngine := e.putLanes f f.d.toNat r

/-- A list of lanes with the inactive ones replaced. -/
def fillInactive (w : Word) : Nat → List Word → List Word
  | _, [] => []
  | p, a :: l => (if p % 2 = 1 then a else w) :: fillInactive w (p / 2) l

/-- One source, lane by lane. -/
def lanes1 (s : State) (g : Nat) (f : VFields) (op : Word → Word) : State :=
  vecDo s g fun e => e.put f ((e.vreg f.a).map op)
/-- Two sources, lane by lane. -/
def lanes2 (s : State) (g : Nat) (f : VFields) (op : Word → Word → Word) : State :=
  vecDo s g fun e => e.put f (List.zipWith op (e.vreg f.a) (e.vreg f.b))
/-- Scalar sources sA and sB. -/
def scalars2 (s : State) (g : Nat) (f : VFields) (op : Word → Word → Word) : State :=
  vecDo s g fun e => e.setS f.d.toNat (op (e.sreg f.a.toNat) (e.sreg f.b.toNat))
/-- Scalar source sA. -/
def scalars1 (s : State) (g : Nat) (f : VFields) (op : Word → Word) : State :=
  vecDo s g fun e => e.setS f.d.toNat (op (e.sreg f.a.toNat))

/-- The 256 bits of a list of truth values, lane 0 first. -/
def predOf : List Bool → Nat
  | [] => 0
  | b :: l => bit b + 2 * predOf l

/-- A compare (R125): active lanes take the result, inactive lanes are cleared. -/
def compareLanes (s : State) (g : Nat) (f : VFields) (op : Word → Word → Bool) : State :=
  vecDo s g fun e => e.setP f.d.toNat
    (BitVec.ofNat 256 (predOf (List.zipWith op (e.vreg f.a) (e.vreg f.b))) &&& e.preg f.pred.toNat)

/-- The compare condition in IMM[2:0]. -/
def condOf (f : VFields) : Nat := f.imm.toNat % 8

/-! ### Program, loop and scalar instructions (R124 Table 4, R133) -/

/-- The windows that a header word declares (R117 Table 3): tiles and whether written, for m0 to m3. -/
def headerWindow (w : Nat) (i : Nat) : Nat × Bool := (bits w (38 + 8 * i) (32 + 8 * i), decide (bits w (39 + 8 * i) (39 + 8 * i) = 1))

/-- HDR (R117): declares the runs and windows; the windows staged by the run keep their contents. -/
def execHdr (g : Fin 128) (w : DWord) (s : State) : Host.Outcome State Fault Refusal :=
  done (vecDo s g fun e => { e with windows := e.windows.zipIdx.map fun x =>
    let d := headerWindow w.toNat x.2
    if d.1 = 0 then none else x.1.map fun win => { win with tiles := d.1, written := d.2 } })

/-- LOOP (R133): the count from IMM[23:0] or from PARAM1 to PARAM4, the index 0 in sD. -/
def execVloop (g : Fin 128) (f : VFields) (s : State) : Host.Outcome State Fault Refusal :=
  done (vecDo s g fun e =>
    let count := if f.imm.getLsbD 24 then (at' e.params f.a.toNat 0).toNat else f.imm.toNat % 2 ^ 24
    { e.setS f.d.toNat 0 with loops := ⟨f.d.toNat, count, 0, e.pc + 1⟩ :: e.loops })

/-- ENDLOOP (R133): the next iteration with its index in sD, or the end of the innermost loop. -/
def execVendloop (g : Fin 128) (_f : VFields) (s : State) : Host.Outcome State Fault Refusal :=
  let e := vecAt s g
  done (match e.loops with
    | [] => setVec s g { e with pc := e.pc + 1 }
    | l :: ls =>
      if l.index + 1 < l.count then
        setVec s g { e.setS l.reg (BitVec.ofNat 32 (l.index + 1)) with
          loops := { l with index := l.index + 1 } :: ls, pc := l.start }
      else setVec s g { e with loops := ls, pc := e.pc + 1 })

/-- NOP. -/
def execVnop (g : Fin 128) (_f : VFields) (s : State) : Host.Outcome State Fault Refusal := done (vecDo s g id)

/-! ### Integer instructions (R124 Table 4) -/

def execIadd (g : Fin 128) (f : VFields) (s : State) : Host.Outcome State Fault Refusal :=
  done (lanes2 s g f fun a b => a + b)
def execIsub (g : Fin 128) (f : VFields) (s : State) : Host.Outcome State Fault Refusal :=
  done (lanes2 s g f fun a b => a - b)
def execImul (g : Fin 128) (f : VFields) (s : State) : Host.Outcome State Fault Refusal :=
  done (lanes2 s g f fun a b => a * b)
def wordMin (a b : Word) : Word := if b.toInt < a.toInt then b else a
def wordMax (a b : Word) : Word := if a.toInt < b.toInt then b else a
def execImin (g : Fin 128) (f : VFields) (s : State) : Host.Outcome State Fault Refusal :=
  done (lanes2 s g f wordMin)
def execImax (g : Fin 128) (f : VFields) (s : State) : Host.Outcome State Fault Refusal :=
  done (lanes2 s g f wordMax)
def execVand (g : Fin 128) (f : VFields) (s : State) : Host.Outcome State Fault Refusal :=
  done (lanes2 s g f fun a b => a &&& b)
def execVor (g : Fin 128) (f : VFields) (s : State) : Host.Outcome State Fault Refusal :=
  done (lanes2 s g f fun a b => a ||| b)
def execVxor (g : Fin 128) (f : VFields) (s : State) : Host.Outcome State Fault Refusal :=
  done (lanes2 s g f fun a b => a ^^^ b)
/-- Shift counts are taken modulo 32 (R124). -/
def execShl (g : Fin 128) (f : VFields) (s : State) : Host.Outcome State Fault Refusal :=
  done (lanes2 s g f fun a b => a <<< (b.toNat % 32))
def execShr (g : Fin 128) (f : VFields) (s : State) : Host.Outcome State Fault Refusal :=
  done (lanes2 s g f fun a b => a >>> (b.toNat % 32))
def execSra (g : Fin 128) (f : VFields) (s : State) : Host.Outcome State Fault Refusal :=
  done (lanes2 s g f fun a b => a.sshiftRight (b.toNat % 32))
def execIaddi (g : Fin 128) (f : VFields) (s : State) : Host.Outcome State Fault Refusal :=
  done (lanes1 s g f fun a => a + f.imm)
def execMovi (g : Fin 128) (f : VFields) (s : State) : Host.Outcome State Fault Refusal :=
  done (vecDo s g fun e => e.put f (List.replicate 256 f.imm))
def execMovs (g : Fin 128) (f : VFields) (s : State) : Host.Outcome State Fault Refusal :=
  done (vecDo s g fun e => e.put f (List.replicate 256 (e.sreg f.a.toNat)))
def execLaneid (g : Fin 128) (f : VFields) (s : State) : Host.Outcome State Fault Refusal :=
  done (vecDo s g fun e => e.put f ((List.range 256).map (BitVec.ofNat 32)))
def execVmov (g : Fin 128) (f : VFields) (s : State) : Host.Outcome State Fault Refusal :=
  done (lanes1 s g f id)
def execSmovi (g : Fin 128) (f : VFields) (s : State) : Host.Outcome State Fault Refusal :=
  done (vecDo s g fun e => e.setS f.d.toNat f.imm)
def execSadd (g : Fin 128) (f : VFields) (s : State) : Host.Outcome State Fault Refusal :=
  done (scalars2 s g f fun a b => a + b)
def execSaddi (g : Fin 128) (f : VFields) (s : State) : Host.Outcome State Fault Refusal :=
  done (scalars1 s g f fun a => a + f.imm)
def execSsub (g : Fin 128) (f : VFields) (s : State) : Host.Outcome State Fault Refusal :=
  done (scalars2 s g f fun a b => a - b)
def execSmul (g : Fin 128) (f : VFields) (s : State) : Host.Outcome State Fault Refusal :=
  done (scalars2 s g f fun a b => a * b)
def execSshli (g : Fin 128) (f : VFields) (s : State) : Host.Outcome State Fault Refusal :=
  done (scalars1 s g f fun a => a <<< (f.imm.toNat % 32))
def execSshri (g : Fin 128) (f : VFields) (s : State) : Host.Outcome State Fault Refusal :=
  done (scalars1 s g f fun a => a >>> (f.imm.toNat % 32))
def execSand (g : Fin 128) (f : VFields) (s : State) : Host.Outcome State Fault Refusal :=
  done (scalars2 s g f fun a b => a &&& b)
def execSor (g : Fin 128) (f : VFields) (s : State) : Host.Outcome State Fault Refusal :=
  done (scalars2 s g f fun a b => a ||| b)

/-! ### F32, compare and predicate instructions (R125 Table 5) -/

def execFadd (g : Fin 128) (f : VFields) (s : State) : Host.Outcome State Fault Refusal := done (lanes2 s g f f32Add)
def execFsub (g : Fin 128) (f : VFields) (s : State) : Host.Outcome State Fault Refusal := done (lanes2 s g f f32Sub)
def execFmul (g : Fin 128) (f : VFields) (s : State) : Host.Outcome State Fault Refusal := done (lanes2 s g f f32Mul)
def execFma (g : Fin 128) (f : VFields) (s : State) : Host.Outcome State Fault Refusal :=
  done (vecDo s g fun e => e.put f
    (List.zipWith (fun (x : Word × Word) c => f32Fma x.1 x.2 c) ((e.vreg f.a).zip (e.vreg f.b)) (e.vreg f.c)))
def execFmin (g : Fin 128) (f : VFields) (s : State) : Host.Outcome State Fault Refusal := done (lanes2 s g f f32Min)
def execFmax (g : Fin 128) (f : VFields) (s : State) : Host.Outcome State Fault Refusal := done (lanes2 s g f f32Max)
def execFabs (g : Fin 128) (f : VFields) (s : State) : Host.Outcome State Fault Refusal := done (lanes1 s g f f32Abs)
def execFneg (g : Fin 128) (f : VFields) (s : State) : Host.Outcome State Fault Refusal := done (lanes1 s g f f32Negate)
def execFsqrt (g : Fin 128) (f : VFields) (s : State) : Host.Outcome State Fault Refusal := done (lanes1 s g f f32Sqrt)
def execFrcp (g : Fin 128) (f : VFields) (s : State) : Host.Outcome State Fault Refusal := done (lanes1 s g f f32Rcp)
def execFrsqrt (g : Fin 128) (f : VFields) (s : State) : Host.Outcome State Fault Refusal := done (lanes1 s g f f32Rsqrt)
def execFmuli (g : Fin 128) (f : VFields) (s : State) : Host.Outcome State Fault Refusal :=
  done (lanes1 s g f fun a => f32Mul a f.imm)
def execFexp (g : Fin 128) (f : VFields) (s : State) : Host.Outcome State Fault Refusal := done (lanes1 s g f f32Exp)
def execFexp2 (g : Fin 128) (f : VFields) (s : State) : Host.Outcome State Fault Refusal := done (lanes1 s g f f32Exp2)
def execFlog (g : Fin 128) (f : VFields) (s : State) : Host.Outcome State Fault Refusal := done (lanes1 s g f f32Log)
def execFlog2 (g : Fin 128) (f : VFields) (s : State) : Host.Outcome State Fault Refusal := done (lanes1 s g f f32Log2)
def execFsin (g : Fin 128) (f : VFields) (s : State) : Host.Outcome State Fault Refusal := done (lanes1 s g f f32Sin)
def execFcos (g : Fin 128) (f : VFields) (s : State) : Host.Outcome State Fault Refusal := done (lanes1 s g f f32Cos)
def execFtanh (g : Fin 128) (f : VFields) (s : State) : Host.Outcome State Fault Refusal := done (lanes1 s g f f32Tanh)
def execFsig (g : Fin 128) (f : VFields) (s : State) : Host.Outcome State Fault Refusal := done (lanes1 s g f f32Sigmoid)
def execFerf (g : Fin 128) (f : VFields) (s : State) : Host.Outcome State Fault Refusal := done (lanes1 s g f f32Erf)
def execFcmp (g : Fin 128) (f : VFields) (s : State) : Host.Outcome State Fault Refusal :=
  done (compareLanes s g f fun a b => f32Compare (condOf f) a b)
def execIcmp (g : Fin 128) (f : VFields) (s : State) : Host.Outcome State Fault Refusal :=
  done (compareLanes s g f fun a b => compareBy (condOf f) false a.toInt b.toInt)
def execUcmp (g : Fin 128) (f : VFields) (s : State) : Host.Outcome State Fault Refusal :=
  done (compareLanes s g f fun a b => compareBy (condOf f) false a.toNat b.toNat)
/-- SEL: pC ? a : b, lane by lane. -/
def execSel (g : Fin 128) (f : VFields) (s : State) : Host.Outcome State Fault Refusal :=
  done (vecDo s g fun e => e.put f (mergeLanes (e.preg f.c.toNat).toNat false (e.vreg f.b) (e.vreg f.a)))
/-- Predicate results are not vector destinations: every lane is written, whatever PRED holds (R123). -/
def execPand (g : Fin 128) (f : VFields) (s : State) : Host.Outcome State Fault Refusal :=
  done (vecDo s g fun e => e.setP f.d.toNat (e.preg f.a.toNat &&& e.preg f.b.toNat))
def execPor (g : Fin 128) (f : VFields) (s : State) : Host.Outcome State Fault Refusal :=
  done (vecDo s g fun e => e.setP f.d.toNat (e.preg f.a.toNat ||| e.preg f.b.toNat))
def execPnot (g : Fin 128) (f : VFields) (s : State) : Host.Outcome State Fault Refusal :=
  done (vecDo s g fun e => e.setP f.d.toNat (~~~ e.preg f.a.toNat))
/-- PLT: lane l true when l < sA. -/
def execPlt (g : Fin 128) (f : VFields) (s : State) : Host.Outcome State Fault Refusal :=
  done (vecDo s g fun e => e.setP f.d.toNat (BitVec.ofNat 256 (2 ^ min 256 (e.sreg f.a.toNat).toNat - 1)))
/-- The number of true lanes of the first n. -/
def popCount : Nat → Nat → Nat
  | 0, _ => 0
  | n + 1, p => p % 2 + popCount n (p / 2)
def execPcnt (g : Fin 128) (f : VFields) (s : State) : Host.Outcome State Fault Refusal :=
  done (vecDo s g fun e => e.setS f.d.toNat (BitVec.ofNat 32 (popCount 256 (e.preg f.a.toNat).toNat)))

/-! ### Convert, pack and cross-lane instructions (R126 Table 6, R131) -/

def execCvtif (g : Fin 128) (f : VFields) (s : State) : Host.Outcome State Fault Refusal := done (lanes1 s g f f32OfInt)
def execCvtfi (g : Fin 128) (f : VFields) (s : State) : Host.Outcome State Fault Refusal := done (lanes1 s g f intOfF32)
/-- SCALE: a × 2^sB, sB a signed integer. -/
def execVscale (g : Fin 128) (f : VFields) (s : State) : Host.Outcome State Fault Refusal :=
  done (vecDo s g fun e => e.put f ((e.vreg f.a).map fun a => f32Scale a (e.sreg f.b.toNat).toInt))
/-- CVTFH: F16 in bits [15:0], by the saturation and special-value rules of R26 and R35. -/
def execCvtfh (g : Fin 128) (f : VFields) (s : State) : Host.Outcome State Fault Refusal :=
  done (lanes1 s g f fun a => BitVec.ofNat 32 (quantIeee ieee16 maxF16 (f32 a)).1)
/-- An F16 pattern as F32, exact. -/
def f32OfF16 (w : Word) : Word :=
  match ieee16.decode (w.toNat % 65536) with
  | .fin n m e => f32Round n m e
  | .inf n => f32Inf n
  | .nan => f32Nan w w
def execCvthf (g : Fin 128) (f : VFields) (s : State) : Host.Outcome State Fault Refusal := done (lanes1 s g f f32OfF16)

/-- Eight offsets packed four bits each, block 0 lowest (R126). -/
def packOffsets : List Nat → Nat
  | [] => 0
  | o :: l => o + 16 * packOffsets l

/-- The micro-batch that the run on an engine belongs to (R29). -/
def runTag (s : State) (e : VecEngine) : Option Nat :=
  match e.inst, s.sched.run with
  | some i, some r => (r.adm.image.descs[i.index]?).bind fun d => tagOf r.adm.image i d
  | _, _ => none

/-- Adds statistics to a scale entry of the engine's context, for the micro-batch of its run. -/
def recordRun (s : State) (e : VecEngine) (scale : Nat) (st : Stats) : State :=
  if st = {} then s
  else setRun (setScale s e.ctx scale fun x => x.record st) fun r => { r with parts := addPart (runTag s e) scale st r.parts }

/-- Adds statistics to the scale entry of a memory operand of the engine. -/
def recordOperand (s : State) (e : VecEngine) (m : Nat) (st : Stats) : State :=
  match at' e.windows m none with
  | none => s
  | some w => recordRun s e w.scale st

/-- What a store measures: it counts at once (R128), but for a zero-run operand, whose statistics are those of the completed
tile (R175): there the slot's last store stands until the run ends. -/
def recordStore (s : State) (g m slot : Nat) (st : Stats) : State :=
  let e := vecAt s g
  match at' e.windows m none with
  | none => s
  | some w =>
    if w.zeroRun then setVec s g { e with windows := e.windows.modify m fun w => w.map fun w =>
      { w with slots := (slot, st) :: w.slots.filter fun x => x.1 != slot } }
    else recordRun s e w.scale st

/-- QBLK (R126): codes in vD, offsets in sC; saturations count in the named operand's entry. -/
def execQblk (g : Fin 128) (f : VFields) (s : State) : Host.Outcome State Fault Refusal :=
  let e := vecAt s g
  let fmt := Format.ofCode (f.imm.toNat % 8)
  let eT := ((e.sreg f.b.toNat).truncate 8).toInt
  let bs := (chunksOf 32 8 (e.vreg f.a)).map fun b => quantBlock fmt eT (b.map f32)
  let st := bs.foldl (fun st b => st.merge b.2.2) ({} : Stats)
  let s := recordOperand s e (f.imm.toNat / 16 % 4) { sat := st.sat, nonfinite := st.nonfinite }
  done (vecDo s g fun e => (e.put f ((bs.map fun b => b.2.1.map fun q => BitVec.ofInt 32 q).flatten)).setS f.c.toNat
    (BitVec.ofNat 32 (packOffsets (bs.map fun b => b.1))))

/-- DQBLK: the inverse of QBLK. -/
def execDqblk (g : Fin 128) (f : VFields) (s : State) : Host.Outcome State Fault Refusal :=
  done (vecDo s g fun e =>
    let fmt := Format.ofCode (f.imm.toNat % 8)
    let eT := ((e.sreg f.b.toNat).truncate 8).toInt
    let os := (e.sreg f.c.toNat).toNat
    e.put f (((e.vreg f.a).zipIdx).map fun x =>
      f32OfDy ⟨x.1.toInt, fmt.stepExp eT (bits os (4 * (x.2 / 32) + 3) (4 * (x.2 / 32)))⟩ false))

/-- The width that PACK and UNPACK name: 4, 8 or 16 bits. -/
def packWidth (imm : Nat) : Nat := match imm % 4 with | 0 => 4 | 1 => 8 | _ => 16

def packWord (w : Nat) : List Word → Nat
  | [] => 0
  | a :: l => a.toNat % 2 ^ w + 2 ^ w * packWord w l

/-- PACK (R126 Table 6). -/
def execPack (g : Fin 128) (f : VFields) (s : State) : Host.Outcome State Fault Refusal :=
  done (vecDo s g fun e =>
    let w := packWidth f.imm.toNat
    let k := 32 / w
    let r := (chunksOf k (256 / k) (e.vreg f.a)).map fun c => BitVec.ofNat 32 (packWord w c)
    e.put f (r ++ List.replicate (256 - 256 / k) 0))

/-- UNPACK: the inverse of PACK, sign- or zero-extended. -/
def execUnpack (g : Fin 128) (f : VFields) (s : State) : Host.Outcome State Fault Refusal :=
  done (vecDo s g fun e =>
    let w := packWidth f.imm.toNat
    let k := 32 / w
    e.put f ((((e.vreg f.a).take (256 / k)).map fun a => (List.range k).map fun i =>
      let v := bits a.toNat (w * i + w - 1) (w * i)
      if f.imm.getLsbD 2 && decide (2 ^ (w - 1) ≤ v) then BitVec.ofInt 32 ((v : Int) - (2 ^ w : Nat))
      else BitVec.ofNat 32 v).flatten))

/-- The fixed tree of R131: lane l with lane l + n, halving n down to 1. -/
def treeReduce (op : Word → Word → Word) : Nat → List Word → Word
  | 0, l => l.headD 0
  | k + 1, l => treeReduce op k (List.zipWith op (l.take (2 ^ k)) (l.drop (2 ^ k)))

/-- A reduction over the active lanes, the inactive ones taking part as `unit` (R131). -/
def reduceLanes (s : State) (g : Nat) (f : VFields) (unit : Word) (op : Word → Word → Word) : State :=
  vecDo s g fun e => e.setS f.d.toNat (treeReduce op 8 (fillInactive unit (e.active f) (e.vreg f.a)))

def execRsum (g : Fin 128) (f : VFields) (s : State) : Host.Outcome State Fault Refusal :=
  done (reduceLanes s g f 0 f32Add)
def execRmax (g : Fin 128) (f : VFields) (s : State) : Host.Outcome State Fault Refusal :=
  done (reduceLanes s g f (f32Inf true) f32Max)
def execRiadd (g : Fin 128) (f : VFields) (s : State) : Host.Outcome State Fault Refusal :=
  done (reduceLanes s g f 0 fun a b => a + b)
def execRimax (g : Fin 128) (f : VFields) (s : State) : Host.Outcome State Fault Refusal :=
  done (reduceLanes s g f 0x80000000#32 wordMax)

/-- One round of SCAN: lane l with lane l − n. -/
def scanRound (n : Nat) (l : List Word) : List Word := l.take n ++ List.zipWith f32Add (l.drop n) l
def execScan (g : Fin 128) (f : VFields) (s : State) : Host.Outcome State Fault Refusal :=
  done (vecDo s g fun e => e.put f ((List.range 8).foldl (fun l r => scanRound (2 ^ r) l)
    (fillInactive 0 (e.active f) (e.vreg f.a))))
def execShuf (g : Fin 128) (f : VFields) (s : State) : Host.Outcome State Fault Refusal :=
  done (vecDo s g fun e => e.put f ((e.vreg f.b).map fun b => at' (e.vreg f.a) (b.toNat % 256) 0))
def execRot (g : Fin 128) (f : VFields) (s : State) : Host.Outcome State Fault Refusal :=
  done (vecDo s g fun e =>
    let n := (e.sreg f.b.toNat).toNat % 256
    e.put f ((e.vreg f.a).drop n ++ (e.vreg f.a).take n))
def execLane (g : Fin 128) (f : VFields) (s : State) : Host.Outcome State Fault Refusal :=
  done (vecDo s g fun e => e.setS f.d.toNat (at' (e.vreg f.a) ((e.sreg f.b.toNat).toNat % 256) 0))
/-- INS: the named lane takes sA where it is active; other lanes are unchanged, whatever ZM holds. -/
def execVins (g : Fin 128) (f : VFields) (s : State) : Host.Outcome State Fault Refusal :=
  done (vecDo s g fun e =>
    let l := (e.sreg f.b.toNat).toNat % 256
    let old := e.vreg f.d
    if (e.preg f.pred.toNat).getLsbD l then e.setV f.d.toNat (old.set l (e.sreg f.a.toNat))
    else if f.zm then e.setV f.d.toNat (old.set l 0) else e)

/-! ### Memory operands (R127 to R130) -/

/-- Slots per window tile (R127). -/
def slotsPerTile (f : Format) : Nat := match f with | .int32 => 8 | .int64 => 4 | _ => 32

/-- The slot that a scalar and IMM[31:8] name: sA + offset, 32 bits. -/
def slotOf (e : VecEngine) (sreg : Nat) (f : VFields) : Nat :=
  (e.sreg sreg + (BitVec.ofNat 24 (f.imm.toNat / 256)).signExtend 32).toNat

/-- A window fault (R129): the job's vector-fault count and VEC_WINDOW_FAULT. -/
def windowFault (s : State) (g : Nat) (slot : Nat) : State :=
  let e := vecAt s g
  let s := match s.sched.run with
    | some r => count s r.adm.job fun c => { c with vecFaults := c.vecFaults + 1 }
    | none => s
  tally s 0x0220 g 2 e.program e.pc e.run slot

/-- The window and the slot within it, none for a window fault. -/
def slotAt (e : VecEngine) (m slot : Nat) : Option (Window × Nat) :=
  match at' e.windows m none with
  | none => none
  | some w => if slot < w.tiles * slotsPerTile w.format then some (w, slot) else none

/-- First byte of a tile of a window. -/
def Window.tileBase (w : Window) (slot : Nat) : Nat := slot / slotsPerTile w.format * w.format.tileBytes

/-- Element number of lane l of a slot within its tile (R127). -/
def laneElem (f : Format) (slot l : Nat) : Nat := 256 * (slot % slotsPerTile f) + l

/-- The values of a slot as the load path delivers them: F32 or integer lanes (low words), int64's high words, and what
the load path counts for each lane. -/
def loadSlot (w : Window) (slot : Nat) : List (Word × Word × Stats) :=
  let base := w.tileBase slot
  (List.range 256).map fun l =>
    let x := laneElem w.format slot l
    match w.format with
    | .int32 => (BitVec.ofNat 32 (Mem.le w.data (base + 4 * x) 4), 0, {})
    | .int64 =>
      let v := Mem.le w.data (base + 8 * x) 8
      (BitVec.ofNat 32 v, BitVec.ofNat 32 (v / 2 ^ 32), {})
    | _ =>
      let r := readElem w.format w.eT w.data base (x % 64) (x / 64)
      let d := finite maxF32 r.1
      (f32OfDy d.1 false, 0, { sat := bit r.2, nonfinite := bit d.2 })

/-- Statistics of the active lanes. -/
def activeStats : Nat → List Stats → Stats
  | _, [] => {}
  | p, a :: l => if p % 2 = 1 then a.merge (activeStats (p / 2) l) else activeStats (p / 2) l

/-- LD (R128): an int64 slot fills vD and vD + 1. -/
def execVld (g : Fin 128) (f : VFields) (s : State) : Host.Outcome State Fault Refusal :=
  let e := vecAt s g
  let slot := slotOf e f.a.toNat f
  done (match slotAt e (f.imm.toNat % 4) slot with
    | none => vecDo (windowFault s g slot) g fun e =>
      let e' := e.put f zeroLanes
      if (at' e.windows (f.imm.toNat % 4) none).any fun w => w.format = .int64 then e'.putLanes f (f.d.toNat + 1) zeroLanes else e'
    | some (w, j) =>
      let r := loadSlot w j
      let s := recordOperand s e (f.imm.toNat % 4) (activeStats (e.active f) (r.map fun x => x.2.2))
      vecDo s g fun e =>
        let e := e.put f (r.map fun x => x.1)
        if w.format = .int64 then e.putLanes f (f.d.toNat + 1) (r.map fun x => x.2.1) else e)

/-- Replaces the bytes of a window. -/
def setWindow (s : State) (g m : Nat) (at_ : Nat) (bs : List Byte) : State :=
  let e := vecAt s g
  setVec s g { e with windows := e.windows.modify m fun w => w.map fun w => { w with data := Mem.splice w.data at_ bs } }

/-- Whether lane l of a slot lies inside the operand's object (R22). -/
def laneReal (s : State) (e : VecEngine) (w : Window) (slot l : Nat) : Bool :=
  match objAt s e.ctx w.object with
  | none => true
  | some o =>
    let t := w.base + slot / slotsPerTile w.format
    let x := laneElem w.format slot l
    if w.format.isTiled then o.entry.real t (x % 64) (x / 64)
    else decide (t * w.format.perTile + x < o.entry.elements)

/-- Writes eight blocks of codes and offsets to a slot of a block-format window. -/
def storeBlocks (s : State) (g m : Nat) (w : Window) (slot : Nat) (bs : List (Nat × List Int)) : State :=
  let base := w.tileBase slot
  let jm := slot % 32
  let heads := (List.range 4).map fun i =>
    BitVec.ofNat 8 ((at' bs (2 * i) (0, [])).1 + 16 * (at' bs (2 * i + 1) (0, [])).1)
  let s := setWindow s g m (base + 4 * jm) heads
  setWindow s g m (base + 128 + 32 * w.format.width * jm) (packCodes w.format.width ((bs.map fun b => b.2).flatten))

/-- ST (R128): the store path for tiled formats, the bits as they stand for integers. -/
def storeSlot (s : State) (g m : Nat) (w : Window) (slot : Nat) (act : Nat) (lo hi : List Word) : State :=
  let e := vecAt s g
  let keep (l : Nat) : Bool := act.testBit l && laneReal s e w slot l
  let base := w.tileBase slot
  let x := laneElem w.format slot 0
  match w.format with
  | .int32 => setWindow s g m (base + 4 * x) ((lo.zipIdx.map fun a => leBytes 4 (if keep a.2 then a.1.toNat else 0)).flatten)
  | .int64 => setWindow s g m (base + 8 * x) (((lo.zip hi).zipIdx.map fun a =>
      leBytes 8 (if keep a.2 then a.1.1.toNat + 2 ^ 32 * a.1.2.toNat else 0)).flatten)
  | fmt =>
    let vals := lo.zipIdx.map fun a => if keep a.2 then f32 a.1 else .fin false 0 0
    if fmt.isBlock then
      let bs := (chunksOf 32 8 vals).map (quantBlock fmt w.eT)
      let bs := bs.zipIdx.map fun b => if laneReal s e w slot (32 * b.2) then b.1 else (0, b.1.2.1, b.1.2.2)
      let s := storeBlocks s g m w slot (bs.map fun b => (b.1, b.2.1))
      recordStore s g m slot (bs.foldl (fun st b => st.merge b.2.2) {})
    else
      let es := vals.map fun v => if fmt = .f16 then quantIeee ieee16 maxF16 v else quantIeee ieee32 maxF32 v
      let b := fmt.width / 8
      let s := setWindow s g m (base + b * x) ((es.map fun y => leBytes b y.1).flatten)
      recordStore s g m slot (es.foldl (fun st y => st.merge y.2) {})

/-- ST (R128). -/
def execVst (g : Fin 128) (f : VFields) (s : State) : Host.Outcome State Fault Refusal :=
  let e := vecAt s g
  let slot := slotOf e f.b.toNat f
  done (match slotAt e (f.imm.toNat % 4) slot with
    | none => vecDo (windowFault s g slot) g id
    | some (w, j) => vecDo (storeSlot s g (f.imm.toNat % 4) w j (e.active f) (e.vreg f.a)
        (at' e.v (f.a.toNat + 1) zeroLanes)) g id)

/-- LDQ (R130): raw codes in vD, the slot's eight offsets in sC. -/
def execLdq (g : Fin 128) (f : VFields) (s : State) : Host.Outcome State Fault Refusal :=
  let e := vecAt s g
  let slot := slotOf e f.a.toNat f
  done (match slotAt e (f.imm.toNat % 4) slot with
    | none => vecDo (windowFault s g slot) g fun e => e.put f zeroLanes
    | some (w, j) =>
      let base := w.tileBase j
      let cs := (List.range 256).map fun l =>
        let x := laneElem w.format j l
        let c := codeValue w.format (readPattern w.format w.data base (x % 64) (x / 64))
        if w.narrow.contains (j / 32) then (c.1 / 16, c.2) else c
      let os := (List.range 8).map fun b => readOffset w.data base (32 * (b % 2)) (4 * (j % 32) + b / 2)
      let s := recordOperand s e (f.imm.toNat % 4)
        (activeStats (e.active f) (cs.map fun c => { sat := bit c.2 }))
      vecDo s g fun e => (e.put f (cs.map fun c => BitVec.ofInt 32 c.1)).setS f.c.toNat
        (BitVec.ofNat 32 (packOffsets os)))

/-- STQ (R130): raw codes from vA with the offsets in sC. -/
def execStq (g : Fin 128) (f : VFields) (s : State) : Host.Outcome State Fault Refusal :=
  let e := vecAt s g
  let slot := slotOf e f.b.toNat f
  let m := f.imm.toNat % 4
  done (match slotAt e m slot with
    | none => vecDo (windowFault s g slot) g id
    | some (w, j) =>
      let act := e.active f
      let os := (e.sreg f.c.toNat).toNat
      let off (b : Nat) : Nat := bits os (4 * b + 3) (4 * b)
      let raw := (e.vreg f.a).zipIdx.map fun x =>
        if act.testBit x.2 && laneReal s e w j x.2 then x.1.toInt else 0
      let qs := raw.map (saturate w.format)
      let step (i : Nat) : Int := w.format.stepExp w.eT (off (i / 32))
      let st : Stats :=
        { sat := qs.countP fun q => q.2,
          raw := amaxBits (maxAbs (raw.zipIdx.map fun x => ⟨x.1, step x.2⟩)),
          stored := amaxBits (maxAbs (qs.zipIdx.map fun x => ⟨x.1.1, step x.2⟩)) }
      let bs := (chunksOf 32 8 (qs.map fun q => q.1)).zipIdx.map fun c =>
        (if laneReal s e w j (32 * c.2) then off c.2 else 0, c.1)
      vecDo (recordStore (storeBlocks s g m w j bs) g m j st) g id)

/-! ### Scratch (R113, R130) -/

/-- A scratch word; unlisted words are zero (R114). -/
def scratchGet : List (Nat × Word) → Nat → Word
  | [], _ => 0
  | (a, w) :: l, i => if i = a then w else if i < a then 0 else scratchGet l i

/-- Writes a scratch word, rising and without zero entries. -/
def scratchSet : List (Nat × Word) → Nat → Word → List (Nat × Word)
  | [], i, v => if v = 0 then [] else [(i, v)]
  | (a, w) :: l, i, v =>
    if i < a then (if v = 0 then (a, w) :: l else (i, v) :: (a, w) :: l)
    else if i = a then (if v = 0 then l else (i, v) :: l)
    else (a, w) :: scratchSet l i v

/-- The scratch slot that a scalar and IMM[31:8] name, modulo 1,024. -/
def scratchSlot (e : VecEngine) (sreg : Nat) (f : VFields) : Nat := slotOf e sreg f % 1024

def execLds (g : Fin 128) (f : VFields) (s : State) : Host.Outcome State Fault Refusal :=
  done (vecDo s g fun e => e.put f ((List.range 256).map fun l => scratchGet e.scratch (256 * scratchSlot e f.a.toNat f + l)))
/-- STS: active lanes are stored; inactive lanes of the slot keep their value, or become zero with ZM = 1. -/
def execSts (g : Fin 128) (f : VFields) (s : State) : Host.Outcome State Fault Refusal :=
  done (vecDo s g fun e =>
    let base := 256 * scratchSlot e f.b.toNat f
    { e with scratch := (e.vreg f.a).zipIdx.foldl (fun m x =>
        if (e.active f).testBit x.2 then scratchSet m (base + x.2) x.1
        else if f.zm then scratchSet m (base + x.2) 0 else m) e.scratch })
def execLdx (g : Fin 128) (f : VFields) (s : State) : Host.Outcome State Fault Refusal :=
  done (vecDo s g fun e => e.put f ((e.vreg f.a).map fun a => scratchGet e.scratch (a.toNat % 262144)))
/-- STX: of several active lanes that name one word the highest-numbered stands (R130). -/
def execStx (g : Fin 128) (f : VFields) (s : State) : Host.Outcome State Fault Refusal :=
  done (vecDo s g fun e =>
    { e with scratch := ((e.vreg f.a).zip (e.vreg f.b)).zipIdx.foldl (fun m x =>
        if (e.active f).testBit x.2 then scratchSet m (x.1.2.toNat % 262144) x.1.1 else m) e.scratch })

/-! ### Counter generator instructions (R132) -/

/-- The generator's outputs for every lane of vB. -/
def ctrLanes (e : VecEngine) (f : VFields) : List Quad :=
  let a := f.a.toNat
  let k : Quad := ⟨e.sreg a, e.sreg (a + 1), e.sreg (a + 2), e.sreg (a + 3)⟩
  (e.vreg f.b).map fun b => counterGen k ⟨b, e.sreg f.c.toNat, e.sreg (f.c.toNat + 1), f.imm⟩

def execCtr (g : Fin 128) (f : VFields) (s : State) : Host.Outcome State Fault Refusal :=
  done (vecDo s g fun e => e.put f ((ctrLanes e f).map fun q => q.w0))
def execCtr4 (g : Fin 128) (f : VFields) (s : State) : Host.Outcome State Fault Refusal :=
  done (vecDo s g fun e =>
    let r := ctrLanes e f
    let d := f.d.toNat
    (((e.putLanes f d (r.map fun q => q.w0)).putLanes f (d + 1) (r.map fun q => q.w1)).putLanes f (d + 2)
      (r.map fun q => q.w2)).putLanes f (d + 3) (r.map fun q => q.w3))
def execUnif (g : Fin 128) (f : VFields) (s : State) : Host.Outcome State Fault Refusal :=
  done (vecDo s g fun e => e.put f ((ctrLanes e f).map fun q => drawUnit q.w0))

/-! ### Running a program -/

/-- The state after an outcome; the meanings of the engine's instructions always answer a next state. -/
def Outcome.orKeep (s : State) : Host.Outcome State Fault Refusal → State
  | .next t => t
  | .fault _ => s
  | .refused _ => s

/-- The fields of an instruction word (R115 Table 2). -/
def vfieldsOfWord (w : Nat) : VFields :=
  { pred := BitVec.ofNat 3 (bits w 10 8), zm := decide (bits w 11 11 = 1), d := BitVec.ofNat 5 (bits w 16 12),
    a := BitVec.ofNat 5 (bits w 21 17), b := BitVec.ofNat 5 (bits w 26 22), c := BitVec.ofNat 5 (bits w 31 27),
    imm := BitVec.ofNat 32 (bits w 63 32) }

/-- The meaning of an opcode of R124, R125, R126 and Table 7; none for an unlisted one. -/
def vecOp (op : Nat) : Option (Fin 128 → VFields → State → Host.Outcome State Fault Refusal) :=
  if op < 0x10 then
    match op with
    | 0x01 => some execVloop | 0x02 => some execVendloop | 0x03 => some execVnop | _ => none
  else if op < 0x20 then
    match op with
    | 0x10 => some execIadd | 0x11 => some execIsub | 0x12 => some execImul | 0x13 => some execImin
    | 0x14 => some execImax | 0x15 => some execVand | 0x16 => some execVor | 0x17 => some execVxor
    | 0x18 => some execShl | 0x19 => some execShr | 0x1A => some execSra | 0x1B => some execIaddi
    | 0x1C => some execMovi | 0x1D => some execMovs | 0x1E => some execLaneid | _ => some execVmov
  else if op < 0x30 then
    match op with
    | 0x20 => some execSmovi | 0x21 => some execSadd | 0x22 => some execSaddi | 0x23 => some execSsub
    | 0x24 => some execSmul | 0x25 => some execSshli | 0x26 => some execSshri | 0x27 => some execSand
    | 0x28 => some execSor | _ => none
  else if op < 0x40 then
    match op with
    | 0x30 => some execFadd | 0x31 => some execFsub | 0x32 => some execFmul | 0x33 => some execFma
    | 0x34 => some execFmin | 0x35 => some execFmax | 0x36 => some execFabs | 0x37 => some execFneg
    | 0x38 => some execFsqrt | 0x39 => some execFrcp | 0x3A => some execFrsqrt | 0x3B => some execFmuli
    | _ => none
  else if op < 0x60 then
    match op with
    | 0x40 => some execFexp | 0x41 => some execFexp2 | 0x42 => some execFlog | 0x43 => some execFlog2
    | 0x44 => some execFsin | 0x45 => some execFcos | 0x46 => some execFtanh | 0x47 => some execFsig
    | 0x48 => some execFerf | 0x50 => some execFcmp | 0x51 => some execIcmp | 0x52 => some execUcmp
    | 0x53 => some execSel | 0x54 => some execPand | 0x55 => some execPor | 0x56 => some execPnot
    | 0x57 => some execPlt | 0x58 => some execPcnt | _ => none
  else if op < 0x80 then
    match op with
    | 0x60 => some execCvtif | 0x61 => some execCvtfi | 0x62 => some execVscale | 0x63 => some execCvtfh
    | 0x64 => some execCvthf | 0x65 => some execQblk | 0x66 => some execDqblk | 0x67 => some execPack
    | 0x68 => some execUnpack | 0x70 => some execVld | 0x71 => some execVst | 0x72 => some execLdq
    | 0x73 => some execStq | 0x74 => some execLds | 0x75 => some execSts | 0x76 => some execLdx
    | 0x77 => some execStx | _ => none
  else
    match op with
    | 0x80 => some execRsum | 0x81 => some execRmax | 0x82 => some execRiadd | 0x83 => some execRimax
    | 0x84 => some execScan | 0x85 => some execShuf | 0x86 => some execRot | 0x87 => some execLane
    | 0x88 => some execVins | 0x90 => some execCtr | 0x91 => some execCtr4 | 0x92 => some execUnif | _ => none

/-- Executes one word; a word the checks of R116 would have refused only moves on. -/
def vecWord (g : Fin 128) (w : DWord) (s : State) : State :=
  if w.toNat % 256 = 0 then Outcome.orKeep s (execHdr g w s)
  else
    match vecOp (w.toNat % 256) with
    | some op => Outcome.orKeep s (op g (vfieldsOfWord w.toNat) s)
    | none => vecDo s g id

/-- Executes a program from the engine's pc to its end. The fuel exceeds every execution that R133 admits. -/
def runWords (g : Fin 128) (prog : List DWord) : Nat → State → State
  | 0, s => s
  | fuel + 1, s =>
    match prog[(vecAt s g).pc]? with
    | none => s
    | some w => runWords g prog fuel (vecWord g w s)

end Sys2Proof.Machine
end

