-- ==== Sys2Proof/Machine/VecRun.lean ====
section
/-!
DEFINITION. VEC instances and their runs (R114, R117 to R121), and the checks of vector programs (R116, R133).
Choices of the model, by log entry: 81 DEDUCED.
-/

namespace Sys2Proof.Machine

/-- The vector program of a VEC descriptor. -/
def programOf (img : Image) (d : Desc) : List DWord := at' img.vprogs (d.param 0) []
/-- Its header word. -/
def headerOf (img : Image) (d : Desc) : Nat := ((programOf img d).headD 0).toNat
/-- Q, the number of runs (R117). -/
def runsOf (img : Image) (d : Desc) : Nat := bits (headerOf img d) 31 8

/-- The window of operand m in run q, staged if it is read and zero if it is written (R118, R120). -/
def stageWindow (s : State) (img : Image) (d : Desc) (i : InstId) (q m : Nat) : Option Window :=
  let w := headerWindow (headerOf img d) m
  if w.1 = 0 then none
  else
    match (if w.2 then (oprObj s img d m).map fun o => (o, scaleOf s img.ctx o.entry)
           else readerView s img (d.opr m).object) with
    | none => none
    | some o =>
      let base := baseOf d m i + q * w.1
      let tb := o.1.entry.format.tileBytes
      let data := if w.2 then [] else Mem.slice o.1.data (base * tb) (w.1 * tb) 0
      let data := if o.1.entry.role = .gradient then
          data.filter fun c => o.1.present.contains (base + c.1 / tb) else data
      some { object := (d.opr m).object, base, tiles := w.1, written := w.2, format := o.1.entry.format, eT := o.2,
             scale := o.1.entry.scale, zeroRun := o.1.entry.zeroRun && w.2, data,
             narrow := (o.1.narrowed.filter fun t => decide (base ≤ t) && decide (t < base + w.1)).map fun t => t - base }

/-- The engine at the start of run q (R114). -/
def beginRun (s : State) (g : Nat) (i : InstId) (r : Run) (d : Desc) (q : Nat) : State :=
  let img := r.adm.image
  let ps := (List.range 4).map fun j => BitVec.ofNat 32 (d.param (j + 1))
  let regs := ps ++ List.replicate 10 0 ++ [BitVec.ofNat 32 q, BitVec.ofNat 32 r.adm.step]
  setVec s g { s := regs, windows := (List.range 4).map (stageWindow s img d i q), run := q, inst := some i,
               program := d.param 0, ctx := img.ctx, params := ps }

/-- Whether a written tile of a run is present (R180): from the gradient tiles of its read windows. -/
def runPresence (s : State) (e : VecEngine) : Bool :=
  presenceOf (e.windows.filterMap fun w => match w with
    | some w => if w.written then none else
        (objAt s e.ctx w.object).map fun o => (o, (List.range w.tiles).map fun t => w.base + t)
    | none => none)

/-- Whether a run makes work: without a length table every run; with one, a run of which some window holds a real tile (R60). -/
def runReal (r : Run) (i : InstId) (d : Desc) (q : Nat) : Bool :=
  (lensOf r i).isNone || (List.range 4).any fun m =>
    let w := headerWindow (headerOf r.adm.image d) m
    let base := baseOf d m i
    match r.adm.image.entry (d.opr m).object with
    | some e => (List.range w.1).any fun t => tileReal r i d e base (base + q * w.1 + t)
    | none => false

/-- A written window leaves for its tier: its real tiles, with what the last stores of a zero-run window measured (R120, R175). -/
def drainWindow (i : InstId) (r : Run) (d : Desc) (e : VecEngine) (pres : Bool) (s : State) (m : Nat) (w : Window) : State :=
  if !w.written then s else
  let img := r.adm.image
  let s := ensureObj s img w.object
  let tb := w.format.tileBytes
  let s := match img.entry w.object with
    | none => s
    | some oe => ((List.range w.tiles).filter fun t => tileReal r i d oe (baseOf d m i) (w.base + t)).foldl (fun s t =>
        setObj s img.ctx w.object fun o => o.putTile (w.base + t) (Mem.bytes w.data (t * tb) tb) pres) s
  recordRun s e w.scale (w.slots.foldl (fun st x => st.merge x.2) {})

/-- The end of a run: the written windows leave for their tiers (R120), and the engine is free. -/
def endRun (i : InstId) (r : Run) (d : Desc) (s : State) (g : Nat) : State :=
  let e := vecAt s g
  let pres := runPresence s e
  let s := e.windows.zipIdx.foldl (fun s w => match w.1 with
    | some x => drainWindow i r d e pres s w.2 x
    | none => s) s
  { s with vec := s.vec.filter fun x => x.1 != g }

/-- Whether the engine has executed the program to its end (R115). -/
def programDone (img : Image) (d : Desc) (e : VecEngine) : Bool :=
  decide ((programOf img d).length ≤ e.pc) && e.loops.isEmpty

/-- A bound above every number of words that R133 lets one run execute. -/
def runFuel : Nat := 2 ^ 120

/-- The grove of run q: ⌈Q/n_g⌉ consecutive runs to each in island order, those of a lost grove to the others of its die
(R118, R121). -/
def runGrove (s : State) (i : InstId) (r : Run) (d : Desc) (q : Nat) : Option Nat :=
  let gs := grovesFor r i d.groves
  let n := runsOf r.adm.image d
  ((shareOut s gs (ceilDiv n gs.length) n).find? fun x => decide (x.2.1 ≤ q) && decide (q < x.2.1 + x.2.2)).map fun x => x.1

/-- One whole run. -/
def wholeRun (g : Fin 128) (i : InstId) (r : Run) (d : Desc) (q : Nat) (s : State) : State :=
  let s := beginRun s g i r d q
  endRun i r d (runWords g (programOf r.adm.image d) runFuel s) g

/-- The effect of a VEC instance: every run that has not been made and makes work. -/
def vecInstDo (i : InstId) (r : Run) (d : Desc) (s : State) : State :=
  (List.range (runsOf r.adm.image d)).foldl (fun s q =>
    if r.runs.contains (i, q) || !runReal r i d q then s
    else wholeRun (Fin.ofNat 128 ((runGrove s i r d q).getD 0)) i r d q s) s

/-- VEC (R118). -/
def execVec (i : InstId) (s : State) : Host.Outcome State Fault Refusal := done (onInstance s i 0x07 (vecInstDo i))

/-- VEC_RUN (R114, R120, R121): the start, the end or the whole of one run of an instance on the grove it is dealt to, and its
end only when the program has ended. -/
def execVecRun (g : Fin 128) (i : InstId) (q : Nat) (part : RunPart) (s : State) : Host.Outcome State Fault Refusal :=
  done (match s.sched.run with
    | none => s
    | some r =>
      match r.adm.image.descs[i.index]? with
      | none => s
      | some d =>
        let img := r.adm.image
        if d.opcode = 7 && mayStart s r i d && decide (q < runsOf img d) && !r.runs.contains (i, q) &&
           runGrove s i r d q == some g.val then
          let x := readLens (setTag s (tagOf img i d)) { r with tag := tagOf img i d } i d
          let s := x.1
          let r := x.2
          let mark (s : State) : State := setRun s fun r => { r with runs := (i, q) :: r.runs }
          match part with
          | .begin => beginRun s g i r d q
          | .finish =>
            let e := vecAt s g
            if e.inst = some i && e.run = q && programDone img d e then mark (endRun i r d s g) else s
          | .whole => mark (wholeRun g i r d q s)
        else s)

/-! ### Checks of vector programs (R116, R133) -/

/-- How an opcode uses a register field: not at all, or as a v, s or p register. -/
inductive RegUse where
  | none | v | s | p
  deriving DecidableEq, Repr

/-- The fields an opcode uses (R124 to R126 Operands columns): D, A, B, C and the IMM bits that are not reserved. -/
structure VShape where
  d : RegUse
  a : RegUse
  b : RegUse
  c : RegUse
  imm : Nat
  deriving DecidableEq, Repr

/-- Register fields and IMM bits of every opcode but HDR and LOOP. -/
def vShape (op : Nat) : Option VShape :=
  let all := 0xFFFFFFFF
  if (vecOp op).isNone then none
  else if op = 0x02 || op = 0x03 then some ⟨.none, .none, .none, .none, 0⟩
  else if op ≤ 0x1A && decide (0x10 ≤ op) then some ⟨.v, .v, .v, .none, 0⟩
  else if op = 0x1B then some ⟨.v, .v, .none, .none, all⟩
  else if op = 0x1C then some ⟨.v, .none, .none, .none, all⟩
  else if op = 0x1D then some ⟨.v, .s, .none, .none, 0⟩
  else if op = 0x1E then some ⟨.v, .none, .none, .none, 0⟩
  else if op = 0x1F then some ⟨.v, .v, .none, .none, 0⟩
  else if op = 0x20 then some ⟨.s, .none, .none, .none, all⟩
  else if op = 0x22 then some ⟨.s, .s, .none, .none, all⟩
  else if op = 0x25 || op = 0x26 then some ⟨.s, .s, .none, .none, 31⟩
  else if decide (0x21 ≤ op) && decide (op ≤ 0x28) then some ⟨.s, .s, .s, .none, 0⟩
  else if op = 0x33 then some ⟨.v, .v, .v, .v, 0⟩
  else if decide (0x30 ≤ op) && decide (op ≤ 0x35) then some ⟨.v, .v, .v, .none, 0⟩
  else if op = 0x3B then some ⟨.v, .v, .none, .none, all⟩
  else if decide (0x36 ≤ op) && decide (op ≤ 0x48) then some ⟨.v, .v, .none, .none, 0⟩
  else if decide (0x50 ≤ op) && decide (op ≤ 0x52) then some ⟨.p, .v, .v, .none, 7⟩
  else if op = 0x53 then some ⟨.v, .v, .v, .p, 0⟩
  else if op = 0x54 || op = 0x55 then some ⟨.p, .p, .p, .none, 0⟩
  else if op = 0x56 then some ⟨.p, .p, .none, .none, 0⟩
  else if op = 0x57 then some ⟨.p, .s, .none, .none, 0⟩
  else if op = 0x58 then some ⟨.s, .p, .none, .none, 0⟩
  else if op = 0x62 then some ⟨.v, .v, .s, .none, 0⟩
  else if op = 0x65 then some ⟨.v, .v, .s, .s, 63⟩
  else if op = 0x66 then some ⟨.v, .v, .s, .s, 7⟩
  else if op = 0x67 then some ⟨.v, .v, .none, .none, 3⟩
  else if op = 0x68 then some ⟨.v, .v, .none, .none, 7⟩
  else if decide (0x60 ≤ op) && decide (op ≤ 0x64) then some ⟨.v, .v, .none, .none, 0⟩
  else if op = 0x70 then some ⟨.v, .s, .none, .none, all - 0xFC⟩
  else if op = 0x71 then some ⟨.none, .v, .s, .none, all - 0xFC⟩
  else if op = 0x72 then some ⟨.v, .s, .none, .s, all - 0xFC⟩
  else if op = 0x73 then some ⟨.none, .v, .s, .s, all - 0xFC⟩
  else if op = 0x74 then some ⟨.v, .s, .none, .none, all - 0xFF⟩
  else if op = 0x75 then some ⟨.none, .v, .s, .none, all - 0xFF⟩
  else if op = 0x76 then some ⟨.v, .v, .none, .none, 0⟩
  else if op = 0x77 then some ⟨.none, .v, .v, .none, 0⟩
  else if decide (0x80 ≤ op) && decide (op ≤ 0x83) then some ⟨.s, .v, .none, .none, 0⟩
  else if op = 0x84 then some ⟨.v, .v, .none, .none, 0⟩
  else if op = 0x85 then some ⟨.v, .v, .v, .none, 0⟩
  else if op = 0x86 then some ⟨.v, .v, .s, .none, 0⟩
  else if op = 0x87 then some ⟨.s, .v, .s, .none, 0⟩
  else if op = 0x88 then some ⟨.v, .s, .s, .none, 0⟩
  else some ⟨.v, .s, .v, .s, all⟩

/-- Whether a register field breaks its use: a reserved field that is not zero, a number out of range. -/
def regBad (u : RegUse) (x : Nat) : Bool :=
  match u with
  | .none => x != 0
  | .v => false
  | .s => decide (15 < x)
  | .p => decide (7 < x)

/-- Whether a word breaks the rules of R116 that concern it alone, given the program's header. ZM serves vector destinations only,
so it is reserved elsewhere (R115, R123). -/
def wordBad (hdr : Nat) (w : DWord) : Bool :=
  let op := w.toNat % 256
  let f := vfieldsOfWord w.toNat
  let imm := f.imm.toNat
  if op = 0x01 then
    f.zm || decide (15 < f.d.toNat) || f.b != 0 || f.c != 0 || decide (2 ^ 25 ≤ imm) ||
    (if f.imm.getLsbD 24 then decide (3 < f.a.toNat) else f.a != 0 || imm % 2 ^ 24 == 0)
  else
    match vShape op with
    | none => true
    | some sh =>
      let win := headerWindow hdr (imm % 4)
      (f.zm && sh.d != .v) || regBad sh.d f.d.toNat || regBad sh.a f.a.toNat || regBad sh.b f.b.toNat || regBad sh.c f.c.toNat ||
      (imm &&& (0xFFFFFFFF - sh.imm)) != 0 || (sh.d == .p && f.d == 0) ||
      (decide (0x70 ≤ op) && decide (op ≤ 0x73) && (win.1 == 0 || ((op == 0x71 || op == 0x73) && !win.2))) ||
      (op == 0x65 && (headerWindow hdr (imm / 16 % 4)).1 == 0) ||
      (op == 0x91 && f.d.toNat % 4 != 0) ||
      (decide (0x90 ≤ op) && (f.a.toNat % 4 != 0 || f.c.toNat == 15)) ||
      ((op == 0x50) && imm == 7) || ((op == 0x51 || op == 0x52) && decide (6 ≤ imm)) ||
      ((op == 0x65 || op == 0x66) && (decide (imm % 8 < 2) || decide (5 < imm % 8) || (op == 0x65 && imm / 8 % 2 == 1))) ||
      ((op == 0x67 || op == 0x68) && imm % 4 == 3)

/-- The scalar that an instruction writes, if any. -/
def scalarWritten (w : DWord) : Option Nat :=
  let op := w.toNat % 256
  let f := vfieldsOfWord w.toNat
  if op = 0x65 || op = 0x72 then some f.c.toNat
  else if op = 0x01 then some f.d.toNat
  else match vShape op with | some sh => if sh.d = .s then some f.d.toNat else none | none => none

/-- The first word that breaks the loop rules of R133: pairing, depth, index registers. -/
def loopsBad : List DWord → Nat → List Nat → Option Nat
  | [], n, open_ => if open_.isEmpty then none else some (n - 1)
  | w :: l, n, open_ =>
    let op := w.toNat % 256
    if (match scalarWritten w with | some x => open_.contains x | none => false) then some n
    else if op = 0x01 then
      (if 4 ≤ open_.length then some n else loopsBad l (n + 1) ((vfieldsOfWord w.toNat).d.toNat :: open_))
    else if op = 0x02 then (match open_ with | [] => some n | _ :: o => loopsBad l (n + 1) o)
    else loopsBad l (n + 1) open_

/-- The first word of a program that R116 refuses. -/
def programBad (p : List DWord) : Option Nat :=
  match p with
  | [] => some 0
  | h :: l =>
    if h.toNat % 256 ≠ 0 || bits h.toNat 31 8 = 0 then some 0
    else
      match l.findIdx? fun w => w.toNat % 256 == 0 || wordBad h.toNat w with
      | some n => some (n + 1)
      | none => loopsBad l 1 []

/-- Issue cycles of an opcode (R124 to R126). -/
def issueCycles (op : Nat) : Nat :=
  if op = 0 || op = 2 then 0
  else if op = 0x38 || (decide (0x40 ≤ op) && decide (op ≤ 0x48)) || op = 0x76 || op = 0x77 || op = 0x90 || op = 0x92 then 4
  else if op = 0x39 || op = 0x3A || op = 0x58 || op = 0x65 || op = 0x66 || op = 0x85 || op = 0x87 then 2
  else if op = 0x91 then 8
  else if decide (0x80 ≤ op) && decide (op ≤ 0x84) then 9
  else 1

/-- The count of a LOOP word: its immediate, or the parameter that initialises the scalar it names (R133). -/
def loopCount (d : Desc) (w : DWord) : Nat :=
  let f := vfieldsOfWord w.toNat
  if f.imm.getLsbD 24 then d.param (1 + f.a.toNat) else f.imm.toNat % 2 ^ 24

/-- The issue cycles of one run: each instruction times the counts of the loops around it (R122). -/
def runCycles (d : Desc) : List DWord → List Nat → Nat
  | [], _ => 0
  | w :: l, open_ =>
    let op := w.toNat % 256
    let times := open_.foldl (fun a b => a * b) 1
    if op = 1 then times + runCycles d l (loopCount d w :: open_)
    else if op = 2 then runCycles d l open_.tail
    else times * issueCycles op + runCycles d l open_

/-- How many groves an instance uses of n in service (R50). -/
def usedOf (wanted n : Nat) : Nat := max 1 (if wanted = 0 then n else min wanted n)

/-- The checks of a VEC descriptor that need its operands' formats (R117 to R119, R128, R130, R133), with n groves in service:
none, or the program word that fails, 0 where no word is named. The cycles of R133 are those of R122, all iterations of
the descriptor's loops together. -/
def vecBad (n : Nat) (img : Image) (d : Desc) : Option Nat :=
  let hdr := headerOf img d
  let ws := (List.range 4).map fun m => (m, headerWindow hdr m, img.entry (d.opr m).object)
  let bytes := (ws.map fun w => match w.2.2 with | some e => w.2.1.1 * e.tileMax | none => 0).sum
  let used (m : Nat) : Bool := (headerWindow hdr m).1 != 0
  if decide (img.vprogs.length ≤ d.param 0) || d.accumulate ||
     (ws.any fun w => used w.1 != d.uses w.1 || (used w.1 && w.2.2.isNone)) || decide (2097152 < bytes) then some 0
  else
    match (programOf img d).findIdx? fun w =>
      let op := w.toNat % 256
      let f := vfieldsOfWord w.toNat
      let fmt := (img.entry (d.opr (f.imm.toNat % 4)).object).map fun e => e.format
      (op == 0x70 && fmt == some .int64 && f.d.toNat % 2 == 1) || (op == 0x71 && fmt == some .int64 && f.a.toNat % 2 == 1) ||
      ((op == 0x72 || op == 0x73) && (match fmt with | some x => !x.isBlock | none => true)) ||
      (op == 0x01 && f.imm.getLsbD 24 && (loopCount d w == 0 || decide (2 ^ 24 ≤ loopCount d w))) with
    | some n => some n
    | none =>
      if 2 ^ 48 < runCycles d (programOf img d) [] * ceilDiv (runsOf img d) (usedOf d.groves n) * (mbCount img d * innerCount img d)
      then some 0 else none

/-- A written window that overlaps a window of another run, or another operand of its run (R119). -/
def vecHazard (img : Image) (d : Desc) (i : InstId) : Bool :=
  let hdr := headerOf img d
  let q := runsOf img d
  (List.range 4).any fun m => (List.range 4).any fun k =>
    let a := headerWindow hdr m
    let b := headerWindow hdr k
    a.2 && a.1 != 0 && b.1 != 0 && m != k && (d.opr m).object == (d.opr k).object &&
    (let x := baseOf d m i
     let y := baseOf d k i
     decide (x < y + q * b.1) && decide (y < x + q * a.1))

end Sys2Proof.Machine
end

