-- ==== Sys2Proof/Machine/Update.lean ====
section
/-!
DEFINITION. UPDATE with rules S and P, and its checks (R180 to R195, R414).
Choices of the model, by log entry: 29 DEDUCED.
-/

namespace Sys2Proof.Machine

/-- The F32 word of a parameter word. -/
def paramF32 (d : Desc) (n : Nat) : Word := BitVec.ofNat 32 (d.param n)

/-- κ of R184 for a clip threshold τ. -/
def clipFactor (n : Norm) (tau : Word) : Word :=
  if tau = 0x7F800000#32 || f32ValKey n.q = 0 then 0x3F800000#32 else f32Min 0x3F800000#32 (f32Div tau n.norm)

/-- σ = κ / n of R184. -/
def elementScale (n : Norm) (tau : Word) : Word := f32Div (clipFactor n tau) (f32OfInt (BitVec.ofNat 32 n.nC))

/-- The F32 word of element (k, n) of a tile, converted exactly. -/
def f32At (o : Obj) (eT : Int) (t k n : Nat) : Word := f32OfDy (o.value eT maxF32 t k n) false

/-- sign(c) with sign(0) = 0. -/
def f32Sign (c : Word) : Word := if f32ValKey c = 0 then 0 else if f32Neg c then 0xBF800000#32 else 0x3F800000#32

/-- p′ = p − η × (x + λ × p), each operation rounded, in the order written (R186, R187, R191). -/
def applyStep (eta lam p x : Word) : Word := f32Sub p (f32Mul eta (f32Add x (f32Mul lam p)))

/-- β × m + (1 − β) × g. -/
def blend (beta m g : Word) : Word := f32Add (f32Mul beta m) (f32Mul (f32Sub 0x3F800000#32 beta) g)

/-- The bytes of a tile that UPDATE writes and their statistics (R33, R187). -/
def updateTile (r : Run) (o : Obj) (eT : Int) (t : Nat) (val : Nat → Nat → Word) : List Byte × Stats :=
  stochTile o.entry.format eT t (fun k n => f32 (val k n)) (o.entry.real t)
    (stochR r.adm.image.seed r.adm.step o.entry.object)

/-- Puts a tile into the slot that is not current (R196). -/
def putOther (s : State) (ctx n t : Nat) (bs : List Byte) : State :=
  setObj s ctx n fun o =>
    let b := (o.other.map fun x => x.1).getD o.data
    let c := (o.other.map fun x => x.2).getD []
    { o with other := some (Mem.splice b (o.entry.tileBase t) bs, if c.contains t then c else t :: c) }

/-- Opens the other slot of a parameter even where no tile is touched (R196). -/
def openOther (s : State) (ctx n : Nat) : State :=
  setObj s ctx n fun o => if o.other.isSome then o else { o with other := some (o.data, []) }

/-- Present tiles of a gradient, in tile order. -/
def presentTiles (o : Obj) : List Nat := (List.range o.entry.tiles).filter o.present.contains

/-- Rule S on one touched tile (R186). -/
def ruleSTile (s : State) (r : Run) (d : Desc) (sigma : Word) (p g m : Obj) (t : Nat) : State :=
  let c := r.adm.ctx
  let eP := scaleOf s c p.entry
  let eG := scaleOf s c g.entry
  let eM := scaleOf s c m.entry
  let grad (k n : Nat) : Word := f32Mul sigma (f32At g eG t k n)
  let np := updateTile r p eP t fun k n =>
    applyStep (paramF32 d 1) (paramF32 d 4) (f32At p eP t k n) (f32Sign (blend (paramF32 d 2) (f32At m eM t k n) (grad k n)))
  let nm := updateTile r m eM t fun k n => blend (paramF32 d 3) (f32At m eM t k n) (grad k n)
  let s := putOther s c p.entry.object t np.1
  let s := setObj s c m.entry.object fun o => o.putTile t nm.1 true
  recordStats (recordStats s c p.entry np.2) c m.entry nm.2

/-! ### Rule P (R188 to R192) -/

/-- Columns C and rows Rb of blocks, and their number. -/
def blockCols (e : ObjEntry) : Nat := ceilDiv (e.dim 0) 4096
def blockRows (e : ObjEntry) : Nat := ceilDiv (e.dim 1) 4096
def blockCount (e : ObjEntry) : Nat := blockCols e * blockRows e * e.dim 2 * e.dim 3 * e.dim 4
/-- Column block, row block and outer index of block j. -/
def blockPos (e : ObjEntry) (j : Nat) : Nat × Nat × Nat :=
  (j % blockCols e, j / blockCols e % blockRows e, j / blockCols e / blockRows e)
def blockSideR (e : ObjEntry) (j : Nat) : Nat := min 4096 (e.dim 1 - 4096 * (blockPos e j).2.1)
def blockSideC (e : ObjEntry) (j : Nat) : Nat := min 4096 (e.dim 0 - 4096 * (blockPos e j).1)

/-- The tiles of block j. -/
def blockTiles (e : ObjEntry) (j : Nat) : List Nat :=
  let p := blockPos e j
  ((List.range (ceilDiv (blockSideR e j) 128)).map fun b => (List.range (ceilDiv (blockSideC e j) 64)).map fun a =>
    e.tileAt (64 * p.1 + a) (32 * p.2.1 + b) p.2.2).flatten

/-- Rewrites the top-left side × side elements of a plane of a factor object. -/
def writePlane (s : State) (img : Image) (n plane side : Nat) (val : Nat → Nat → Word) : State :=
  match objFor s img n with
  | none => s
  | some o =>
    (List.range (ceilDiv side 128)).foldl (fun s j1 => (List.range (ceilDiv side 64)).foldl (fun s j0 =>
      writeTile s img n (o.entry.tileAt j0 j1 plane) (fun k c =>
        if 64 * j0 + k < side && decide (128 * j1 + c < side) then f32 (val (64 * j0 + k) (128 * j1 + c))
        else .fin false 0 0) true) s) s

/-- The word of an element of a plane. -/
def planeAt (o : Obj) (plane x y : Nat) : Word := f32OfDy (o.elem 0 maxF32 x y plane) false

/-- Folds the statistics of block j in one factor (R191): L ← β2 × L + incoming. -/
def foldFactor (s : State) (img : Image) (d : Desc) (n j side : Nat) : State :=
  match objFor s img n with
  | none => s
  | some o => writePlane s img n (3 * j) side fun x y =>
      f32Add (f32Mul (paramF32 d 3) (planeAt o (3 * j) x y)) (planeAt o (3 * j + 2) x y)

/-! ### The inverse fourth root (R192) -/

/-- A square F32 matrix by rows. -/
abbrev Mat := List (List Word)

/-- The element in row i and column j. -/
def Mat.el (m : Mat) (i j : Nat) : Word := at' (at' m i []) j 0

/-- Every element by row, column and value. -/
def Mat.each (m : Mat) (f : Nat → Nat → Word → Word) : Mat :=
  m.zipIdx.map fun r => r.1.zipIdx.map fun x => f r.2 x.2 x.1

/-- The identity of side b. -/
def Mat.one (b : Nat) : Mat := (List.range b).map fun i => (List.range b).map fun j => if i = j then 0x3F800000#32 else 0

/-- An F32 sum in the order given. -/
def f32Sum : List Word → Word
  | [] => 0
  | x :: l => l.foldl f32Add x

/-- The square root of the sum of the squares, row by row (R192: a fixed order). -/
def Mat.frobenius (m : Mat) : Word := f32Sqrt (f32Sum (m.flatten.map fun v => f32Mul v v))

/-- One emulated F32 product (R39, 3 limbs): the exact sum of limb products, stored as F32. -/
def Mat.times (x y : Mat) (b : Nat) : Mat :=
  let line (l : List Word) : Int × List (List Int) := wideScaled 3 (l.map fun w => finite maxF32 (f32 w))
  let as := x.map line
  let bs := (List.range b).map fun j => line ((List.range b).map fun k => y.el k j)
  as.map fun r => bs.map fun c =>
    BitVec.ofNat 32 (quantIeee ieee32 maxF32 (FVal.ofDy ⟨wideSum 3 (r.2.zip c.2), r.1 + c.1 - 46⟩)).1

/-- One stage of six iterations (R192): y and z after it, and the residual of the fifth. -/
def rootStage (b : Nat) (y : Mat) : Mat × Mat × Word :=
  (List.range 6).foldl (fun a i =>
    let p := a.2.1.times a.1 b
    let t := p.each fun r c v => f32Div (f32Sub (if r = c then 0x40400000#32 else 0) v) 0x40000000#32
    let res := if i = 4 then ((List.range b).map fun k => f32Abs (f32Sub 0x3F800000#32 (p.el k k))).foldl
        (fun m v => if f32ValKey m < f32ValKey v then v else m) 0 else a.2.2
    (a.1.times t b, t.times a.2.1 b, res)) (y, Mat.one b, 0)

/-- root4 of R192: the root of one damped factor, and the larger of its two residuals. The fourth root of c1, to which the
manual gives no accuracy, is a free value. -/
def root4 (m : Mat) (b : Nat) (eps : Word) : Mat × Word :=
  let mu := f32Max (f32Div (f32Sum ((List.range b).map fun k => m.el k k)) (f32OfInt (BitVec.ofNat 32 b))) 0x0D800000#32
  let add := f32Mul eps mu
  let d := m.each fun r c v => if r = c then f32Add v add else v
  let c1 := d.frobenius
  let one := rootStage b (d.each fun _ _ v => f32Div v c1)
  let c2 := one.2.1.frobenius
  let two := rootStage b (one.2.1.each fun _ _ v => f32Div v c2)
  let q := f32Div (f32Sqrt c2) (Config.fourthRoot c1)
  (two.1.each fun _ _ v => f32Mul v q, if f32ValKey one.2.2 < f32ValKey two.2.2 then two.2.2 else one.2.2)

/-- The statistic of one factor of block j, and its root with the residual. -/
def factorRoot (s : State) (img : Image) (n j side : Nat) (eps : Word) : Mat × Word :=
  match objFor s img n with
  | none => ([], 0)
  | some o => root4 ((List.range side).map fun y => (List.range side).map fun x => planeAt o (3 * j) x y) side eps

/-- Writes the root of one factor of block j. -/
def writeRoot (s : State) (img : Image) (n j side : Nat) (m : Mat) : State :=
  writePlane s img n (3 * j + 1) side fun x y => m.el y x

/-- The tiles that 36 emulated F32 products of a side count on the groves (R192, R106). -/
def dealRoot (s : State) (r : Run) (d : Desc) (side : Nat) : State :=
  let i : InstId := ⟨0, 0, d.index⟩
  let gs := grovesFor r i 0
  let nt := ceilDiv side 128
  let h := panelHeight side nt side 33 gs.length false
  dealUnits s i gs (ceilDiv side h * nt) (4 * ceilDiv side 64 * 6 * 36)

/-- Rule P on one touched block (R191). -/
def rulePBlock (s : State) (r : Run) (d : Desc) (sigma : Word) (p u : Obj) (j : Nat) : State :=
  let img := r.adm.image
  let c := r.adm.ctx
  let s := foldFactor s img d (d.opr 2).object j (blockSideR p.entry j)
  let s := foldFactor s img d (d.opr 3).object j (blockSideC p.entry j)
  let eP := scaleOf s c p.entry
  let eU := scaleOf s c u.entry
  (blockTiles p.entry j).foldl (fun s t =>
    let b := updateTile r p eP t fun k n =>
      applyStep (paramF32 d 1) (paramF32 d 4) (f32At p eP t k n) (f32Mul sigma (f32At u eU t k n))
    recordStats (putOther s c p.entry.object t b.1) c p.entry b.2) s

/-- The new roots of one touched block, dealt over the groves as wide products, and the larger residual of its factors. -/
def blockRoots (s : State) (r : Run) (d : Desc) (p : Obj) (j : Nat) : State × Word :=
  let img := r.adm.image
  let a := factorRoot s img (d.opr 2).object j (blockSideR p.entry j) (paramF32 d 2)
  let b := factorRoot s img (d.opr 3).object j (blockSideC p.entry j) (paramF32 d 2)
  let s := dealRoot (dealRoot s r d (blockSideR p.entry j)) r d (blockSideC p.entry j)
  (writeRoot (writeRoot s img (d.opr 2).object j (blockSideR p.entry j) a.1) img (d.opr 3).object j (blockSideC p.entry j) b.1,
   if f32ValKey a.2 < f32ValKey b.2 then b.2 else a.2)

/-- Roots of the touched blocks on a root step, the largest residual and its record (R192). -/
def rulePRoots (s : State) (r : Run) (d : Desc) (p : Obj) (blocks : List Nat) : State :=
  if r.adm.step % d.param 6 ≠ 0 then s else
  let x := blocks.foldl (fun (x : State × List (Nat × Word)) j =>
    let y := blockRoots x.1 r d p j
    (y.1, x.2 ++ [(j, y.2)])) (s, [])
  match x.2 with
  | [] => x.1
  | y :: l =>
    let top := l.foldl (fun a b => if f32ValKey a.2 < f32ValKey b.2 then b else a) y
    let s := setRun x.1 fun r => { r with residual := if f32ValKey r.residual < f32ValKey top.2 then top.2 else r.residual }
    if f32ValKey 0x3D800000#32 < f32ValKey top.2 then
      tally s 0x0253 islandForeman 2 d.index top.1 top.2.toNat (lo32 r.adm.step)
    else s

/-- A READONLY parameter (R182): present tiles are counted and one record written, by the Lode engine of the stack that holds
the first of them; nothing else changes. -/
def readonlyUpdate (s : State) (r : Run) (d : Desc) (g : Obj) (home : Nat → Nat) : State :=
  match presentTiles g with
  | [] => s
  | t :: l =>
    let n := (t :: l).length
    let s := count s r.adm.job fun c => { c with discards := c.discards + n }
    tally s 0x0251 (islandLode (home t)) 1 d.index (d.opr 0).object n 0

/-- The effect of UPDATE (R181 to R192): nothing where the update of the step is skipped. The tiles of the gradient, the
parameter and the moment that it converts are read (R19, R35). `home` gives the stack of a tile of the gradient. -/
def updateDo (home : Nat → Nat) (r : Run) (d : Desc) (s : State) : State :=
  let img := r.adm.image
  match r.norm, oprObj s img d 0, oprObj s img d 1 with
  | some n, some p, some g =>
    if n.skip ≠ 0 then s
    else if p.entry.readonly then readonlyUpdate s r d g home
    else
      let s := openOther (ensureObj s img p.entry.object) img.ctx p.entry.object
      let sigma := elementScale n (paramF32 d 5)
      let read (s : State) (o : Obj) (ts : List Nat) : State := countTiles s img.ctx o (scaleOf s img.ctx o.entry) maxF32 ts
      if d.param 0 = 0 then
        match oprObj s img d 2 with
        | some m =>
          let ts := presentTiles g
          ts.foldl (fun s t => ruleSTile s r d sigma p g m t) (read (read (read s g ts) p ts) m ts)
        | none => s
      else
        let blocks := (List.range (blockCount p.entry)).filter fun j =>
          (blockTiles p.entry j).any g.present.contains
        let ts := (blocks.map (blockTiles p.entry)).flatten
        rulePRoots (blocks.foldl (fun s j => rulePBlock s r d sigma p g j) (read (read s g ts) p ts)) r d p blocks
  | _, _, _ => s

/-- What the completion of an UPDATE makes visible (R196): the other slot becomes current, VERSION becomes the step. -/
def updateComplete (s : State) (r : Run) (d : Desc) : State :=
  setObj s r.adm.ctx (d.opr 0).object fun o =>
    match o.other with
    | none => o
    | some x => { o with prev := o.data, data := x.1, changed := x.2, other := none, version := r.adm.step, prevVersion := o.version,
                         written := (x.2.filter fun t => !o.written.contains t) ++ o.written }

/-- A context whose gradients are empty (R180). -/
def Context.emptyGradients (c : Context) : Context :=
  { c with objects := c.objects.map fun o => if o.entry.role = .gradient then { o with present := [], written := [] } else o }

/-- Clears every presence bit of the step's gradients, those of the shards carried for failed members too (R180). -/
def clearGradients (s : State) (job ctx : Nat) : State :=
  setJob (setCtx s ctx Context.emptyGradients) job fun j =>
    { j with shadows := j.shadows.map fun x => { x with ctx := x.ctx.emptyGradients } }

/-- Range checks of the UPDATE parameter words (R194). -/
def updateParamsBad (rule : Nat) (lr c1 c2 decay tau : Word) : Bool :=
  let fin (w : Word) : Bool := decide (w.toNat % 2 ^ 31 < ieee32.infBits)
  let nonneg (w : Word) : Bool := fin w && decide (0 ≤ f32ValKey w)
  let unit (w : Word) : Bool := nonneg w && decide (w.toNat % 2 ^ 31 ≤ 0x3F800000)
  !nonneg lr || !unit c2 || !nonneg decay || !unit c1 || (rule == 1 && f32ValKey c1 == 0) ||
  !(tau == 0x7F800000#32 || (fin tau && decide (0 < f32ValKey tau)))

/-- The checks of an UPDATE descriptor (R185, R186, R189, R194, R414, R175). -/
def updateBad (img : Image) (d : Desc) : Bool :=
  let rule := d.param 0
  decide (1 < rule) || d.accumulate ||
  updateParamsBad rule (paramF32 d 1) (paramF32 d 2) (paramF32 d 3) (paramF32 d 4) (paramF32 d 5) ||
  (if rule = 0 then d.param 6 != 0 || d.uses 3 else decide (d.param 6 < 10) || decide (1000 < d.param 6)) ||
  d.param 7 != 0 ||
  (d.oprs.any fun o => o.base != 0 || o.strideIn != 0 || o.strideMb != 0) ||
  (match img.entry (d.opr 0).object, img.entry (d.opr 1).object, img.entry (d.opr 2).object with
   | some p, some g, some m =>
     let small (f : Format) : Bool := f == .bx8 || f == .f16
     !small p.format || p.role != .parameter || p.zeroRun || g.role != .gradient ||
     !(g.format == .f32 || g.format == .f16 || g.format == .bx8 || g.format == .bx4) || p.dims != g.dims ||
     (if rule = 0 then !small m.format || m.role != .moment || m.zeroRun || m.dims != p.dims
      else
        let sL := min 4096 (p.dim 1)
        let sR := min 4096 (p.dim 0)
        let planes := 3 * blockCount p
        let factor (e : ObjEntry) (side : Nat) : Bool :=
          e.format == .f32 && e.role == .moment && e.dims == [side, side, planes, 1, 1]
        !factor m sL || (match img.entry (d.opr 3).object with | some x => !factor x sR | none => true))
   | _, _, _ => true)

end Sys2Proof.Machine
end

