-- ==== Sys2Proof/Machine/Collective.lean ====
section
/-!
DEFINITION. Collectives (R282 to R289), the norm collective (R183 to R185), version confirmation (R197, R198),
SCALE_SYNC and BARRIER (R27 to R30).
Choices of the model, by log entry: 30 DEDUCED, 31 DEDUCED, 32 DEDUCED, 74 DEDUCED, 80 DEDUCED, 83 DEDUCED.
-/

namespace Sys2Proof.Machine

/-! ### Participants and shares (R282, R283) -/

/-- Positions that a mask selects. -/
def maskPositions (mask : BitVec 8) : List Nat := (List.range 8).filter mask.getLsbD

/-- Coordinates of a node in the torus (R270). -/
def nodeCoords (x y : Nat) (n : Nat) : Nat × Nat × Nat := (n % x, n / x % y, n / x / y)

/-- Node rank within a box, x fastest, counted from the origin, with wrap-around; none outside the box (R283). -/
def boxRank (b : JobBox) (ext : Nat × Nat × Nat) (n : Nat) : Option Nat :=
  let c := nodeCoords ext.1 ext.2.1 n
  let rx := (c.1 + ext.1 - b.ox) % ext.1
  let ry := (c.2.1 + ext.2.1 - b.oy) % ext.2.1
  let rz := (c.2.2 + ext.2.2 - b.oz) % ext.2.2
  if rx < b.ex && decide (ry < b.ey) && decide (rz < b.ez) then some (rx + b.ex * (ry + b.ey * rz)) else none

/-- The nodes of a box in rank order. -/
def boxNodes (b : JobBox) (ext : Nat × Nat × Nat) : List Nat :=
  ((List.range b.ez).map fun k => ((List.range b.ey).map fun j => (List.range b.ex).map fun i =>
    (b.ox + i) % ext.1 + ext.1 * ((b.oy + j) % ext.2.1 + ext.2.1 * ((b.oz + k) % ext.2.2))).flatten).flatten

/-- A device's seat in the collectives of a job (R283): the masked positions, the nodes in rank order, its position and node
ranks, the box, and the device. A job with no box, or one whose box does not hold the device, has the device as its only
participant. -/
structure Party where
  positions : List Nat
  nodes : List Nat
  a : Nat
  b : Nat
  box : Option JobBox
  device : Nat
  deriving DecidableEq, Repr

/-- The seat of a device: with scope 0 (node) its own node alone takes part. -/
def partyAt (s : State) (job scope dev : Nat) : Party :=
  let alone : Party := ⟨[dev % 8], [dev / 8], 0, 0, none, dev⟩
  match (jobAt s job).bind fun j => j.box with
  | none => alone
  | some b =>
    let ps := maskPositions b.mask
    let ext := extents (inForce s 4)
    match boxRank b ext (dev / 8), ps.findIdx? fun p => p == dev % 8 with
    | some r, some a => if scope = 0 then ⟨ps, [dev / 8], a, 0, some b, dev⟩ else ⟨ps, boxNodes b ext, a, r, some b, dev⟩
    | _, _ => alone

/-- This device's own seat. -/
def partyOf (s : State) (job scope : Nat) : Party := partyAt s job scope (deviceNumber s)

def Party.count (p : Party) : Nat := p.positions.length * p.nodes.length
/-- The number of this device's share: a × N + b. -/
def Party.share (p : Party) : Nat := p.a * p.nodes.length + p.b
/-- The device that owns a share. -/
def Party.owner (p : Party) (share : Nat) : Nat :=
  8 * at' p.nodes (share % p.nodes.length) 0 + at' p.positions (share / p.nodes.length) 0

/-- Tiles per share, and the tiles of one share of an object of `total` tiles. -/
def shareSize (p : Party) (total : Nat) : Nat := ceilDiv total p.count
def shareTiles (p : Party) (total share : Nat) : List Nat :=
  (List.range (shareSize p total)).filterMap fun k =>
    let t := share * shareSize p total + k
    if t < total then some t else none

/-! ### Collective numbers and entry rounds (R62, R286) -/

/-- Whether a descriptor is a collective: REDUCE, GATHER, job-wide SCALE_SYNC or BARRIER. -/
def isCollective (d : Desc) : Bool :=
  d.opcode == 9 || d.opcode == 10 || (d.jobWide && (d.opcode == 14 || d.opcode == 15))

/-- Collective instances of an image. -/
def collectives (img : Image) : List InstId :=
  img.insts.filter fun i => match img.descs[i.index]? with | some d => isCollective d | none => false

/-- The first UPDATE of an image, before which the norm collective stands (R185). -/
def firstUpdate (img : Image) : Option InstId :=
  let us := img.insts.filter fun i => match img.descs[i.index]? with | some d => d.opcode == 8 | none => false
  us.find? fun i => us.all fun j => j == i || precedes img i j

/-- The number of an instance among the step's collectives (R62). -/
def collectiveNumber (img : Image) (i : InstId) : Nat :=
  ((collectives img).countP fun j => precedes img j i) +
  (match firstUpdate img with | some u => if precedes img u i then 1 else 0 | none => 0)

/-- The number of the norm collective. -/
def normNumber (img : Image) : Nat :=
  match firstUpdate img with
  | some u => (collectives img).countP fun j => precedes img j u
  | none => 0

/-- Whether the entry round of collective n has completed; alone it always has (R286, R287). -/
def entered (s : State) (r : Run) (n : Nat) : Bool :=
  decide ((partyOf s r.adm.job 1).count = 1) || decide (n < r.entered)

/-- Whether the job may run collectives (R282). -/
def jobRuns (s : State) (job : Nat) : Bool := match jobAt s job with | some j => !j.mismatch | none => true

/-! ### Chunks (R280, R281) -/

def chunkBytes : Nat := 131072

/-- How a collective's data are cut (R280, R283): the seat, the tiles in all, and the bytes of a tile on the wire. A chunk
carries as many whole tiles of one share as C holds. -/
structure Layout where
  party : Party
  total : Nat
  size : Nat
  deriving DecidableEq, Repr

def Layout.tilesPerChunk (l : Layout) : Nat := max 1 (chunkBytes / l.size)
/-- Chunks of a full share. -/
def Layout.perShare (l : Layout) : Nat := max 1 (ceilDiv (shareSize l.party l.total) l.tilesPerChunk)
/-- The tiles of a chunk. -/
def Layout.tiles (l : Layout) (c : Nat) : List Nat :=
  ((shareTiles l.party l.total (c / l.perShare)).drop (c % l.perShare * l.tilesPerChunk)).take l.tilesPerChunk
/-- The chunks of a share, and of the whole. -/
def Layout.ofShare (l : Layout) (share : Nat) : List Nat :=
  ((List.range l.perShare).map fun k => share * l.perShare + k).filter fun c => !(l.tiles c).isEmpty
def Layout.chunks (l : Layout) : List Nat := ((List.range l.party.count).map l.ofShare).flatten

/-- What one sender or partial sum brings for a chunk: its tiles, which of them have a source bit set, the flags, and the
version of a gathered shard. -/
structure Part where
  tiles : List (List Byte)
  present : List Nat
  flags : BitVec 8
  version : Nat
  deriving DecidableEq, Repr

/-- A held chunk as tiles of so many bytes. -/
def Chunk.part (x : Chunk) (size : Nat) : Part :=
  ⟨chunksOf size (x.data.length / size) x.data, x.info.present, x.h.flags, x.info.version⟩

/-- A chunk held of the running step's collective. -/
def heldChunk (s : State) (r : Run) (coll : Nat) (hit : Chunk → Bool) : Option Chunk :=
  s.fabric.chunks.find? fun c => c.h.job == r.adm.job && c.h.step == r.adm.step && c.h.collective == coll && hit c

/-- A chunk from one sender in one phase. -/
def partFrom (s : State) (r : Run) (coll size chunk phase source : Nat) : Option Part :=
  (heldChunk s r coll fun c => c.h.chunk == chunk && c.h.phase == phase && c.h.source == source).map fun c => c.part size

/-- Devices of a job that have failed: they contribute nothing, and survivors serve their shares (R307). -/
def failedDevices (s : State) (job : Nat) : List Nat := match jobAt s job with | some j => j.failed | none => []

/-- Whether a non-finite value met any gradient of the step in a contributing micro-batch (R37). -/
def gradientNonfinite (s : State) (img : Image) : Bool :=
  img.objects.any fun e => e.role = .gradient && (scaleAt s img.ctx e.scale).nonfinite

/-- The flags that this device puts into what it sends (R280). -/
def ownFlags (s : State) (r : Run) : BitVec 8 :=
  BitVec.ofNat 8 (bit (gradientNonfinite s r.adm.image) + bit (appendFlag r) * 2 + bit r.tierLoss * 4)

/-- Whether the running step has sent a chunk in a phase. -/
def wasSent (s : State) (coll chunk phase : Nat) : Bool :=
  match s.sched.run with | some r => r.sent.contains (coll, chunk, phase) | none => true

/-- Sends a chunk in a phase, once; it stays until acknowledged (R281). -/
def sendChunk (s : State) (r : Run) (coll chunk phase : Nat) (x : Part) : State :=
  if wasSent s coll chunk phase then s else
  let data := x.tiles.flatten
  let c : Chunk := ⟨⟨r.adm.job, r.adm.step, coll, chunk, phase, x.flags, deviceNumber s, data.length⟩, ⟨x.version, x.present⟩, data⟩
  setRun { s with fabric := { s.fabric with unacked := s.fabric.unacked ++ [c] } } fun r =>
    { r with sent := (coll, chunk, phase) :: r.sent }

/-- ORs the flags of received chunks into the step's (R280). -/
def takeFlags (s : State) (f : BitVec 8) : State :=
  setRun s fun r => { r with peerFlags := r.peerFlags ||| f.truncate 3 }

/-! ### Axes (R284) -/

/-- Extent, stride among node ranks, and coordinate of a node rank on axis 1 (x), 2 (y) or 3 (z) of a box. -/
def axisExtent (b : JobBox) (ax : Nat) : Nat := match ax with | 1 => b.ex | 2 => b.ey | _ => b.ez
def axisStride (b : JobBox) (ax : Nat) : Nat := match ax with | 1 => 1 | 2 => b.ex | _ => b.ex * b.ey
def axisCoord (b : JobBox) (ax rank : Nat) : Nat := rank / axisStride b ax % axisExtent b ax

/-- The used axes of a collective (R287): none within a node. -/
def Party.axes (p : Party) : List Nat :=
  match p.box with
  | some b => if p.nodes.length ≤ 1 then [] else [1, 2, 3].filter fun ax => decide (1 < axisExtent b ax)
  | none => []

/-- The device of this seat's position at a coordinate of one axis. -/
def Party.along (p : Party) (ax v : Nat) : Nat :=
  match p.box with
  | some b => 8 * at' p.nodes (p.b - axisCoord b ax p.b * axisStride b ax + v * axisStride b ax) 0 + p.device % 8
  | none => p.device

/-- Whom a chunk's partial sum comes from along an axis (R284): a chunk of even number travels from coordinate o + 1 in the +
direction to its owner's coordinate o, one of odd number the other way; devices that have failed are passed over. None
where this device is the first that the chunk visits. -/
def Party.before (p : Party) (failed : List Nat) (ax chunk share : Nat) : Option Nat :=
  match p.box with
  | none => none
  | some b =>
    let e := axisExtent b ax
    let own := axisCoord b ax p.b
    let o := axisCoord b ax (share % p.nodes.length)
    let ds := if chunk % 2 = 0 then (List.range ((own + 2 * e - o - 1) % e)).map fun j => p.along ax ((own + e - (j + 1)) % e)
      else (List.range ((o + 2 * e - own - 1) % e)).map fun j => p.along ax ((own + j + 1) % e)
    ds.find? fun d => !failed.contains d

/-! ### REDUCE (R284, R285) -/

/-- F32 words of a tile of the source, absent gradient tiles as zeros. -/
def tileF32 (o : Obj) (eT : Int) (t : Nat) : List Word :=
  ((List.range 128).map fun n => (List.range 64).map fun k => f32At o eT t k n).flatten

/-- A tile on the wire: F32 for operations 0 and 1, stored bytes otherwise (R285). -/
def wireTile (o : Obj) (eT : Int) (op t : Nat) : List Byte :=
  if op < 2 then ((tileF32 o eT t).map fun w => leBytes 4 w.toNat).flatten
  else if o.entry.role = .gradient && !o.present.contains t then List.replicate o.entry.format.tileBytes 0
  else Mem.bytes o.data (o.entry.tileBase t) o.entry.format.tileBytes

def wireSize (f : Format) (op : Nat) : Nat := if op < 2 then 32768 else f.tileBytes

/-- The 32-bit words of a run of bytes. -/
def wordsOf (b : List Byte) : List Word := (chunksOf 4 (b.length / 4) b).map fun w => BitVec.ofNat 32 (leValue w)

/-- One element-wise combination of two contributions of one tile (R285), word by word as the cache's atomics do it (R215). -/
def combine (f : Format) (op : Nat) (eT : Int) (a b : List Byte) : List Byte :=
  match op with
  | 0 | 1 => atomicWords .add .f32 a b
  | 3 => atomicWords .or (if f = .int64 then .int64 else .int32) a b
  | _ =>
    match f with
    | .int32 => atomicWords .max .int32 a b
    | .int64 => atomicWords .max .int64 a b
    | _ =>
      let mx := Mem.splice [] 0 a
      let my := Mem.splice [] 0 b
      (encodeTile f eT (fun k n => f32 (f32Max (f32OfDy (readElem f eT mx 0 k n).1.dy false)
        (f32OfDy (readElem f eT my 0 k n).1.dy false))) fun _ _ => true).1

/-- The collective engine's addition of two parts of a chunk, the earlier in the order first. -/
def Part.plus (f : Format) (op : Nat) (eT : Int) (a b : Part) : Part :=
  ⟨List.zipWith (combine f op eT) a.tiles b.tiles, (a.present ++ b.present).eraseDups, a.flags ||| b.flags, 0⟩

/-- What a REDUCE needs to know of its source: the object and its E_T, the operation, the first tile, the layout from one seat,
and the collective's number. -/
structure Reduction where
  o : Obj
  eT : Int
  op : Nat
  base : Nat
  coll : Nat
  lay : Layout
  deriving DecidableEq, Repr

/-- This device's own contribution to a chunk. -/
def Reduction.own (x : Reduction) (s : State) (r : Run) (c : Nat) : Part :=
  let ts := x.lay.tiles c
  ⟨ts.map fun t => wireTile x.o x.eT x.op (x.base + t),
   (List.range ts.length).filter fun k => presenceOf [(x.o, [x.base + at' ts k 0])], ownFlags s r, 0⟩

/-- The node phase at the seat's node (R284): the contributions of its devices in position order from position 0. -/
def Reduction.nodeSum (x : Reduction) (s : State) (r : Run) (c : Nat) : Option Part :=
  let node := x.lay.party.device / 8
  let from_ := (x.lay.party.positions.map fun q => 8 * node + q).filter fun d => !(failedDevices s r.adm.job).contains d
  let ps := from_.map fun d => if d = deviceNumber s then some (x.own s r c) else partFrom s r x.coll x.lay.size c 0 d
  if !ps.all fun p => p.isSome then none else
  match ps.filterMap id with
  | [] => some ⟨(x.lay.tiles c).map fun _ => List.replicate x.lay.size 0, [], 0, 0⟩
  | p :: l => some (l.foldl (Part.plus x.o.entry.format x.op x.eT) p)

/-- The partial sum of a chunk at the seat after some axis phases (R284): what arrived, then the seat's own. -/
def Reduction.sum (x : Reduction) (s : State) (r : Run) (axes : List Nat) (c : Nat) : Option Part :=
  axes.foldl (fun acc ax =>
    match x.lay.party.before (failedDevices s r.adm.job) ax c (c / x.lay.perShare) with
    | none => acc
    | some d => match acc, partFrom s r x.coll x.lay.size c ax d with
      | some a, some p => some (p.plus x.o.entry.format x.op x.eT a)
      | _, _ => none) (x.nodeSum s r c)

/-- The phase in which this device sends a chunk of a REDUCE on, none for a chunk of its own share, and the part once
everything before it has come. -/
def Reduction.outgoing (x : Reduction) (s : State) (r : Run) (c : Nat) : Option (Nat × Option Part) :=
  let p := x.lay.party
  let share := c / x.lay.perShare
  if share / p.nodes.length ≠ p.a then some (0, some (x.own s r c))
  else match p.box with
    | none => none
    | some b =>
      match p.axes.find? fun ax => axisCoord b ax (share % p.nodes.length) != axisCoord b ax p.b with
      | none => none
      | some ax => some (ax, x.sum s r ((p.axes.takeWhile fun y => y != ax) ++ [ax]) c)

/-- Sends what can be sent, each chunk once. -/
def Reduction.send (x : Reduction) (s : State) (r : Run) : State :=
  x.lay.chunks.foldl (fun t c => match x.outgoing s r c with
    | some (phase, some p) => sendChunk t r x.coll c phase p
    | _ => t) s

/-- Whether every chunk that this device sends on has gone. -/
def Reduction.allSent (x : Reduction) (s : State) (r : Run) : Bool :=
  x.lay.chunks.all fun c => match x.outgoing s r c with
    | some (phase, _) => wasSent s x.coll c phase
    | none => true

/-- The tiles of the seat's own share, reduced: their numbers in the share, bytes, bits, and the flags met. -/
def Reduction.result (x : Reduction) (s : State) (r : Run) : Option (List (Nat × List Byte × Bool) × BitVec 8) :=
  let l := x.lay
  let ps := (l.ofShare l.party.share).map fun c => (x.sum s r l.party.axes c).map fun p =>
    ((List.range p.tiles.length).map fun k =>
      (c % l.perShare * l.tilesPerChunk + k, at' p.tiles k [], p.present.contains k), p.flags)
  if ps.all fun p => p.isSome then
    some ((ps.filterMap id).foldl (fun a p => (a.1 ++ p.1, a.2 ||| p.2)) ([], 0))
  else none

/-- The reduction of a descriptor's instance from the seat of a device. -/
def reductionOf (s : State) (i : InstId) (r : Run) (d : Desc) (dev : Nat) : Option Reduction :=
  (readerView s r.adm.image (d.opr 0).object).map fun src =>
    { o := src.1, eT := src.2, op := d.param 1, base := baseOf d 0 i, coll := collectiveNumber r.adm.image i,
      lay := ⟨partyAt s r.adm.job (d.param 0) dev, src.1.entry.tiles - baseOf d 0 i, wireSize src.1.entry.format (d.param 1)⟩ }

/-- Σ of the squares of a tile's values as written, in element order (R183). -/
def tileSquares (o : Obj) (eT : Int) (t : Nat) : Word :=
  (tileF32 o eT t).foldl (fun acc v => f32Add acc (f32Mul v v)) 0

/-- Whether a REDUCE destination belongs to the norm set (R183). -/
def inNormSet (img : Image) (d : Desc) : Bool :=
  d.opcode == 9 && d.param 0 == 1 && decide (d.param 1 < 2) &&
  (match img.entry (d.opr 1).object with | some e => e.role = .gradient | none => false) &&
  !img.descs.any fun u => u.opcode == 8 && (u.opr 1).object == (d.opr 1).object &&
    (match img.entry (u.opr 0).object with | some e => e.readonly | none => false)

/-- Writes one reduced tile at its owner (R285): the store path for sums and maxima, the words for integers. -/
def writeReduced (s : State) (img : Image) (d : Desc) (src : Format) (eS : Int) (t : Nat) (b : List Byte) (pres : Bool) : State :=
  let n := (d.opr 1).object
  match objFor s img n with
  | none => s
  | some o =>
    if d.param 1 < 2 then
      let ws := wordsOf b
      if o.entry.format.isTiled then writeTile s img n t (fun k c => f32 (at' ws (64 * c + k) 0)) pres
      else
        let w := o.entry.format.width
        let qs := ws.map fun x => quantInt w (f32 x)
        writeIntBytes s img n (t * 8192 * (8192 / o.entry.format.perTile)) ((qs.map fun q => leBytes (w / 8) q.1).flatten)
          (qs.foldl (fun st q => st.merge q.2) {})
    else if o.entry.format.isTiled then
      let m := Mem.splice [] 0 b
      writeTile s img n t (fun k c => (readElem src eS m 0 k c).1) pres
    else writeIntBytes s img n (t * 8192) b {}

/-- Writes the tiles of one share, with the sums of squares of a norm-set tile (R183), in the image's own context or a carried
shard's. Tiles that hold no real token are not written (R60). -/
def writeShare (s : State) (img : Image) (i : InstId) (r : Run) (d : Desc) (x : Reduction)
    (ts : List (Nat × List Byte × Bool)) (mine : Nat → Bool) : State :=
  let n := (d.opr 1).object
  match objFor s img n with
  | none => s
  | some dst =>
    let b := baseOf d 1 i
    let ts := ts.filter fun t => mine (b + t.1) && tileReal r i d dst.entry b (b + t.1)
    let s := ts.foldl (fun s t => writeReduced s img d x.o.entry.format x.eT (b + t.1) t.2.1 t.2.2) s
    if inNormSet img d then
      let eD := scaleOf s img.ctx dst.entry
      ts.foldl (fun s t => match objAt s img.ctx n with
        | some q => setRun s fun r => { r with tileSums :=
            (n + 2 ^ 32 * (img.ctx / 65536), b + t.1, tileSquares q eD (b + t.1)) :: r.tileSums }
        | none => s) s
    else s

/-- What a REDUCE sends before its own share is complete. -/
def reduceSend (i : InstId) (r : Run) (d : Desc) (s : State) : State :=
  match reductionOf s i r d (deviceNumber s) with
  | some x => x.send s r
  | none => s

/-- The share of a failed member that this device carries on, reduced in the member's place (R307). -/
def reduceShadow (i : InstId) (r : Run) (d : Desc) (s : State) (h : Shadow) : Option State :=
  let img := r.adm.image
  (reductionOf s i r d h.device).bind fun x => (x.result s r).map fun y =>
    inShadow s r.adm.job h fun s => writeShare s (h.image img) i r d x y.1 (h.owns img (d.opr 1).object)

/-- The effect of a REDUCE whose contributions are all held and whose own have all been sent on (R285); the source's tiles are
read once (R19, R35). -/
def reduceDo (i : InstId) (r : Run) (d : Desc) (s : State) : Option State :=
  let img := r.adm.image
  match reductionOf s i r d (deviceNumber s) with
  | none => none
  | some x =>
    if !x.allSent s r then none else
    match x.result s r with
    | none => none
    | some y =>
      let u := countTiles s img.ctx x.o x.eT maxF32 ((List.range x.lay.total).map fun t => x.base + t)
      let u := writeShare (takeFlags u y.2) img i r d x y.1 fun _ => true
      (shadowsOf s r.adm.job).foldl (fun u h => u.bind fun u => reduceShadow i r d u h) (some u)

/-- A collective instance: once its entry round is over it sends what it can, and it runs when its data are there. -/
def onCollective (i : InstId) (op : Nat) (send : Run → Desc → State → State) (go : Run → Desc → State → Option State)
    (s : State) : State :=
  match s.sched.run with
  | none => s
  | some r =>
    match r.adm.image.descs[i.index]? with
    | none => s
    | some d =>
      if d.opcode ≠ op || !mayStart s r i d || s.dev.state == .halt || !entered s r (collectiveNumber r.adm.image i) ||
        !jobRuns s r.adm.job || r.mismatchEnd then s
      else
        let s := send r d s
        match go r d s with
        | none => s
        | some _ => onInstance s i op fun r d s => (go r d s).getD s

/-- REDUCE (R285). -/
def execReduce (i : InstId) (s : State) : Host.Outcome State Fault Refusal :=
  done (onCollective i 0x09 (reduceSend i) (reduceDo i) s)

/-! ### GATHER (R284, R289) -/

/-- The version of a shard that a micro-batch has recorded, by object and owner (R197). -/
def recordedVersion (r : Run) (mb object owner : Nat) : Option Nat :=
  (r.recorded.find? fun x => x.1 == mb && x.2.1 == object && x.2.2.1 == owner).map fun x => x.2.2.2

/-- The version at which a shard on this device is served to a micro-batch: the recorded one where one is recorded (R197). -/
def servedVersion (r : Run) (o : Obj) (mb owner : Nat) : Nat := (recordedVersion r mb o.entry.object owner).getD o.version

/-- A tile of a shard at a version: the slot that holds it (R196); an absent tile of a gradient is zeros (R180). -/
def servedTile (o : Obj) (v t : Nat) : List Byte :=
  if o.entry.role = .gradient && !o.present.contains t then List.replicate o.entry.format.tileBytes 0 else
  Mem.bytes (if v != o.version && o.changed.contains t then o.prev else o.data) (o.entry.tileBase t) o.entry.format.tileBytes

/-- Writes a copied tile: as stored but for what the load path replaces (R19, R34, R35), and measures the stored amax of the
destination (R24, R175). -/
def copyTile (s : State) (img : Image) (n t : Nat) (bs : List Byte) (pres : Bool) : State :=
  match objFor s img n with
  | none => s
  | some o =>
    let b := cleanTile o.entry.format bs
    let s := setObj (ensureObj s img n) img.ctx n fun o => o.putTile t b pres
    if o.entry.format.isTiled then
      let eT := scaleOf s img.ctx o.entry
      let m := Mem.splice [] 0 b
      let vs := ((List.range 128).map fun c => (List.range 64).map fun k => (readElem o.entry.format eT m 0 k c).1.dy).flatten
      recordStats s img.ctx o.entry { stored := amaxBits (maxAbs vs) }
    else s

/-- The previous stage's device (R289). -/
def previousStage (s : State) (b : JobBox) : Nat :=
  let ext := extents (inForce s 4)
  let c := nodeCoords ext.1 ext.2.1 (nodeOf s)
  let back (x o e m : Nat) : Nat := (o + ((x + m - o) % m + e - 1) % e) % m
  let n := match b.stage with
    | 1 => (back c.1 b.ox b.ex ext.1, c.2.1, c.2.2)
    | 2 => (c.1, back c.2.1 b.oy b.ey ext.2.1, c.2.2)
    | _ => (c.1, c.2.1, back c.2.2 b.oz b.ez ext.2.2)
  8 * (n.1 + ext.1 * (n.2.1 + ext.2.1 * n.2.2)) + s.board.position.toNat

/-- What a GATHER needs to know of its source: the object as its readers meet it, the first tile, the collective's number, and
the layout of the destination from this device's seat. -/
structure Gathering where
  o : Obj
  base : Nat
  coll : Nat
  lay : Layout
  param : Bool
  deriving DecidableEq, Repr

/-- The gathering of an instance, the shares of the whole destination or, for a stage transfer, one share of its own. -/
def gatheringOf (s : State) (i : InstId) (r : Run) (d : Desc) : Option Gathering :=
  let img := r.adm.image
  match readerView s img (d.opr 0).object, img.entry (d.opr 1).object with
  | some src, some w =>
    let p := partyOf s r.adm.job (d.param 0)
    let alone : Party := ⟨[p.device % 8], [p.device / 8], 0, 0, none, p.device⟩
    some { o := src.1, base := baseOf d 0 i, coll := collectiveNumber img i,
           lay := ⟨if d.param 0 = 2 then alone else p,
             if d.param 0 = 2 then src.1.entry.tiles - baseOf d 0 i else w.tiles - baseOf d 1 i, src.1.entry.format.tileBytes⟩,
           param := src.1.entry.role == .parameter }
  | _, _ => none

/-- A chunk of a shard that this device holds, its own or a carried one's, as it serves it. -/
def servedPart (s : State) (r : Run) (o : Obj) (l : Layout) (base mb owner c : Nat) : Part :=
  let v := servedVersion r o mb owner
  let ts := (List.range (l.tiles c).length).map fun k => base + c % l.perShare * l.tilesPerChunk + k
  ⟨ts.map fun t => servedTile o v t, (List.range ts.length).filter fun k => presenceOf [(o, [at' ts k 0])], ownFlags s r, v⟩

/-- The part of a chunk of some share, if this device has it: from its own shard, a shard it carries on (R307), or a held chunk
at the version that the micro-batch recorded, whichever device has sent it on; once the micro-batch has confirmed, a rebuilt
shard's contents at whatever version they have (R308). -/
def Gathering.part (x : Gathering) (s : State) (i : InstId) (r : Run) (c : Nat) : Option Part :=
  let share := c / x.lay.perShare
  let owner := x.lay.party.owner share
  let carried := (shadowsOf s r.adm.job).find? fun h => h.device == owner &&
    h.owns r.adm.image x.o.entry.object (x.base + c % x.lay.perShare * x.lay.tilesPerChunk)
  let want := if x.param && !r.confirmed.contains i.mb then recordedVersion r i.mb x.o.entry.object owner else none
  if share = x.lay.party.share then some (servedPart s r x.o x.lay x.base i.mb owner c)
  else match carried.bind fun h => h.ctx.objects.find? fun o => o.entry.object == x.o.entry.object with
    | some o => some (servedPart s r o x.lay x.base i.mb owner c)
    | none => (heldChunk s r x.coll fun k => k.h.chunk == c && (match want with | some v => k.info.version == v | none => true)).map
        fun k => k.part x.lay.size

/-- The shares that an instance gathers (R284 Table 7): across nodes without the fan-out, those of the own position rank. -/
def Gathering.shares (x : Gathering) (d : Desc) : List Nat :=
  (List.range x.lay.party.count).filter fun sh =>
    d.param 0 == 0 || d.param 1 % 2 == 1 || sh / x.lay.party.nodes.length == x.lay.party.a

/-- The phases in which this device sends a chunk on (R284): its own in every phase, one that an axis phase brought in the
phases after it and along that axis where the axis goes on, one that the node phase brought in none. -/
def Gathering.phases (x : Gathering) (d : Desc) (c : Nat) : List Nat :=
  let p := x.lay.party
  let share := c / x.lay.perShare
  let node := if (d.param 0 == 0 || d.param 1 % 2 == 1) && decide (1 < p.positions.length) then [0] else []
  if share / p.nodes.length ≠ p.a then []
  else match p.box with
    | none => []
    | some b =>
      let differs (ax : Nat) : Bool := axisCoord b ax (share % p.nodes.length) != axisCoord b ax p.b
      let came := (p.axes.filter differs).getLast?
      (p.axes.filter fun ax => match came with
        | none => true
        | some y => decide (y < ax) || (y == ax && decide (2 < axisExtent b ax))) ++ node

/-- Sends what can be sent, each chunk once in each of its phases. -/
def gatherSend (i : InstId) (r : Run) (d : Desc) (s : State) : State :=
  match gatheringOf s i r d with
  | none => s
  | some x =>
    if d.param 0 = 2 then x.lay.chunks.foldl (fun t c => sendChunk t r x.coll c 0 (servedPart s r x.o x.lay x.base i.mb 0 c)) s
    else x.lay.chunks.foldl (fun t c => match x.part s i r c with
      | some p => (x.phases d c).foldl (fun t phase => sendChunk t r x.coll c phase p) t
      | none => t) s

/-- Writes the tiles of a received part from a destination tile on; tiles that hold no real token are left (R60). -/
def copyPart (s : State) (img : Image) (i : InstId) (r : Run) (d : Desc) (tiles : List Nat) (p : Part) : State :=
  match img.entry (d.opr 1).object with
  | none => s
  | some w =>
    let b := baseOf d 1 i
    tiles.zipIdx.foldl (fun s t =>
      if tileReal r i d w b (b + t.1) then copyTile s img w.object (b + t.1) (at' p.tiles t.2 []) (p.present.contains t.2) else s)
      (takeFlags s p.flags)

/-- A stage transfer (R289): it waits for the previous stage's chunks, and for its own to be taken. -/
def stageDo (i : InstId) (r : Run) (d : Desc) (b : JobBox) (s : State) : Option State :=
  match gatheringOf s i r d, r.adm.image.entry (d.opr 1).object with
  | some x, some w =>
    let l : Layout := { x.lay with total := w.tiles - baseOf d 1 i }
    let parts := l.chunks.map fun c => (partFrom s r x.coll l.size c 0 (previousStage s b)).map fun p => (c, p)
    let taken := !s.fabric.unacked.any fun c => c.h.job == r.adm.job && c.h.step == r.adm.step && c.h.collective == x.coll
    if parts.all (fun p => p.isSome) && taken then
      some ((parts.filterMap id).foldl (fun s p => copyPart s r.adm.image i r d (l.tiles p.1) p.2) s)
    else none
  | _, _ => none

/-- The versions of the shards that a micro-batch has gathered, recorded once each (R197). -/
def recordVersions (i : InstId) (x : Gathering) (ps : List (Nat × Part)) (s : State) : State :=
  setRun s fun r => { r with recorded := ps.foldl (fun l p =>
    let owner := x.lay.party.owner (p.1 / x.lay.perShare)
    if l.any fun y => y.1 == i.mb && y.2.1 == x.o.entry.object && y.2.2.1 == owner then l
    else (i.mb, x.o.entry.object, owner, p.2.version) :: l) r.recorded }

/-- One record for each shard that a micro-batch meets after its confirmation at another version than it recorded (R308, R313). -/
def replacedShards (i : InstId) (r : Run) (x : Gathering) (ps : List (Nat × Part)) (s : State) : State :=
  (ps.map fun p => (x.lay.party.owner (p.1 / x.lay.perShare), p.2.version)).eraseDups.foldl (fun s o =>
    match recordedVersion r i.mb x.o.entry.object o.1 with
    | some v => if x.param && v != o.2 then tally s 0x02A4 islandCollective 2 i.mb x.o.entry.object (lo32 v) (lo32 o.2) else s
    | none => s) s

/-- The effect of a GATHER whose shards are all held and whose own chunks have gone. -/
def gatherDo (i : InstId) (r : Run) (d : Desc) (s : State) : Option State :=
  if d.param 0 = 2 then (partyOf s r.adm.job 1).box.bind fun b => stageDo i r d b s
  else match gatheringOf s i r d with
    | none => none
    | some x =>
      let cs := ((x.shares d).map x.lay.ofShare).flatten
      let parts := cs.map fun c => (x.part s i r c).map fun p => (c, p)
      let sent := cs.all fun c => (x.phases d c).all fun phase => wasSent s x.coll c phase
      if !sent || !parts.all (fun p => p.isSome) then none else
      let ps := parts.filterMap id
      let s := countTiles s r.adm.image.ctx x.o (scaleOf s r.adm.image.ctx x.o.entry) maxF32
        ((List.range (shareTiles x.lay.party x.lay.total x.lay.party.share).length).map fun t => x.base + t)
      let s := ps.foldl (fun s p => copyPart s r.adm.image i r d (x.lay.tiles p.1) p.2) s
      some (if x.param && (mbLoopOf r.adm.image d).isSome then recordVersions i x ps (replacedShards i r x ps s) else s)

/-- GATHER (R284). -/
def execGather (i : InstId) (s : State) : Host.Outcome State Fault Refusal :=
  done (onCollective i 0x0A (gatherSend i) (gatherDo i) s)

/-! ### BARRIER and SCALE_SYNC -/

/-- BARRIER (R54): joins its predecessors; job-wide it ends with its entry round. -/
def execBarrier (i : InstId) (s : State) : Host.Outcome State Fault Refusal :=
  done (match s.sched.run with
    | none => s
    | some r =>
      match r.adm.image.descs[i.index]? with
      | none => s
      | some d =>
        if d.jobWide && (!entered s r (collectiveNumber r.adm.image i) || !jobRuns s r.adm.job) then s
        else onInstance s i 0x0F fun _ _ s => s)

/-- The scale entries that a SCALE_SYNC descriptor names (R52). -/
def syncEntries (img : Image) (d : Desc) : List Nat :=
  let n := img.scales.length
  let k := if d.param 1 = 0 then n - d.param 0 else d.param 1
  (List.range k).map fun j => d.param 0 + j

/-- The entries that no SCALE_SYNC of the image names (R30). -/
def implicitEntries (img : Image) : List Nat :=
  (List.range img.scales.length).filter fun e =>
    !img.descs.any fun d => d.opcode == 14 && (syncEntries img d).contains e

/-- An entry's record made to agree with the other devices of the job (R29). -/
def mergeRecord (e : ScaleEntry) (parts : List ScalePart) : ScaleEntry :=
  parts.foldl (fun e p =>
    { e with raw := if e.raw.toNat < p.raw.toNat then p.raw else e.raw,
             stored := if e.stored.toNat < p.stored.toNat then p.stored else e.stored,
             sat := capAt (2 ^ 32 - 1) (e.sat + p.sat), nonfiniteCount := capAt 65535 (e.nonfiniteCount + p.nonfiniteCount),
             nonfinite := e.nonfinite || p.nonfinite }) e

/-- An entry with an empty record. -/
def ScaleEntry.blank (e : ScaleEntry) : ScaleEntry :=
  { e with sat := 0, nonfiniteCount := 0, nonfinite := false, raw := 0, stored := 0 }

/-- Computes the next values of entries and holds them beside the entries (R27, R30). `own` tells whether this device's own
record counts: not in a JOB_WIDE sync of a device none of whose micro-batches contributes (R29). -/
def syncScales (s : State) (ctx : Nat) (es : List Nat) (own : Bool) (parts : List ScalePart) : State :=
  es.foldl (fun s e => setScale s ctx e fun x =>
    let y := mergeRecord (if own then x else x.blank) (parts.filter fun p => p.entry == e)
    { y with next := some y.sync }) s

/-- Whether a descriptor reads or writes an object that uses one of some scale entries (R30). -/
def touchesScales (img : Image) (d : Desc) (es : List Nat) : Bool :=
  (objectsTouched img d).any fun n => match img.entry n with | some e => es.contains e.scale | none => false

/-- SCALE_SYNC (R27 to R30): an explicit one, or the implicit one, which stands after the last descriptor. -/
def execScaleSync (i : InstId) (parts : List ScalePart) (s : State) : Host.Outcome State Fault Refusal :=
  done (match s.sched.run with
    | none => s
    | some r =>
      let img := r.adm.image
      if i = ⟨0, 0, img.descs.length⟩ then
        if !r.executed.contains i && (img.insts.all (instDone r)) then
          markExecuted (syncScales s img.ctx (implicitEntries img) true []) i
        else s
      else
        match img.descs[i.index]? with
        | none => s
        | some d =>
          let es := syncEntries img d
          let ready := img.insts.all fun j => j == i || instDone r j ||
            (match img.descs[j.index]? with | some x => !touchesScales img x es | none => true)
          if ready && (!d.jobWide || (entered s r (collectiveNumber img i) && jobRuns s r.adm.job)) then
            onInstance s i 0x0E fun r d s => syncScales s r.adm.ctx es (!d.jobWide || contributes r) (if d.jobWide then parts else [])
          else s)

/-! ### The norm collective (R184, R185, R37) -/

/-- This device's partial Q_d: tile sums in object-table and tile order, those of carried shards after its own, each tile
once, as it was last written. -/
def partialQ (r : Run) : Word :=
  let own := r.adm.image.objects.map fun e => e.object
  let os := own ++ sortBy (fun o => o) (((r.tileSums.map fun x => x.1).filter fun o => !own.contains o).eraseDups)
  let sums := (os.map fun o => (sortBy (fun t => t) ((r.tileSums.filter fun x => x.1 == o).map fun x => x.2.1).eraseDups).filterMap
    fun t => (r.tileSums.find? fun x => x.1 == o && x.2.1 == t).map fun x => x.2.2).flatten
  sums.foldl f32Add 0

/-- The contributions in increasing device number. -/
def insertPart (x : NormPart) : List NormPart → List NormPart
  | [] => [x]
  | y :: l => if x.device ≤ y.device then x :: y :: l else y :: insertPart x l

/-- Skips the update of the step (R37, R155, R184, R245). -/
def skipUpdate (s : State) (r : Run) (cause nC : Nat) : State :=
  let s := tally s 0x0250 islandForeman 2 cause (lo32 r.adm.step) (hi32 r.adm.step) nC
  let s := count s r.adm.job fun c => match cause with
    | 1 => { c with skip1 := c.skip1 + 1 } | 2 => { c with skip2 := c.skip2 + 1 }
    | 3 => { c with skip3 := c.skip3 + 1 } | _ => { c with skip4 := c.skip4 + 1 }
  let s := setRecord s r.adm.job r.adm.step fun x => { x with skipped := true, skipCause := cause }
  clearGradients s r.adm.job r.adm.ctx

/-- NORM_COLLECTIVE (R184): after every write of a gradient and before any UPDATE. -/
def execNormCollective (others : List NormPart) (s : State) : Host.Outcome State Fault Refusal :=
  done (match s.sched.run with
    | none => s
    | some r =>
      let img := r.adm.image
      let ready := r.norm.isNone && (firstUpdate img).isSome && entered s r (normNumber img) && jobRuns s r.adm.job &&
        !r.mismatchEnd && img.insts.all fun j => instDone r j ||
          (match img.descs[j.index]? with | some d => !writesGradient img d | none => true)
      if !ready then s else
      let mine : NormPart := ⟨deviceNumber s, partialQ r, img.micro - r.dropped.length,
        gradientNonfinite s img || r.peerFlags.getLsbD 0, appendFlag r || r.peerFlags.getLsbD 1,
        r.tierLoss || r.peerFlags.getLsbD 2⟩
      let parts := (mine :: others).foldr insertPart []
      let q := match parts with | [] => 0 | x :: l => l.foldl (fun a p => f32Add a p.q) x.q
      let nC := (parts.map fun p => p.n).sum
      let n := f32OfInt (BitVec.ofNat 32 nC)
      let cause := if (parts.any fun p => p.nonfinite) || decide (ieee32.infBits ≤ q.toNat % 2 ^ 31) then 1
        else if parts.any fun p => p.append then 2 else if nC = 0 then 3
        else if parts.any fun p => p.tier then 4 else 0
      let s := setRun s fun r => { r with norm := some ⟨q, nC, f32Div (f32Sqrt q) n, cause⟩ }
      let s := setRecord s r.adm.job r.adm.step fun x => { x with nC }
      let s := { s with fabric := { s.fabric with retained := s.fabric.retained.filter fun x => x.2.1 != r.adm.ctx } }
      if cause = 0 then s else skipUpdate s r cause nC)

/-! ### Version confirmation (R197, R198) -/

/-- The record of a scale entry as the contributing micro-batches made it, from what it held when the step began. -/
def contributedRecord (r : Run) (k : Nat) (e : ScaleEntry) : ScaleEntry :=
  let b := at' r.scales k {}
  (r.parts.filter fun p => p.2.1 == k && (match p.1 with | none => true | some mb => !r.dropped.contains mb)).foldl
    (fun e p => e.record p.2.2)
    { e with sat := b.sat, nonfiniteCount := b.nonfiniteCount, nonfinite := b.nonfinite, raw := b.raw, stored := b.stored }

/-- The scale records of the step without what a dropped micro-batch added (R29, R37, R198). -/
def recountScales (s : State) : State :=
  match s.sched.run with
  | none => s
  | some r => (r.parts.map fun p => p.2.1).eraseDups.foldl (fun s k => setScale s r.adm.ctx k (contributedRecord r k)) s

/-- Frees the filter buffers that instances of a dropped micro-batch hold without having started (R176). -/
def freeFilters (s : State) (gone : InstId → Bool) : State :=
  { s with islands := { s.islands with saplings := s.islands.saplings.map fun x =>
      { x with buffers := x.buffers.map fun b => match b with | some i => if gone i.1 then none else b | none => none } } }

/-- Ends the retention of the versions that this device's micro-batch has confirmed (R197). -/
def releaseVersions (s : State) (ctx mb : Nat) : State :=
  { s with fabric := { s.fabric with retained := s.fabric.retained.filter fun x =>
      !(x.1 == deviceNumber s && x.2.1 == ctx && x.2.2.1 == mb) } }

/-- Drops a micro-batch (R59, R198): its unstarted instances are skipped, its statistics leave the step's record, the filters
loaded for it are freed, and the versions retained for it are given up (R197). -/
def dropMicro (s : State) (r : Run) (mb : Nat) : State :=
  if r.dropped.contains mb then s else
  let s := recountScales (setRun s fun r => { r with dropped := mb :: r.dropped })
  let skipped (i : InstId) : Bool := match r.adm.image.descs[i.index]? with
    | some d => (mbLoopOf r.adm.image d).isSome && i.mb == mb && !r.executed.contains i
    | none => false
  let s := releaseVersions (freeFilters s skipped) r.adm.ctx mb
  let s := count s r.adm.job fun c => { c with dropped := c.dropped + 1 }
  setRecord s r.adm.job r.adm.step fun x => { x with dropped := x.dropped + 1 }

/-- Whether a version that a micro-batch recorded is still the current or the previous one at its owner: this device's own
shards and those it carries on are looked up, another owner answers. None while that answer is missing. -/
def versionKnown (s : State) (r : Run) (answers : List VersionAnswer) (x : Nat × Nat × Nat × Nat) : Option Bool :=
  let known (o : Option Obj) : Option Bool := o.map fun o => x.2.2.2 == o.version || x.2.2.2 == o.prevVersion
  if x.2.2.1 = deviceNumber s then known (objAt s r.adm.ctx x.2.1)
  else match (shadowsOf s r.adm.job).find? fun h => h.device == x.2.2.1 with
    | some h => known (h.ctx.objects.find? fun o => o.entry.object == x.2.1)
    | none => (answers.find? fun a => a.object == x.2.1 && a.owner == x.2.2.1).map fun a => a.known

/-- VERSION_CONFIRM (R197): before a micro-batch first writes a gradient, every recorded version is confirmed with its
owner; one that is neither current nor previous drops the micro-batch (R198), which each mismatch records and counts (R199).
The device retains what it has confirmed of its own shards. -/
def execVersionConfirm (mb : Nat) (answers : List VersionAnswer) (s : State) : Host.Outcome State Fault Refusal :=
  done (match s.sched.run with
    | none => s
    | some r =>
      let recs := r.recorded.filter fun x => x.1 == mb
      if recs.isEmpty || r.confirmed.contains mb || r.dropped.contains mb then s else
      if !recs.all fun x => (versionKnown s r answers x).isSome then s else
      let bad := recs.filter fun x => versionKnown s r answers x == some false
      if bad.isEmpty then
        let own := (recs.filter fun x => x.2.2.1 == deviceNumber s).map fun x => (deviceNumber s, r.adm.ctx, mb, x.2.1, x.2.2.2)
        setRun { s with fabric := { s.fabric with retained := own ++ s.fabric.retained } } fun r => { r with confirmed := mb :: r.confirmed }
      else
        let s := bad.foldl (fun s b => tally (count s r.adm.job fun c => { c with mismatches := c.mismatches + 1 })
          0x0252 islandForeman 2 mb b.2.1 (lo32 b.2.2.2) b.2.2.1) s
        dropMicro s r mb)

/-! ### Checks (R52, R285, R289, R30) -/

def reduceBad (img : Image) (d : Desc) : Bool :=
  decide (1 < d.param 0) || decide (3 < d.param 1) || d.accumulate ||
  (match img.entry (d.opr 0).object, img.entry (d.opr 1).object with
   | some a, some b =>
     (match d.param 1 with
      | 0 => a.format != .f32
      | 1 => !a.format.isBlock
      | 2 => a.format.isTiled != b.format.isTiled || (!a.format.isTiled && a.format != b.format)
      | _ => a.format.isTiled || a.format != b.format)
   | _, _ => true)

/-- The checks of GATHER (R284, R285): source, as it is read (R143), and destination have one format. -/
def gatherBad (img : Image) (d : Desc) : Bool :=
  decide (2 < d.param 0) || decide (1 < d.param 1) || d.accumulate ||
  (match img.entry (d.opr 0).object, img.entry (d.opr 1).object with
   | some a, some b => (if isScore img a.object then .ux8 else a.format) != b.format
   | _, _ => true)

def scaleSyncBad (img : Image) (d : Desc) : Bool :=
  d.accumulate || d.loop != noLoop || decide (img.scales.length < d.param 0 + d.param 1) ||
  decide (img.scales.length ≤ d.param 0) ||
  img.descs.any fun x => x.opcode == 14 && decide (x.index < d.index) &&
    (syncEntries img x).any (syncEntries img d).contains

end Sys2Proof.Machine
end

