-- ==== Sys2Proof/Machine/Touch.lean ====
section
/-!
DEFINITION. Which tiles an instance reads and writes (R51, R58), and the hazards that an image must not have
(R58, R119, R143, R152, R185).
Choices of the model, by log entry: 26 DEDUCED.
-/

namespace Sys2Proof.Machine

/-- How much of its object an operand covers from its base: a kx × nx range, the same range in each of so many planes of
K and N tiles, so many consecutive tiles, or everything to the object's end. -/
inductive Cover where
  | range (kx nx : Nat)
  | planes (kx nx count : Nat)
  | tiles (n : Nat)
  | rest
  deriving DecidableEq, Repr

/-- The tiles of a cover. -/
def Cover.list (c : Cover) (e : ObjEntry) (base : Nat) : List Nat :=
  match c with
  | .range kx nx => rangeTiles e base kx nx
  | .planes kx nx n => ((List.range n).map fun h => rangeTiles e (base + h * (e.t0 * e.t1)) kx nx).flatten
  | .tiles n => (List.range n).map fun t => base + t
  | .rest => (List.range (e.tiles - base)).map fun t => base + t

/-- Whether a cover stays inside its object (R51). -/
def Cover.inside (c : Cover) (e : ObjEntry) (base : Int) : Bool :=
  match c with
  | .range kx nx => rangeInside e base kx nx
  | .planes kx nx n => rangeInside e base kx nx && decide (base.toNat + (n - 1) * (e.t0 * e.t1) < e.tiles) &&
      rangeInside e (base + ((n - 1) * (e.t0 * e.t1) : Nat)) kx nx
  | .tiles n => decide (0 ≤ base) && decide (base.toNat + n ≤ e.tiles)
  | .rest => decide (0 ≤ base) && decide (base.toNat < e.tiles)

/-- One operand of a descriptor as the device meets it: its number, its cover, and whether it is read and written. -/
structure Use where
  slot : Nat
  cover : Cover
  reads : Bool
  writes : Bool
  deriving DecidableEq, Repr

/-- The tokens of an operand whose sequences take ⌈T/128⌉ tiles each along N, T being the declared maximum or MAX_LEN under a
length table (R138, R151): the sequences are a table's entries, the length table's, or one. -/
def sequenceTokens (img : Image) (d : Desc) (table : Option ObjEntry) (declared : Nat) : Nat :=
  let lt := img.lentabs[d.lentab]?
  let per := match lt with | some t => ceilDiv t.maxLen 128 | none => ceilDiv declared 128
  let n := match table, lt with
    | some e, _ => seqCount e
    | none, some t => t.s
    | none, none => 1
  128 * (per * n)

/-- The operands of a descriptor by opcode (R52 Table 6 and the chapters of each opcode). -/
def usesOf (img : Image) (d : Desc) : List Use :=
  let p := d.param
  let dim (n k : Nat) : Nat := match img.entry (d.opr n).object with | some e => e.dim k | none => 1
  let table := (img.entry (d.opr 1).object).bind fun e => if e.format.isTiled then none else some e
  let isInt (n : Nat) : Bool := match img.entry (d.opr n).object with | some e => !e.format.isTiled | none => false
  let queries := sequenceTokens img d table (p 1)
  let keys := match img.lentabs[d.lentab]? with | some _ => queries | none => p 2
  let opt (n : Nat) (u : Use) : List Use := if d.uses n then [u] else []
  let acc := d.accumulate
  match d.opcode with
  | 1 =>
    if p 3 % 2 = 1 then [⟨0, .tiles 1, true, false⟩]
    else [⟨0, .range (p 2) (p 0), true, false⟩, ⟨1, .range (p 2) (p 1), true, false⟩, ⟨2, .range (p 0) (p 1), acc, true⟩] ++
      opt 3 ⟨3, .range (p 0) 1, true, false⟩
  | 2 =>
    let sample (n : Nat) : Nat := match img.entry (d.opr n).object with | some e => sampleTiles e | none => 0
    [⟨0, .range (convGeo d).k (convGeo d).cOut, true, false⟩, ⟨1, .tiles (sample 1), true, false⟩,
     ⟨2, .tiles (sample 2), acc, true⟩]
  | 3 =>
    [⟨0, .range (128 * p 0) queries, true, false⟩,
     ⟨1, if isInt 1 then .rest else .range (dim 1 0) keys, true, false⟩, ⟨2, .planes (p 2) queries (p 0), acc, true⟩] ++
      opt 3 ⟨3, .rest, true, false⟩
  | 4 =>
    [⟨0, .planes (p 2) queries (p 0), true, false⟩,
     ⟨1, if isInt 1 then .rest else .range keys (dim 1 1), true, false⟩, ⟨2, .range (128 * p 0) queries, acc, true⟩] ++
      opt 3 ⟨3, .rest, true, false⟩
  | 5 => [⟨0, .range (256 * dim 1 1) (sequenceTokens img d table (p 0)), true, false⟩, ⟨1, .rest, true, true⟩]
  | 6 => [⟨0, .rest, true, false⟩, ⟨1, .rest, true, false⟩, ⟨2, .rest, false, true⟩]
  | 7 =>
    let h := headerOf img d
    (List.range 4).filterMap fun m =>
      let w := headerWindow h m
      if w.1 != 0 then some ⟨m, .tiles (runsOf img d * w.1), true, w.2⟩ else none
  | 8 => [⟨0, .rest, true, true⟩, ⟨1, .rest, true, false⟩, ⟨2, .rest, true, true⟩] ++ opt 3 ⟨3, .rest, true, true⟩
  | 9 => [⟨0, .rest, true, false⟩, ⟨1, .rest, false, true⟩]
  | 10 => [⟨0, .rest, true, false⟩, ⟨1, .rest, false, true⟩]
  | 11 => [⟨0, .tiles (p 0), true, false⟩, ⟨1, .tiles (p 0), false, true⟩]
  | 12 => [⟨0, .rest, false, true⟩, ⟨1, .rest, false, true⟩] ++ opt 2 ⟨2, .rest, false, true⟩
  | _ => []

/-- A range of tiles of one object that an instance touches. -/
structure Touch where
  object : Nat
  tiles : List Nat
  reads : Bool
  writes : Bool
  acc : Bool
  deriving DecidableEq, Repr

/-- What the problems of a packed MATMUL instance touch: each object from its first tile (R100, R102). -/
def packedTouches (img : Image) (i : InstId) (d : Desc) : List Touch :=
  let use (n k x : Nat) (w : Bool) : List Touch := match img.entry n with
    | some e => [⟨n, rangeTiles e 0 k x, !w || d.accumulate, w, d.accumulate⟩]
    | none => []
  ((img.lists.filter fun x => x.1 == i).map fun x => (x.2.map fun p =>
    use p.a p.k p.m false ++ use p.b p.k p.n false ++ use p.c p.m p.n true).flatten).flatten

/-- What one descriptor touches in an iteration, a RECOMPUTE aside. -/
def ownTouches (img : Image) (i : InstId) (d : Desc) : List Touch :=
  packedTouches img i d ++
  ((usesOf img d).filterMap fun u => (img.entry (d.opr u.slot).object).map fun e =>
      (⟨e.object, u.cover.list e (baseOf d u.slot i), u.reads, u.writes, d.accumulate⟩ : Touch)) ++
  (match img.lentabs[d.lentab]? with
   | some t => (match img.entry t.object with
     | some e => [⟨t.object, List.range e.tiles, true, false, false⟩]
     | none => [])
   | none => [])

/-- The descriptors that a RECOMPUTE replays, in index order (R53). -/
def segmentOf (img : Image) (d : Desc) : List Desc :=
  img.descs.filter fun x => decide (d.param 0 ≤ x.index) && decide (x.index ≤ d.param 1)

/-- Inserts an instance in the order of R58. -/
def insertInst (img : Image) (x : InstId) : List InstId → List InstId
  | [] => [x]
  | y :: l => if precedes img x y then x :: y :: l else y :: insertInst img x l

/-- The instances that a RECOMPUTE instance replays: the segment's, in its own iterations, in the order of R58, which within
one iteration is index order (R53). -/
def segmentInsts (img : Image) (i : InstId) (d : Desc) : List InstId :=
  (img.insts.filter fun j => decide (d.param 0 ≤ j.index) && decide (j.index ≤ d.param 1) &&
    ((mbLoopOf img d).isNone || j.mb == i.mb) &&
    (match img.descs[j.index]? with
     | some x => (innerLoop img d).isNone || x.loop != d.loop || j.it == i.it
     | none => false)).foldr (insertInst img) []

/-- What an instance touches: its operands, its length table, and for RECOMPUTE what its segment touches in the same
iterations. -/
def touches (img : Image) (i : InstId) : List Touch :=
  match img.descs[i.index]? with
  | none => []
  | some d =>
    if d.opcode = 13 then ((segmentInsts img i d).map fun j => match img.descs[j.index]? with
      | some x => ownTouches img j x
      | none => []).flatten
    else ownTouches img i d

/-- Whether an instance touches an object. -/
def touchesObject (img : Image) (i : InstId) (n : Nat) : Bool := (touches img i).any fun t => t.object == n

/-- Whether two touched ranges conflict (R58): an overlapping tile that one of them writes, unless both accumulate. -/
def conflict (a b : Touch) : Bool :=
  a.object == b.object && (a.writes || b.writes) && !(a.acc && b.acc && a.writes && b.writes) &&
  a.tiles.any b.tiles.contains

/-- The predecessors of an instance with the implicit ones: the norm collective before every UPDATE joins all writers of
gradients (R184, R185), and a SCALE_SYNC follows every instance that touches its entries (R30). -/
def allPreds (img : Image) (i : InstId) : List InstId :=
  match img.descs[i.index]? with
  | none => []
  | some d =>
    let extra := if d.opcode = 8 then img.insts.filter fun j =>
        match img.descs[j.index]? with | some x => writesGradient img x | none => false
      else if d.opcode = 14 then
        let es := syncEntries img d
        img.insts.filter fun j => decide (j.index < d.index) &&
          (match img.descs[j.index]? with | some x => touchesScales img x es | none => false)
      else []
    addNew (predsOf img i) extra

/-- The instances that a path leads from to a set, the implicit joins included. -/
def ancestorsAll (img : Image) : Nat → List InstId → List InstId
  | 0, l => l
  | n + 1, l =>
    let m := addNew l ((l.map (allPreds img)).flatten)
    if m.length = l.length then l else ancestorsAll img n m

/-- Whether a path leads from one instance to another (R58). -/
def pathBetween (img : Image) (a b : InstId) : Bool :=
  (ancestorsAll img img.insts.length (allPreds img b)).contains a

/-- Whether a path joins two instances, whichever comes first. -/
def joined (img : Image) (a b : InstId) : Bool := pathBetween img a b || pathBetween img b a

/-- The sequence table of an attention or append descriptor, if it names one (R152). -/
def tableOf (img : Image) (d : Desc) : Option Nat :=
  match d.opcode with
  | 3 => if (match img.entry (d.opr 1).object with | some e => !e.format.isTiled | none => false) then some (d.opr 1).object else none
  | 4 => if (match img.entry (d.opr 1).object with | some e => !e.format.isTiled | none => false) then some (d.opr 1).object else none
  | 5 => some (d.opr 1).object
  | 6 => some (d.opr 1).object
  | _ => none

/-- Whether an instance touches rows of a score object that an ATTN_SCORE writes, on whatever key tiles (R143). -/
def scoreRowsMet (img : Image) (writer other : InstId) : Bool :=
  match img.descs[writer.index]? with
  | some d => d.opcode == 3 && (match img.entry (d.opr 2).object with
    | some e => (touches img writer).any fun w => w.object == e.object && w.writes && (touches img other).any fun r =>
        r.object == e.object && r.tiles.any fun t => w.tiles.any fun u => (e.tilePos t).2 == (e.tilePos u).2
    | none => false)
  | none => false

/-- Whether two instances that no path joins make a hazard (R58, R143, R152). -/
def hazardPair (img : Image) (a b : InstId) : Bool :=
  let tiles := (touches img a).any fun x => (touches img b).any fun y => conflict x y
  let special := match img.descs[a.index]?, img.descs[b.index]? with
    | some x, some y =>
      (x.opcode == 3 && y.opcode == 3 && (x.opr 2).object == (y.opr 2).object) ||
      ((x.opcode == 5 || y.opcode == 5) && (tableOf img x).isSome && tableOf img x == tableOf img y)
    | _, _ => false
  (tiles || special || scoreRowsMet img a b || scoreRowsMet img b a) && !joined img a b

/-- The descriptor that a hazard of an image is named by, none where it has none: two UPDATEs of one parameter (R185),
windows of one VEC (R119), and pairs of instances without a path (R58). The higher INDEX is named. -/
def hazardOf (img : Image) : Option Nat :=
  let l := img.insts
  let twice := img.descs.find? fun d => d.opcode == 8 && (decide (1 < (instsOf img d.index).length) ||
    img.descs.any fun x => x.opcode == 8 && decide (x.index < d.index) && (x.opr 0).object == (d.opr 0).object)
  let windows := img.descs.find? fun d => d.opcode == 7 && ((instsOf img d.index).any fun i => vecHazard img d i)
  let pairs := l.findSome? fun a => l.findSome? fun b =>
    if precedes img a b && a != b && hazardPair img a b then some (max a.index b.index) else none
  match twice, windows, pairs with
  | some d, _, _ => some d.index
  | none, some d, _ => some d.index
  | none, none, p => p

/-- Whether every operand of a descriptor stays inside its object in the first and last iterations of its loops, and
every touched object is named by the image (R51, R118). -/
def operandsInside (img : Image) (d : Desc) : Bool :=
  let corners : List InstId := [⟨0, 0, d.index⟩, ⟨mbCount img d - 1, 0, d.index⟩, ⟨0, innerCount img d - 1, d.index⟩,
    ⟨mbCount img d - 1, innerCount img d - 1, d.index⟩]
  (usesOf img d).all fun u =>
    match img.entry (d.opr u.slot).object with
    | some e => corners.all fun i => u.cover.inside e (baseTile d u.slot i)
    | none => false

/-- Whether a step of the image uses an object: a descriptor names it as an operand (R51), in a problem list or through a
length table. -/
def usesObject (img : Image) (n : Nat) : Bool := img.descs.any fun d => (objectsNamed img d).contains n

end Sys2Proof.Machine
end

