-- ==== Sys2Proof/Machine/Moves.lean ====
section
/-!
DEFINITION. MOVE, the derived moves, SLUICE_TAKE and RECOMPUTE (R53, R235 to R245, R264), and their checks.
Choices of the model, by log entry: 32 DEDUCED, 33 DEDUCED, 60 DEDUCED.
-/

namespace Sys2Proof.Machine

/-! ### MOVE (R241) -/

/-- One tile of a MOVE: bytes as stored between equal formats, conversion at the destination's E_T from a BX8 source with
NARROW to BX4. The source tile is read (R19, R35); a gradient tile that is not present moves zeros (R180). -/
def moveTile (s : State) (img : Image) (src : Obj) (dst t u : Nat) : State :=
  let pres := presenceOf [(src, [t])]
  match objFor s img dst with
  | none => s
  | some o =>
    if src.entry.format = o.entry.format then
      let absent := src.entry.role = .gradient && !src.present.contains t
      let b := if absent then List.replicate src.entry.format.tileBytes (0 : Byte)
        else Mem.bytes src.data (src.entry.tileBase t) src.entry.format.tileBytes
      copyTile (countTiles s img.ctx src (scaleOf s img.ctx src.entry) maxF32 [t]) img dst u b pres
    else
      let eS := scaleOf s img.ctx src.entry
      let s := countTiles s img.ctx src eS maxF32 [t]
      writeTile s img dst u (fun k n => FVal.ofDy (src.value eS maxF32 t k n)) pres

/-- The effect of MOVE, tile by tile; a tile that holds no real token makes no work (R60). -/
def moveDo (i : InstId) (r : Run) (d : Desc) (s : State) : State :=
  let img := r.adm.image
  match oprObj s img d 0 with
  | none => s
  | some o => ((List.range (d.param 0)).filter fun t => tileReal r i d o.entry (baseOf d 0 i) (baseOf d 0 i + t)).foldl (fun s t =>
      moveTile s img o (d.opr 1).object (baseOf d 0 i + t) (baseOf d 1 i + t)) s

/-- MOVE (R241). -/
def execMove (i : InstId) (s : State) : Host.Outcome State Fault Refusal := done (onInstance s i 0x0B (moveDo i))

/-- The checks of MOVE (R52, R140, R241, R413). -/
def moveBad (img : Image) (d : Desc) : Bool :=
  d.param 0 == 0 || d.accumulate ||
  (match img.entry (d.opr 0).object, img.entry (d.opr 1).object with
   | some a, some b =>
     !(a.format == b.format || (a.format == .bx8 && a.narrow && b.format == .bx4)) ||
     isScore img a.object || isScore img b.object
   | _, _ => true)

/-! ### Derived moves (R242 to R245) -/

/-- Persistent roles (R231). -/
def Role.persistent : Role → Bool
  | .parameter => true
  | .moment => true
  | .other => true
  | _ => false

/-- The instances of a micro-batch iteration that touch an object, in the order of R58. -/
def objectUses (img : Image) (n mb : Nat) : List InstId :=
  (img.insts.filter fun i => i.mb == mb && touchesObject img i n).foldr (insertInst img) []

/-- Instances between two in the order of R58. -/
def between (img : Image) (u v : InstId) : Nat :=
  img.insts.countP fun j => precedes img u j && precedes img j v && j != u && j != v

/-- The widest gap of an object's uses in an iteration, the earliest of equals (R243). -/
def widestGap (img : Image) (n mb : Nat) : Option (InstId × InstId) :=
  let l := objectUses img n mb
  (l.zip l.tail).foldl (fun best p => match best with
    | none => some p
    | some q => if between img q.1 q.2 < between img p.1 p.2 then some p else some q) none

/-- The tiles of an object that an iteration touches. -/
def iterationTiles (img : Image) (n mb : Nat) : List Nat :=
  ((objectUses img n mb).map fun i => ((touches img i).filterMap fun t =>
    if t.object = n then some t.tiles else none).flatten).flatten

/-- Narrows one tile of a BX8 object in place (R31, R232, R241): the codes of BX4 at the object's own E_T, each held as 16
times itself. -/
def narrowTile (s : State) (ctx n t : Nat) : State :=
  match objAt s ctx n with
  | none => s
  | some stored =>
    let o := stored.dense
    let eT := scaleOf s ctx o.entry
    let blk (c h : Nat) : Nat × List Int × Stats :=
      let b := quantBlock .bx4 eT ((List.range 32).map fun k => FVal.ofDy (o.value eT maxF32 t (32 * h + k) c))
      if o.entry.real t (32 * h) c then b else (0, b.2.1, b.2.2)
    let cols := (List.range 128).map fun c => (blk c 0, blk c 1)
    let b := (cols.map fun c => BitVec.ofNat 8 (c.1.1 + 16 * c.2.1)) ++
      (cols.map fun c => packCodes 8 ((c.1.2.1 ++ c.2.2.1).map fun q => 16 * q)).flatten
    let st := cols.foldl (fun st c => (st.merge c.1.2.2).merge c.2.2.2) (o.loadStats eT maxF32 t)
    let s := setObj s ctx n fun o => { o.putTile t b (o.present.contains t) with narrowed := t :: (o.narrowed.filter fun u => u != t) }
    recordStats s ctx o.entry st

/-- Narrows the tiles of an iteration that were written and not narrowed yet. -/
def narrowIteration (s : State) (r : Run) (n mb : Nat) : State :=
  (iterationTiles r.adm.image n mb).foldl (fun s t =>
    match objAt s r.adm.ctx n with
    | some o => if o.written.contains t && !o.narrowed.contains t then narrowTile s r.adm.ctx n t else s
    | none => s) s

/-- The first iteration whose use before the widest gap has completed, whose use after it has not started, and whose move
of this kind has not been made (R243, R244). -/
def gapReady (r : Run) (kind : MoveKind) (n : Nat) : Option Nat :=
  let img := r.adm.image
  (List.range img.micro).find? fun b =>
    !r.moves.contains (kind, n, b) &&
    (match widestGap img n b with
     | some g => instDone r g.1 && !r.executed.contains g.2
     | none => false)

/-- Records a derived move. -/
def moved (s : State) (kind : MoveKind) (n b : Nat) : State := setRun s fun r => { r with moves := (kind, n, b) :: r.moves }

/-- The tiles of an object that a move into T1 finds changed, decoded: none for a corrupt one (R240). -/
def arrivedTiles (o : Obj) (x : Arrival) : List (Nat × Option (List Byte)) :=
  (x.tiles.filter fun t => decide (t.1 < o.entry.tiles)).map fun t => (t.1, seamDecode o t.1 t.2)

/-- A move into T1 of an object of the running step's context (R240, R243, R245). What was coded comes back as it was but for
the tiles that arrive changed. Of a persistent object a corrupt tile is a fatal error; of a transient one it reads as zero, as
all the tiles of a failed lender do, and the step's tier-loss flag is set. -/
def moveIn (s : State) (r : Run) (o : Obj) (x : Arrival) : State :=
  let n := o.entry.object
  let ts := arrivedTiles o x
  let bad := (ts.filter fun t => t.2.isNone).map fun t => t.1
  let tier := if o.entry.tier = 1 then 2 else 3
  match Role.persistent o.entry.role, bad with
  | true, t :: _ => fatalAs 3 s 0x0272 islandForeman n t tier 2
  | keep, _ =>
    let lost := !keep && o.entry.tier == 1 && x.lender.isSome
    let put (m : Mem) (t : Nat) (b : List Byte) : Mem := Mem.splice m (o.entry.slotBase t) (o.entry.storedTile b)
    let zero (m : Mem) (t : Nat) : Mem := put m t (List.replicate o.entry.format.tileBytes 0)
    let data := if lost then [] else ts.foldl (fun m t => match t.2 with | some b => put m t.1 b | none => zero m t.1) o.data
    let s := if lost then
        tally s 0x0273 islandForeman 2 (x.lender.getD 0) o.entry.tiles (lo32 r.adm.step) (hi32 r.adm.step)
      else bad.foldl (fun s t => tally s 0x0272 islandForeman 3 n t tier 1) s
    let s := if lost || !bad.isEmpty then setRun s fun r => { r with tierLoss := true } else s
    moved (setObj s r.adm.ctx n fun y =>
      { y with inT1 := true, data, narrowed := if lost then [] else y.narrowed, lost := lost || !bad.isEmpty || y.lost }) .fetch n 0

/-- Whether an object is held by a MEMORY command's mapping (R235, R326). -/
def aditHolds (s : State) (ctx n : Nat) : Bool := s.mem.adit == some (ctx, n)

/-- The T3 capacity that the registered regions give, and what the objects held there take at the worst case (R235). -/
def t3Capacity (s : State) : Nat := (s.mem.regions.map fun x => x.bytes).sum
def t3Held (s : State) : Nat :=
  (s.ctxs.map fun c => (c.objects.map fun o =>
    if o.t3Copy || (Role.persistent o.entry.role && o.entry.tier == 2) then o.entry.tiles * seamMax o.entry else 0).sum).sum

/-- Whether a persistent object may be evicted (R235). -/
def evictableObj (s : State) (ctx : Nat) (o : Obj) : Bool :=
  Role.persistent o.entry.role && o.inT1 && !o.entry.pin &&
  !((inHand s).any fun a => a.ctx == ctx && usesObject a.image o.entry.object) &&
  !aditHolds s ctx o.entry.object && decide (0 < bits (inForce s 3) 23 16) &&
  (o.t3Copy || decide (t3Held s + o.entry.tiles * seamMax o.entry ≤ t3Capacity s))

/-- Table 3 of R235: whether one evictable object goes before another. -/
def evictsBefore (a b : Nat × Obj) : Bool :=
  let key (x : Nat × Obj) : List Nat := [x.2.entry.age, x.2.lastUse, x.1, x.2.entry.object]
  decide (key a < key b)

/-- The evictable objects in the order of Table 3. -/
def insertObj (x : Nat × Obj) : List (Nat × Obj) → List (Nat × Obj)
  | [] => [x]
  | y :: l => if evictsBefore x y then x :: y :: l else y :: insertObj x l
def evictables (s : State) : List (Nat × Obj) :=
  (((s.ctxs.map fun c => (c.objects.filter (evictableObj s c.number)).map fun o => (c.number, o)).flatten)).foldr insertObj []

/-- Evicts one persistent object to T3 (R236): a READONLY object with a T3 copy moves nothing. Only the current slot
moves. -/
def evictObject (s : State) (ctx : Nat) (o : Obj) : State :=
  let bytes := if o.entry.readonly && o.t3Copy then 0
    else ((List.range o.entry.tiles).map fun t => seamLength o t).sum
  let coded := if bytes = 0 then o.coded else runStep s
  let s := setObj s ctx o.entry.object fun x =>
    { x with inT1 := false, t3Copy := true, prev := [], changed := [], other := none, coded }
  tally s 0x0270 islandForeman 1 o.entry.object ctx (bytes / 4096) (lo32 s.sched.admissions)

/-- Whether an object's T3 home must still be written back in the running step (R232, R243). -/
def writeBackDue (r : Run) (o : Obj) : Bool :=
  let img := r.adm.image
  Role.persistent o.entry.role && o.entry.tier == 2 && !o.entry.readonly && usesObject img o.entry.object &&
  !(r.moves.any fun m => m.1 == .writeBack && m.2.1 == o.entry.object) &&
  (img.insts.any fun i => (touches img i).any fun t => t.object == o.entry.object && t.writes)

/-- The effect of a derived move of the running step. -/
def derivedDo (kind : MoveKind) (n : Nat) (x : Arrival) (r : Run) (s : State) : State :=
  match objAt s r.adm.ctx n with
  | none =>
    match kind with
    | .evict => (match (evictables s).find? fun x => x.2.entry.object == n with
      | some x => evictObject s x.1 x.2
      | none => s)
    | _ => s
  | some o =>
    let e := (r.adm.image.entry n).getD o.entry
    let transient := !Role.persistent e.role
    match kind with
    | .fetch => if o.inT1 || (r.adm.image.entry n).isNone || (!transient && !planFree s r (.fetch n)) then s else moveIn s r o x
    | .narrow =>
      if transient && e.narrow && e.tier == 0 then
        match gapReady r .narrow n with
        | some b => if planFree s r (.narrow n b) then moved (narrowIteration s r n b) .narrow n b else s
        | none => s
      else s
    | .evict =>
      if transient && e.tier != 0 then
        match gapReady r .evict n with
        | some b =>
          if o.inT1 && planFree s r (.out n b) then
            let s := if e.narrow then narrowIteration s r n b else s
            moved (setObj s r.adm.ctx n fun x => { x with inT1 := false, coded := r.adm.step }) .evict n b
          else s
        | none => s
      else match (evictables s).find? fun x => x.2.entry.object == n with
        | some x => evictObject s x.1 x.2
        | none => s
    | .writeBack =>
      if writeBackDue r o && (r.adm.image.insts.all fun i => instDone r i ||
          !(touches r.adm.image i).any fun t => t.object == n && t.writes) && planFree s r (.writeBack n) then
        moved (setObj s r.adm.ctx n fun x => { x with t3Copy := true, coded := r.adm.step }) .writeBack n 0
      else s

/-- DERIVED_MOVE (R243): a move that the Foreman derived for the running step. -/
def execDerivedMove (kind : MoveKind) (object : Nat) (arrival : Arrival) (s : State) : Host.Outcome State Fault Refusal :=
  done (match s.sched.run with
    | none => s
    | some r => if s.dev.state = .halt then s else derivedDo kind object arrival r s)

/-! ### SLUICE_TAKE (R255, R264) -/

/-- The SLUICE_TAKE instances of an image for a stream, in no order. -/
def takesOf (img : Image) (st : Nat) : List InstId :=
  img.insts.filter fun i => match img.descs[i.index]? with | some d => d.opcode == 12 && d.param 0 == st | none => false

/-- The take number of an instance (R255): the step's first number of the stream and its rank in the order of R58. -/
def takeNumber (r : Run) (st : Nat) (i : InstId) : Nat :=
  ((r.adm.takes.find? fun t => t.1 == st).map fun t => t.2.1).getD 0 +
    (takesOf r.adm.image st).countP fun j => precedes r.adm.image j i && j != i

/-- The stream that a take reads, if open. -/
def streamAt (s : State) (st : Nat) : Option Stream := (at' s.streams st {}).stream

/-- Changes an open stream. -/
def setStream (s : State) (st : Nat) (f : Stream → Stream) : State :=
  { s with streams := s.streams.modify st fun x => { x with stream := x.stream.map f } }

/-- The staged slot of a position, or padding where the position was late. -/
def stagedAt (x : Stream) (p : Nat) : Option Staged :=
  match x.staged.find? fun y => y.position == p with
  | some y => some y
  | none => if x.late.contains p then some ⟨p, 0, 0, [], 0⟩ else none

/-- One value of a staged slot: x fastest, then y, z and c. -/
def Staged.value (y : Staged) (c : StreamCfg) (a b z ch : Nat) : FVal :=
  f32 (at' y.values (a + c.outX * (b + c.outY * (z + c.outZ * ch))) 0)

/-- Writes a tile of padding: zeros with block offsets 0, in no statistic (R22). -/
def blankTile (s : State) (img : Image) (n t : Nat) : State :=
  match img.entry n with
  | none => s
  | some e => setObj (ensureObj s img n) img.ctx n fun o => o.putTile t (List.replicate e.format.tileBytes 0) true

/-- Writes one batch slot (R264). -/
def takeSlot (s : State) (r : Run) (y' : InstId) (d : Desc) (c : StreamCfg) (i : Nat) (y : Staged) : State :=
  let img := r.adm.image
  let first := baseOf d 0 y'
  match img.entry (d.opr 0).object with
  | none => s
  | some e =>
    let s := recordStats s img.ctx e { nonfinite := y.nonfinite }
    let s := (List.range (c.outC * c.outZ)).foldl (fun s o =>
      (List.range e.t1).foldl (fun s j1 => (List.range e.t0).foldl (fun s j0 =>
        if !tileReal r y' d e first (e.tileAt j0 j1 (o + c.outZ * c.outC * i)) then s else
        let val (k n : Nat) : FVal := y.value c (64 * j0 + k) (128 * j1 + n) (o % c.outZ) (o / c.outZ)
        if y.validity = 0 then blankTile s img e.object (e.tileAt j0 j1 (o + c.outZ * c.outC * i)) else
        writeTile s img e.object (e.tileAt j0 j1 (o + c.outZ * c.outC * i)) val true) s) s) s
    let s := writeIntBytes s img (d.opr 1).object (4 * i) (leBytes 4 y.validity) {}
    if d.uses 2 then writeIntBytes s img (d.opr 2).object (4 * i) (leBytes 4 y.frames) {} else s

/-- The staged slots of a take, if every position is staged or late. -/
def takeReady (s : State) (r : Run) (i : InstId) (d : Desc) : Option (Stream × List Staged) :=
  match streamAt s (d.param 0) with
  | none => none
  | some x =>
    let first := takeNumber r (d.param 0) i * x.cfg.batch
    let ys := (List.range x.cfg.batch).filterMap fun j => stagedAt x (first + j)
    if ys.length = x.cfg.batch then some (x, ys) else none

/-- The effect of a take. -/
def takeDo (i : InstId) (r : Run) (d : Desc) (s : State) : State :=
  match takeReady s r i d with
  | none => s
  | some x => x.2.zipIdx.foldl (fun s y => takeSlot s r i d x.1.cfg y.2 y.1) s

/-- SLUICE_TAKE (R264): it waits until its positions are staged or late (R265). -/
def execSluiceTake (i : InstId) (s : State) : Host.Outcome State Fault Refusal :=
  done (match s.sched.run with
    | none => s
    | some r =>
      match r.adm.image.descs[i.index]? with
      | none => s
      | some d => if (takeReady s r i d).isSome then onInstance s i 0x0C (takeDo i) else s)

/-- Frees the staging slots of a take that has completed, or that a dropped micro-batch leaves behind (R264). -/
def freeTake (s : State) (st k : Nat) : State :=
  setStream s st fun x =>
    { x with staged := x.staged.filter fun y => !(y.position / x.cfg.batch == k),
             late := x.late.filter fun p => !(p / x.cfg.batch == k), taken := max x.taken (k + 1) }

/-- The checks of SLUICE_TAKE that need the open stream (R264): none, or the status of the refusal. -/
def takeBad (s : State) (img : Image) (d : Desc) : Option Nat :=
  match streamAt s (d.param 0) with
  | none => some St.streamClosed
  | some x =>
    let c := x.cfg
    match img.entry (d.opr 0).object, img.entry (d.opr 1).object with
    | some b, some m =>
      let lens := d.uses 2 && (match img.entry (d.opr 2).object with
        | some l => l.format != .int32 || l.dim 0 != c.batch | none => true)
      if d.param 1 != c.batch || b.format.code != c.outFormat || b.dims != [c.outX, c.outY, c.outZ, c.outC, c.batch] ||
         m.format != .int32 || m.dim 0 != c.batch || lens then some St.invalidField
      else none
    | _, _ => some St.invalidField

/-! ### RECOMPUTE (R53) -/

/-- Clears the tiles that a replayed instance writes: their capacity was released, so they read as zero (R231, R232). -/
def dropTiles (s : State) (ctx : Nat) (t : Touch) : State :=
  if !t.writes then s else
  setObj s ctx t.object fun o =>
    { o with data := t.tiles.foldl (fun m u => Mem.clear m (o.entry.slotBase u) o.entry.tileMax) o.data,
             written := o.written.filter fun u => !t.tiles.contains u,
             present := o.present.filter fun u => !t.tiles.contains u,
             narrowed := o.narrowed.filter fun u => !t.tiles.contains u }

/-- A run in which the instances of a segment work on the groves of the RECOMPUTE that replays them (R63, R72). -/
def replayGroves (r : Run) (i : InstId) (seg : List InstId) : Run :=
  match r.adm.plan.find? fun p => p.item == .inst i with
  | none => r
  | some p =>
    let on (q : Placed) : Placed := if seg.any (fun j => q.item == .inst j) then { q with groves := p.groves } else q
    { r with adm := { r.adm with plan := r.adm.plan.map on } }

/-- Replays one descriptor of a segment in the iterations of the RECOMPUTE; a nested RECOMPUTE replays its own segment, `fuel`
bounding the nesting. A take delivers what it finds staged (R255). Descriptors that write no activation do nothing. -/
def replayInst : Nat → InstId → Run → Desc → State → State
  | 0, _, _, _, s => s
  | fuel + 1, i, r, d, s =>
    match d.opcode with
    | 1 => matmulDo i r d s
    | 2 => if onSapling r.adm.image d then convDo i r d s else convDeal i r d (convDo i r d s)
    | 3 => scoreDo i r d s
    | 4 => applyDo i r d s
    | 6 => selectDo i r d s
    | 7 => vecInstDo i r d s
    | 9 => (reduceDo i r d s).getD s
    | 10 => (gatherDo i r d s).getD s
    | 11 => moveDo i r d s
    | 12 => takeDo i r d s
    | 13 =>
      let img := r.adm.image
      let seg := (segmentInsts img i d).filterMap fun j => (img.descs[j.index]?).map fun x => (j, x)
      let r := replayGroves r i (seg.map fun x => x.1)
      let s := seg.foldl (fun s x =>
        if x.2.opcode = 13 || (x.2.opcode = 12 && (takeReady s r x.1 x.2).isNone) then s
        else (ownTouches img x.1 x.2).foldl (fun s t => dropTiles s r.adm.ctx t) s) s
      seg.foldl (fun s x =>
        let y := readLens s r x.1 x.2
        replayInst fuel x.1 y.2 x.2 { y.1 with fresh := y.1.fresh + 1 }) s
    | _ => s

/-- The effect of RECOMPUTE: the tiles that the segment writes read as zero until it writes them again. -/
def recomputeDo (i : InstId) (r : Run) (d : Desc) (s : State) : State := replayInst (r.adm.image.descs.length + 1) i r d s

/-- Whether the collectives of a RECOMPUTE's segment have their data (R55). -/
def segmentReady (i : InstId) (r : Run) (d : Desc) (s : State) : Bool :=
  (segmentInsts r.adm.image i d).all fun j => match r.adm.image.descs[j.index]? with
    | some x => if x.opcode = 9 then (reduceDo j r x s).isSome else if x.opcode = 10 then (gatherDo j r x s).isSome else true
    | none => true

/-- RECOMPUTE (R53). -/
def execRecompute (i : InstId) (s : State) : Host.Outcome State Fault Refusal :=
  done (match s.sched.run.bind fun r => (r.adm.image.descs[i.index]?).map fun d => segmentReady i r d s with
    | some false => s
    | _ => onInstance s i 0x0D (recomputeDo i))

/-- The checks of RECOMPUTE (R53, R413): all that its segment writes is flagged RECOMPUTE. Read again at SUBMIT, when the
problem lists of packed products are known. -/
def recomputeBad (img : Image) (d : Desc) : Bool :=
  d.accumulate || decide (d.param 1 < d.param 0) || decide (d.index ≤ d.param 1) ||
  (match img.loops[d.loop]? with | some l => decide (d.param 0 < l.first) || decide (l.last < d.param 1) | none => false) ||
  ((segmentOf img d).any fun x => (writtenObjects img x ++ (if x.opcode = 8 then (x.oprs.map fun o => o.object).filter fun n => n != noObject else [])).any
    fun n => match img.entry n with | some e => !e.recompute | none => true)

/-- The checks of SLUICE_TAKE on its own words (R52): the stream's number, an int32 mask and int32 lengths. -/
def takeDescBad (img : Image) (d : Desc) : Bool :=
  let word (n : Nat) : Bool := match img.entry (d.opr n).object with | some e => e.format != .int32 | none => true
  d.accumulate || decide (15 < d.param 0) || word 1 || (d.uses 2 && word 2)

end Sys2Proof.Machine
end

