-- ==== Sys2Proof/Machine/Pool.lean ====
section
/-!
DEFINITION. The shared pool (R146, R229, R234 to R236): what objects, images, pages, placements and staging book in T1,
and the evictions that make room.
-/

namespace Sys2Proof.Machine

def frameBytes : Nat := 16384

/-- The bytes of the body piece of a tile or unit (R229). -/
def bodyBytes (f : Format) : Nat :=
  match f with
  | .bx4 => 4096 | .ux4 => 4096 | .f32 => 32768 | .f16 => 16384 | _ => 8192

/-- The bytes of a tile's record in a side frame, 0 where it has none, and how many such records one frame holds (R229). -/
def sideBytes (e : ObjEntry) : Nat := if !e.format.isBlock then 0 else if e.zeroRun then 1152 else 128
def sidePer (e : ObjEntry) : Nat := if e.zeroRun then 14 else 128

/-- The body and the side frames of n tiles (R229). -/
def bodyFrames (f : Format) (n : Nat) : Nat := if f = .f32 then 2 * n else ceilDiv n (frameBytes / bodyBytes f)
def sideFrames (e : ObjEntry) (n : Nat) : Nat := if sideBytes e = 0 then 0 else ceilDiv n (sidePer e)

/-- The frames of n tiles of an object on one stack (R229): body, side and bit-map frames, each rounded up apart. `slots` is
2 for a parameter shard with both slots (R196). -/
def stackFrames (e : ObjEntry) (n slots : Nat) : Nat :=
  if n = 0 then 0 else slots * (bodyFrames e.format n + sideFrames e n) + ceilDiv n 32768

/-- Tiles of an object on stack k when dealt over w stacks. -/
def tilesOn (tiles w k : Nat) : Nat := (tiles + w - 1 - k) / w

/-- Whether an object books both slots (R196, R229). -/
def slotsOf (e : ObjEntry) : Nat := if e.role = .parameter && !e.readonly then 2 else 1

/-- T1 bytes of a persistent object: tile t on stack t mod 16 (R230). -/
def persistentBytes (e : ObjEntry) : Nat :=
  frameBytes * ((List.range 16).map fun k => stackFrames e (tilesOn e.tiles 16 k) (slotsOf e)).sum

/-- The frames of a score object's statistics area on a stack that holds so many of its groups: 8 bytes a query token and a bit a
tile (R140, R229). -/
def statisticsFrames (e : ObjEntry) (groups : Nat) : Nat := ceilDiv (groups * (1024 + ceilDiv e.t0 8)) frameBytes

/-- T1 bytes of n tiles of a transient object, over the four stacks of a die (R230), a score object's statistics among them. -/
def tilesBytes (score : Bool) (e : ObjEntry) (n : Nat) : Nat :=
  frameBytes * ((List.range 4).map fun k =>
    stackFrames e (tilesOn n 4 k) 1 + if score then statisticsFrames e (tilesOn (ceilDiv n e.t0) 4 k) else 0).sum

/-- T1 bytes of a transient object: tiles that go to the page pool take none (R151). -/
def transientBytes (img : Image) (e : ObjEntry) : Nat :=
  tilesBytes (isScore img e.object) e ((List.range e.tiles).countP fun t => !coveredTile img e.object t)

/-- T1 bytes of a page pool of so many units: body, side and index frames on each stack (R145, R147). -/
def pagePoolBytes (units : Nat) : Nat :=
  frameBytes * ((List.range 16).map fun k =>
    let n := units / 16 + (if k < units % 16 then 1 else 0)
    n + ceilDiv n 16 + ceilDiv n 42).sum

/-- T1 bytes of planes of values held as tiles in the staging format (R251): F32 for an F32 batch, F16 otherwise. -/
def planeBytes (c : StreamCfg) (x y planes : Nat) : Nat :=
  ceilDiv x 64 * ceilDiv y 128 * planes * (if c.outFormat = 0 then 32768 else 16384)
/-- T1 bytes of a stream's staging area (R251). -/
def slotBytes (c : StreamCfg) : Nat := planeBytes c c.outX c.outY (c.outZ * c.outC)
def stagingBytes (c : StreamCfg) : Nat := c.ahead * c.batch * slotBytes c

/-- What one context's persistent objects hold in T1, and its images. -/
def contextBytes (c : Context) : Nat :=
  ((c.objects.filter fun o => Role.persistent o.entry.role && o.inT1).map fun o => persistentBytes o.entry).sum +
  (c.images.map fun i => i.bytes).sum

/-- What an open stream holds: staging and decoded substitutes (R251, R263). -/
def streamBytes (x : Stream) : Nat :=
  stagingBytes x.cfg + (x.substitutes.map fun y => planeBytes x.cfg y.x y.y (y.z * y.c)).sum

/-- In-service T1 less retired frames, the system area and the lending (R234), for a page pool of `units` and a lending of
`lend` GiB. -/
def poolSize (s : State) (units lend : Nat) : Nat :=
  2 ^ 40 - frameBytes * s.flash.frames.length - 2 ^ 32 - 7 * lend * 2 ^ 30 - pagePoolBytes units

/-- The persistent objects that the steps in hand use and T1 does not hold, each booked once (R74). -/
def absentBooked (s : State) : List (Nat × ObjEntry) :=
  (s.ctxs.map fun c => (c.objects.filter fun o => Role.persistent o.entry.role && !o.inT1 &&
    ((inHand s).any fun a => a.ctx == c.number && usesObject a.image o.entry.object)).map fun o => (c.number, o.entry)).flatten

/-- What is booked from the pool besides the page pool (R234), the generation areas of shoring among it (R300). -/
def poolBooked (s : State) : Nat :=
  (s.ctxs.map contextBytes).sum + (s.mem.placements.map fun p => ceilDiv p.bytes frameBytes * frameBytes).sum +
  (s.streams.map fun x => match x.stream with | some y => streamBytes y | none => 0).sum +
  ((inHand s).map fun a => a.booked).sum + ((absentBooked s).map fun x => persistentBytes x.2).sum +
  (s.jobs.map fun j => j.areaBytes).sum

/-- The free bytes of the pool. -/
def poolFree (s : State) : Nat :=
  poolSize s (bits (committed s 2) 31 0) (bits (committed s 3) 5 0) - poolBooked s

/-- Evicts objects in the order of Table 3 of R235, whole ones, until so many bytes are free; none where that cannot be
reached. -/
def makeRoom : Nat → State → Nat → Option State
  | 0, s, need => if need ≤ poolFree s then some s else none
  | n + 1, s, need =>
    if need ≤ poolFree s then some s
    else match evictables s with
      | [] => none
      | x :: _ => makeRoom n (evictObject s x.1 x.2) need

/-- Room for a booking, by eviction if need be. -/
def room (s : State) (need : Nat) : Option State := makeRoom (evictables s).length s need

end Sys2Proof.Machine
end

