-- ==== Sys2Proof/Machine/Image.lean ====
section
/-!
DEFINITION. The step image: its layout (R44 to R60), and its validation in the order of R45.
Choices of the model, by log entry: 24 DEDUCED, 25 DEDUCED, 72 DEDUCED.
-/

namespace Sys2Proof.Machine

/-- A record of n bytes of an image as a number. -/
def recAt (b : List Byte) (off n : Nat) : Nat := leValue ((b.drop off).take n)

/-- A 32-bit two's complement field. -/
def signed32 (v : Nat) : Int := (BitVec.ofNat 32 v).toInt

/-! ### The layout -/

/-- The header of R44 Table 1. -/
structure ImgHeader where
  v : Nat
  deriving DecidableEq, Repr

def ImgHeader.objCount (h : ImgHeader) : Nat := bits h.v 159 128
def ImgHeader.objOffset (h : ImgHeader) : Nat := bits h.v 191 160
def ImgHeader.scaleCount (h : ImgHeader) : Nat := bits h.v 223 192
def ImgHeader.scaleOffset (h : ImgHeader) : Nat := bits h.v 255 224
def ImgHeader.descCount (h : ImgHeader) : Nat := bits h.v 287 256
def ImgHeader.descOffset (h : ImgHeader) : Nat := bits h.v 319 288
def ImgHeader.loopCount (h : ImgHeader) : Nat := bits h.v 335 320
def ImgHeader.lentabCount (h : ImgHeader) : Nat := bits h.v 351 336
def ImgHeader.loopOffset (h : ImgHeader) : Nat := bits h.v 383 352
def ImgHeader.lentabOffset (h : ImgHeader) : Nat := bits h.v 415 384
def ImgHeader.vprogCount (h : ImgHeader) : Nat := bits h.v 431 416
def ImgHeader.mbLoop (h : ImgHeader) : Nat := bits h.v 447 432
def ImgHeader.vprogOffset (h : ImgHeader) : Nat := bits h.v 479 448

/-- An object-table entry (R47 Table 3). -/
def parseObj (v : Nat) : ObjEntry where
  object := bits v 31 0
  format := Format.ofCode (bits v 34 32)
  rank := bits v 37 35
  role := match bits v 42 40 with
    | 0 => .activation | 1 => .parameter | 2 => .gradient | 3 => .moment | _ => .other
  zeroRun := bits v 43 43 == 1
  tier := bits v 45 44
  compress := bits v 46 46 == 1
  narrow := bits v 47 47 == 1
  pin := bits v 48 48 == 1
  readonly := bits v 49 49 == 1
  recompute := bits v 50 50 == 1
  age := bits v 53 51
  scale := bits v 95 64
  dims := (List.range 5).map fun i => bits v (159 + 32 * i) (128 + 32 * i)

/-- A descriptor (R50 Table 4, R51 Table 5). -/
def parseDesc (v : Nat) : Desc where
  opcode := bits v 7 0
  accumulate := bits v 8 8 == 1
  jobWide := bits v 9 9 == 1
  loop := bits v 31 16
  index := bits v 63 32
  deps := (List.range 4).map fun i => bits v (95 + 32 * i) (64 + 32 * i)
  groves := bits v 207 192
  lentab := bits v 223 208
  oprs := (List.range 4).map fun i =>
    let r := bits v (383 + 128 * i) (256 + 128 * i)
    ⟨bits r 31 0, bits r 63 32, signed32 (bits r 95 64), signed32 (bits r 127 96)⟩
  params := (List.range 8).map fun i => bits v (799 + 32 * i) (768 + 32 * i)

/-- A loop-table entry (R56). -/
def parseLoop (v : Nat) : LoopEnt where
  first := bits v 31 0
  last := bits v 63 32
  count := bits v 87 64
  parent := bits v 111 96
  serial := bits v 112 112 == 1

/-- A length-table entry (R60). -/
def parseLen (v : Nat) : LenTab where
  object := bits v 31 0
  s := bits v 63 32
  maxLen := bits v 95 64
  maxTotal := bits v 127 96

/-- The words of the vector program that list entry v names. -/
def parseProg (b : List Byte) (v : Nat) : List DWord :=
  (List.range (bits v 47 32)).map fun i => BitVec.ofNat 64 (recAt b (bits v 31 0 + 8 * i) 8)

/-- Entry i of a section of entries of n bytes. -/
def entryAt (b : List Byte) (off n i : Nat) : Nat := recAt b (off + n * i) n

/-- The image that the bytes spell. -/
def parseImage (b : List Byte) : Image :=
  let h : ImgHeader := ⟨recAt b 0 128⟩
  let sec {α : Type} (count off n : Nat) (f : Nat → α) : List α := (List.range count).map fun i => f (entryAt b off n i)
  { ctx := bits h.v 63 48
    job := bits h.v 95 64
    bytes := bits h.v 127 96
    mbLoop := h.mbLoop
    seed := BitVec.ofNat 128 (bits h.v 639 512)
    objects := sec h.objCount h.objOffset 64 parseObj
    scales := sec h.scaleCount h.scaleOffset 32 ScaleEntry.parse
    descs := sec h.descCount h.descOffset 128 parseDesc
    loops := sec h.loopCount h.loopOffset 16 parseLoop
    lentabs := sec h.lentabCount h.lentabOffset 16 parseLen
    vprogs := sec h.vprogCount h.vprogOffset 16 (parseProg b) }

/-! ### Validation (R45): a failure is a structure, an index and a status -/

abbrev ImgBad := Nat × Nat × Nat

/-- The smallest of the offsets whose test failed. -/
def firstOffset (l : List (Nat × Bool)) : Option Nat :=
  l.foldl (fun m x => if !x.2 then m else match m with
    | none => some x.1
    | some y => some (min x.1 y)) none

/-- Structure 1: the header (R44, R45, R415). -/
def headerBad (ctx len : Nat) (h : ImgHeader) : Option ImgBad :=
  (firstOffset
    [(0, bits h.v 31 0 != 0x4D425354), (4, bits h.v 47 32 != 1), (6, bits h.v 63 48 != ctx),
     (12, bits h.v 127 96 != len), (54, h.mbLoop != noLoop && decide (h.loopCount ≤ h.mbLoop)),
     (60, bits h.v 511 480 != 0), (80, bits h.v 1023 640 != 0)]).map fun o => (1, o, St.invalidField)

/-- The sections: count field, offset field, bytes of an entry, alignment, limit (R44, R46). -/
def sectionsOf (h : ImgHeader) : List (Nat × Nat × Nat × Nat × Nat × Nat × Nat) :=
  [(h.objCount, h.objOffset, 64, 64, 1048576, 16, 20), (h.scaleCount, h.scaleOffset, 32, 32, 1048576, 24, 28),
   (h.descCount, h.descOffset, 128, 128, 1048576, 32, 36), (h.loopCount, h.loopOffset, 16, 16, 4096, 40, 44),
   (h.lentabCount, h.lentabOffset, 16, 16, 256, 42, 48), (h.vprogCount, h.vprogOffset, 16, 16, 4096, 52, 56)]

/-- Structure 2: section offsets, overlaps and limits (R45, R46). -/
def sectionsBad (h : ImgHeader) (len : Nat) : Option ImgBad :=
  let l := sectionsOf h
  let own := (l.map fun (n, o, size, al, lim, cf, off) =>
    [(cf, decide (lim < n)), (off, o % al != 0 || (n != 0 && decide (len < o + n * size))),
     (off, n != 0 && decide (o < 128))]).flatten
  let pairs := (l.map fun (n, o, size, _, _, _, _) => l.map fun (n', o', _, _, _, _, off') =>
    (off', n != 0 && n' != 0 && decide (o < o' ∧ o' < o + n * size))).flatten
  let same := (l.zipIdx.map fun x => l.zipIdx.filterMap fun y =>
    if x.2 < y.2 then some (y.1.2.2.2.2.2.2, x.1.1 != 0 && y.1.1 != 0 && x.1.2.1 == y.1.2.1) else none).flatten
  (firstOffset (own ++ pairs ++ same)).map fun o => (2, o, St.invalidField)

/-- The first index of a list whose entry fails. -/
def firstBad {α : Type} (l : List α) (p : α → Bool) : Option Nat := l.findIdx? p

/-- R47, R48, R233 for one entry's bits. -/
def objectBad (scaleCount v : Nat) : Bool :=
  let e := parseObj v
  let persistent := Role.persistent e.role
  bits v 39 38 != 0 || bits v 63 54 != 0 || bits v 127 96 != 0 || bits v 511 288 != 0 ||
  e.rank == 0 || decide (5 < e.rank) || decide (4 < bits v 42 40) || e.tier == 3 ||
  (e.dims.zipIdx.any fun d => d.1 == 0 || (decide (e.rank ≤ d.2) && d.1 != 1)) || decide (2 ^ 31 < e.dim 0) ||
  decide (2 ^ 40 < e.elements) || decide (scaleCount ≤ e.scale) ||
  (e.zeroRun && !e.format.isBlock) || (e.narrow && e.format != .bx8) || (e.readonly && e.role == .gradient) ||
  (e.tier == 1 && persistent) || ((e.narrow || e.recompute) && e.role != .activation) ||
  (e.recompute && (e.narrow || e.pin || e.tier != 0)) || (e.pin && (e.narrow || e.tier != 0))

/-- R231: a later image declares a persistent object as it was created. -/
def sameObject (a b : ObjEntry) : Bool :=
  a.format == b.format && a.rank == b.rank && a.dims == b.dims && a.role == b.role && a.zeroRun == b.zeroRun &&
  a.readonly == b.readonly && a.tier == b.tier && a.compress == b.compress && a.pin == b.pin && a.age == b.age

/-- Structure 3: the object table. -/
def objectsBad (b : List Byte) (h : ImgHeader) (img : Image) (known : List Obj) : Option Nat :=
  (List.range h.objCount).find? fun i =>
    objectBad h.scaleCount (entryAt b h.objOffset 64 i) ||
    (match img.objects[i]? with
     | some e => ((img.objects.take i).any fun x => x.object == e.object) ||
         (known.any fun o => o.entry.object == e.object && Role.persistent o.entry.role && !sameObject o.entry e)
     | none => true)

/-- Structure 5: the loop table (R46, R56). -/
def loopsBad' (b : List Byte) (h : ImgHeader) (img : Image) : Option Nat :=
  let l := img.loops
  (List.range h.loopCount).find? fun i =>
    let v := entryAt b h.loopOffset 16 i
    match l[i]? with
    | none => true
    | some x =>
      let inside (p q : LoopEnt) : Bool := decide (q.first ≤ p.first) && decide (p.last ≤ q.last)
      bits v 95 88 != 0 || bits v 127 113 != 0 || x.count == 0 || decide (x.last < x.first) ||
      decide (h.descCount ≤ x.last) ||
      (x.parent != noLoop && (x.parent != h.mbLoop || x.parent == i ||
        (match l[x.parent]? with | some p => !inside x p || p.parent != noLoop | none => true))) ||
      (l.zipIdx.any fun y =>
        y.2 != i &&
        (let apart := decide (y.1.last < x.first) || decide (x.last < y.1.first)
         let equal := y.1.first == x.first && y.1.last == x.last
         !apart &&
         (if equal then decide (y.2 < i) && x.parent != y.2 && y.1.parent != i
          else if inside x y.1 then x.parent != y.2
          else decide (y.2 < i) && !inside y.1 x)))

/-- Structure 6: the length tables (R60). -/
def lensBad (img : Image) : Option Nat :=
  firstBad img.lentabs fun t =>
    t.s == 0 || t.maxLen == 0 || decide (2 ^ 24 < t.maxLen) ||
    (match img.entry t.object with
     | some e => e.format != .int32 || e.role != .other || e.dim 0 != t.s
     | none => true)

/-- Structure 7: the vector programs (R44, R116). -/
def progsBad (b : List Byte) (h : ImgHeader) (img : Image) : Option Nat :=
  (List.range h.vprogCount).find? fun i =>
    let v := entryAt b h.vprogOffset 16 i
    bits v 31 0 % 8 != 0 || bits v 127 48 != 0 || bits v 47 32 == 0 || decide (16384 < bits v 47 32) ||
    decide (b.length < bits v 31 0 + 8 * bits v 47 32) || (programBad (at' img.vprogs i [])).isSome

/-- The parameter words that an opcode lists (R52 Table 6). -/
def paramCount (op : Nat) : Nat :=
  match op with
  | 1 => 4 | 2 => 6 | 3 => 5 | 4 => 5 | 5 => 2 | 6 => 2 | 7 => 5 | 8 => 7 | 9 => 2 | 10 => 2 | 11 => 1 | 12 => 2 | 13 => 2
  | 14 => 2 | _ => 0

/-- The operands an opcode needs and those it may have. -/
def operandSlots (d : Desc) : List Nat × List Nat :=
  match d.opcode with
  | 1 => if d.param 3 % 2 = 1 then ([0], []) else ([0, 1, 2], [3])
  | 2 => ([0, 1, 2], [])
  | 3 => ([0, 1, 2], [3])
  | 4 => ([0, 1, 2], [3])
  | 5 => ([0, 1], [])
  | 6 => ([0, 1, 2], [])
  | 7 => ([], [0, 1, 2, 3])
  | 8 => if d.param 0 = 1 then ([0, 1, 2, 3], []) else ([0, 1, 2], [])
  | 9 => ([0, 1], [])
  | 10 => ([0, 1], [])
  | 11 => ([0, 1], [])
  | 12 => ([0, 1], [2])
  | _ => ([], [])

/-- The checks of a descriptor that its opcode's chapter makes, with n groves in service. -/
def opcodeBad (n : Nat) (img : Image) (d : Desc) : Bool :=
  match d.opcode with
  | 1 => matmulBad img d
  | 2 => convBad img d
  | 3 => attnBad img d
  | 4 => attnBad img d
  | 5 => appendBad img d
  | 6 => selectBad img d
  | 7 => (vecBad n img d) == some 0
  | 8 => updateBad img d
  | 9 => reduceBad img d
  | 10 => gatherBad img d
  | 11 => moveBad img d
  | 12 => takeDescBad img d
  | 13 => recomputeBad img d
  | 14 => scaleSyncBad img d
  | 15 => d.accumulate
  | _ => true

/-- The innermost loop whose body holds a descriptor (R56). -/
def loopAt (img : Image) (i : Nat) : Nat :=
  let l := img.loops.zipIdx.filter fun x => decide (x.1.first ≤ i) && decide (i ≤ x.1.last)
  match l.find? fun x => x.1.parent != noLoop with
  | some x => x.2
  | none => match l with | x :: _ => x.2 | [] => noLoop

/-- The instances of one descriptor. -/
def instCount (img : Image) (d : Desc) : Nat := mbCount img d * innerCount img d

/-- A descriptor that writes a gradient after the first UPDATE or behind one (R185). -/
def gradientLate (img : Image) (d : Desc) : Bool :=
  writesGradient img d &&
  img.descs.any fun u => u.opcode == 8 &&
    ((instsOf img u.index).any fun a => (instsOf img d.index).any fun b => precedes img a b || hasPath img a b)

/-- A descriptor that touches the entries of a SCALE_SYNC and cannot come before it (R30). -/
def syncLate (img : Image) (d : Desc) : Bool :=
  img.descs.any fun x => x.opcode == 14 && x.index != d.index && touchesScales img d (syncEntries img x) &&
    (instsOf img d.index).any fun b => precedes img ⟨0, 0, x.index⟩ b || hasPath img ⟨0, 0, x.index⟩ b

/-- Structure 8 for one descriptor, its bits v. -/
def descBad (n : Nat) (img : Image) (v i : Nat) (d : Desc) : Bool :=
  let slots := operandSlots d
  bits v 15 10 != 0 || bits v 255 224 != 0 || d.opcode == 0 || decide (15 < d.opcode) || d.index != i ||
  (d.deps.any fun p => p != noObject && decide (i ≤ p)) || d.loop != loopAt img i ||
  (d.lentab != 0xFFFF && decide (img.lentabs.length ≤ d.lentab)) ||
  ((List.range 4).any fun n =>
    let o := d.opr n
    if d.uses n then !(slots.1.contains n || slots.2.contains n) || (img.entry o.object).isNone
    else slots.1.contains n || o.base != 0 || o.strideIn != 0 || o.strideMb != 0) ||
  ((List.range 8).any fun n => decide (paramCount d.opcode ≤ n) && d.param n != 0) ||
  (d.accumulate && decide (4 < d.opcode)) ||
  opcodeBad n img d || !operandsInside img d || gradientLate img d || syncLate img d

/-- Structure 8: the descriptors; a vector program that fails against its operands' formats is named by structure 7. -/
def descsBad (n : Nat) (b : List Byte) (h : ImgHeader) (img : Image) : Option ImgBad :=
  let own := (List.range h.descCount).findSome? fun i =>
    match img.descs[i]? with
    | none => some (8, i, St.invalidField)
    | some d =>
      if descBad n img (entryAt b h.descOffset 128 i) i d then some (8, i, St.invalidField)
      else if d.opcode = 7 && (vecBad n img d).isSome then some (7, d.param 0, St.invalidField)
      else if decide (2 ^ 32 - 1 < ((img.descs.take (i + 1)).map (instCount img)).sum) then some (8, i, St.invalidField)
      else none
  own

/-- The first failure of an image in the order of R45, none where it is valid, with n groves in service. -/
def imageBad (n : Nat) (b : List Byte) (ctx len : Nat) (known : List Obj) : Option ImgBad :=
  let h : ImgHeader := ⟨recAt b 0 128⟩
  let img := parseImage b
  let at3 (k : Nat) (x : Option Nat) : Option ImgBad := x.map fun i => (k, i, St.invalidField)
  match headerBad ctx len h with
  | some x => some x
  | none => match sectionsBad h len with
    | some x => some x
    | none => match at3 3 (objectsBad b h img known) with
      | some x => some x
      | none => match at3 4 ((List.range h.scaleCount).find? fun i => bits (entryAt b h.scaleOffset 32 i) 15 14 != 0) with
        | some x => some x
        | none => match at3 5 (loopsBad' b h img) with
          | some x => some x
          | none => match at3 6 (lensBad img) with
            | some x => some x
            | none => match at3 7 (progsBad b h img) with
              | some x => some x
              | none => match descsBad n b h img with
                | some x => some x
                | none => (hazardOf img).map fun i => (9, i, St.refusedHazard)

/-- DETAIL of an image refusal (R340): the structure in [31:24], the index in [23:0]. -/
def imgDetail (x : ImgBad) : Nat := x.1 * 2 ^ 24 + x.2.1 % 2 ^ 24

/-- The payload of an image refusal: for a vector program the index of the word that fails (R116, R128). -/
def imageWord (n : Nat) (img : Image) (x : ImgBad) : Resp :=
  if x.1 != 7 then [] else
  let word := match programBad (at' img.vprogs x.2.1 []) with
    | some k => some k
    | none => img.descs.findSome? fun (d : Desc) => if d.opcode = 7 && d.param 0 == x.2.1 then vecBad n img d else none
  [(32, word.getD 0)]

/-! ### Keeping an image -/

/-- The persistent objects that an image makes, new to its context (R231). -/
def newObjects (c : Context) (img : Image) : List ObjEntry :=
  img.objects.filter fun e => Role.persistent e.role && !c.objects.any fun o => o.entry.object == e.object

/-- What loading an image books from the pool. -/
def loadNeed (c : Context) (img : Image) : Nat :=
  img.bytes + (((newObjects c img).filter fun e => e.tier != 2).map persistentBytes).sum

/-- The scale entries of a context that takes an image: an entry that some object of the context uses goes on, every other is as
the image has it, for the objects that the image creates (R24, R28). -/
def keptScales (c : Context) (img : Image) : List ScaleEntry :=
  (List.range (max c.scales.length img.scales.length)).map fun k =>
    if c.objects.any fun o => o.entry.scale == k then at' c.scales k {} else at' img.scales k (at' c.scales k {})

/-- Keeps an image: it replaces the one of the same job, its persistent objects and new scale entries are made (R24, R231).
A persistent object reads as zero when it is made. -/
def keepImage (s : State) (img : Image) : State :=
  setCtx s img.ctx fun c =>
    { c with images := img :: c.images.filter fun i => i.job != img.job,
             scales := keptScales c img,
             objects := c.objects ++ (newObjects c img).map fun e => { entry := e, inT1 := e.tier != 2 },
             cache := c.cache.filter fun x => x.1 != img.job }

end Sys2Proof.Machine
end

