-- ==== Sys2Proof/Machine/Cost.lean ====
section
/-!
DEFINITION. The cost formulae: exact times, tile homes and paths (R14, R226 to R230), the instance bounds of R63, the
collective bound of R287.
Choices of the model, by log entry: 34 DEDUCED.
-/

namespace Sys2Proof.Machine

/-- Bytes at so many bytes per ns. -/
def nsAt (bytes rate : Nat) : Frac := Frac.mk' bytes rate

/-! ### Clock floors (R13, R214) -/

/-- The grove floor at a SPREAD_DEPTH, in cycles per 10,000 ns. -/
def groveFloor (depth : Nat) : Nat := match depth with | 0 => 27000 | 1 => 26865 | 2 => 26730 | _ => 26460
/-- The floor of slices and Lode engines, in cycles per 1,000 ns. -/
def lodeFloor (depth : Nat) : Nat := match depth with | 0 => 2000 | 1 => 1990 | 2 => 1980 | _ => 1960
def groveNs (depth cycles : Nat) : Frac := Frac.mk' (10000 * cycles) (groveFloor depth)
def lodeNs (depth cycles : Nat) : Frac := Frac.mk' (1000 * cycles) (lodeFloor depth)

/-! ### Paths and their floors (R226, R227) -/

/-- The tier of a path: each tier gives one term of t_m. -/
def Path.tier : Path → Nat
  | .t1 _ => 0 | .xbar _ _ => 1 | .t2 _ _ => 2 | .t3 _ => 3 | .lodeRead _ => 4

/-- η of a run of so many contiguous bytes within one frame, in percent; between two rows the shorter one's (R205 Table 2). -/
def eta (b : Nat) : Nat :=
  if 2048 ≤ b then 93 else if 1024 ≤ b then 84 else if 512 ≤ b then 64 else if 256 ≤ b then 41 else if 128 ≤ b then 23
  else if 64 ≤ b then 12 else 6

/-- The pin time of a run on its pseudo-channel in ns: b ÷ (51.2 GB/s × η(b)) (R205). -/
def runNs (b : Nat) : Frac := Frac.mk' (1000 * b) (512 * eta b)

/-- The T1 floor as R227 derives it from the worst tile, a 4-bit one whose body and lone header are two runs: the stack's 64
pseudo-channels, less 4 % for refresh and scrubbing, less what serving lent capacity takes. -/
def t1Derived : Frac :=
  (Frac.mk' (64 * 4224 * 96) 100 |>.div ((runNs 4096).add (runNs 128))).sub (Frac.mk' (7 * 85) 16)

/-- The floor of a path, in bytes per ns. -/
def pathFloor (depth t3 : Nat) : Path → Frac
  | .t1 _ => ⟨2640, 1⟩
  | .xbar _ _ => ⟨3600, 1⟩
  | .t2 _ _ => ⟨85, 1⟩
  | .t3 _ => ⟨max 1 t3, 1⟩
  | .lodeRead _ => Frac.mk' (1024 * lodeFloor depth) 1000

/-- Adds bytes to a path. -/
def addPath (l : List (Path × Nat)) (p : Path) (b : Nat) : List (Path × Nat) :=
  if l.any fun x => x.1 = p then l.map fun x => if x.1 = p then (p, x.2 + b) else x else l ++ [(p, b)]

/-- t_m: one term per tier, each the largest of its paths (R227). -/
def memoryTerm (depth t3 : Nat) (l : List (Path × Nat)) : Frac :=
  Frac.sum ((List.range 5).map fun k =>
    Frac.maxOf ((l.filter fun x => x.1.tier == k).map fun x => (Frac.ofNat x.2).div (pathFloor depth t3 x.1)))

/-- The bytes that an instance reserves on its paths (R72): what a Lode engine reads takes its stack's bandwidth too (R204). -/
def reserved (l : List (Path × Nat)) : List (Path × Nat) :=
  l.foldl (fun m x => match x.1 with | .lodeRead k => addPath m (.t1 k) x.2 | _ => m) l

/-! ### What an instance's work touches, die by die -/

/-- One counted access: object, tile, bytes, and whether it writes. -/
structure Access where
  object : Nat
  tile : Nat
  bytes : Nat
  write : Bool
  deriving DecidableEq, Repr

/-- The tiles of a table's pages count as those of an object of their own: part 0 to 3 (two of keys, two of values) of the page
with an index, of a head group of an entry (R145). -/
def pagesObject (table : Nat) : Nat := 2 ^ 32 + table
def pageTile (entry group index part : Nat) : Nat := part + 4 * (index + 2 ^ 18 * (group + 256 * entry))

/-- The stack of a page's tile: the held page's own, and of one still to open the first unit's wish (R147). -/
def pageHome (s : State) (ctx table t : Nat) : Nat :=
  let part := t % 4
  let index := t / 4 % 2 ^ 18
  let group := t / 2 ^ 20 % 256
  let entry := t / 2 ^ 28
  let number := match objAt s ctx table with | some o => seqNumber o entry | none => entry
  match pageAt s ctx table number group index with
  | some p => if part < 2 then p.hbm.headD 0 else p.hbm.getLastD 0
  | none => (number + group) % 16

def accessOf (img : Image) (n : Nat) (write : Bool) (tiles : List Nat) : List Access :=
  match img.entry n with
  | some e => tiles.map fun t => ⟨n, t, e.tileMax, write⟩
  | none => []

/-- The accesses of one operand by its cover. -/
def slotAccess (img : Image) (d : Desc) (i : InstId) (n : Nat) (write : Bool) : List Access :=
  match (usesOf img d).find? fun u => u.slot == n, img.entry (d.opr n).object with
  | some u, some e => accessOf img e.object write (u.cover.list e (baseOf d n i))
  | _, _ => []

/-- How an instance's work is dealt: the number of units, the compute cycles where every grove counts, and the accesses of a
unit. -/
structure Dealt where
  units : Nat
  cycles : Nat
  work : Nat → List Access
  deriving Inhabited

/-- Rows of panel p. -/
def panelRows (h m p : Nat) : Nat × Nat := (p * h, min ((p + 1) * h) m)

/-- A dense or wide MATMUL over n_g groves (R64, R39). -/
def dealMatmul (img : Image) (d : Desc) (i : InstId) (ng : Nat) : Dealt :=
  match img.entry (d.opr 0).object, img.entry (d.opr 1).object, img.entry (d.opr 2).object with
  | some a, some b, some c =>
    let m := d.param 0
    let k := d.param 2
    let l := limbsOf d
    let nt := tileCount img d (d.param 1)
    let fa := operandForm a.format b.format
    let fb := operandForm b.format a.format
    let int4 := l == 0 && Format4 fa && Format4 fb
    let bc := if l = 0 then broadcastCycles fb else 33
    let h := panelHeight m nt k bc ng int4
    let slices := match l with | 3 => 6 | 7 => 28 | _ => 1
    let times := if l = 0 then 1 else 2
    { units := ceilDiv m h * nt
      cycles := slices * denseCycles h m nt k bc ng int4
      work := fun u =>
        let rows := panelRows h m (u / nt)
        let j := u % nt
        let ra := if a.format.isTiled then
            ((List.range (ceilDiv rows.2 128 - rows.1 / 128)).map fun x => (List.range (ceilDiv k 64)).map fun y =>
              baseOf d 0 i + y + a.t0 * (rows.1 / 128 + x)).flatten
          else ((List.range (ceilDiv (rows.2 * a.dim 0) 1024 - rows.1 * a.dim 0 / 1024)).map fun x =>
            baseOf d 0 i + rows.1 * a.dim 0 / 1024 + x)
        let rb := if b.format.isTiled then (List.range (ceilDiv k 64)).map fun y => baseOf d 1 i + y + b.t0 * j
          else ((List.range (ceilDiv ((128 * j + 128) * b.dim 0) 1024 - 128 * j * b.dim 0 / 1024)).map fun x =>
            baseOf d 1 i + 128 * j * b.dim 0 / 1024 + x)
        let wc := if c.format.isTiled then (List.range (ceilDiv rows.2 64 - rows.1 / 64)).map fun y =>
            baseOf d 2 i + rows.1 / 64 + y + c.t0 * j
          else ((List.range 128).map fun n =>
            baseOf d 2 i + (rows.1 + c.dim 0 * (128 * j + n)) / c.format.perTile).eraseDups
        let bias := if d.uses 3 then accessOf img (d.opr 3).object false
          ((List.range (ceilDiv rows.2 64 - rows.1 / 64)).map fun y => baseOf d 3 i + rows.1 / 64 + y) else []
        ((accessOf img a.object false ra ++ accessOf img b.object false rb).map fun x => { x with bytes := times * x.bytes }) ++
          accessOf img c.object true wc ++ bias }
  | _, _, _ => ⟨0, 0, fun _ => []⟩

/-- A CONV on the groves: input, filter and output once per die (R171). -/
def dealConv (img : Image) (d : Desc) (i : InstId) (ng : Nat) : Dealt :=
  let g := convGeo d
  match img.entry (d.opr 0).object, img.entry (d.opr 1).object, img.entry (d.opr 2).object with
  | some w, some x, some y =>
    let nt := convUnits g y
    let fx := operandForm x.format w.format
    let int4 := Format4 fx && Format4 (operandForm w.format x.format)
    let h := panelHeight g.cOut nt g.k (broadcastCycles fx) ng int4
    { units := ceilDiv g.cOut h * nt
      cycles := denseCycles h g.cOut nt g.k (broadcastCycles fx) ng int4
      work := fun _ => slotAccess img d i 0 false ++ slotAccess img d i 1 false ++ slotAccess img d i 2 true }
  | _, _, _ => ⟨0, 0, fun _ => []⟩

/-- The index of the first of the pages that a table's sequence has in its range at the declared maxima. -/
def firstPage (s : State) (img : Image) (d : Desc) (entry : Nat) : Nat :=
  match objAt s img.ctx (d.opr 1).object with
  | some o => ceilDiv (seqLength o entry) 128 - ceilDiv (d.param 2) 128
  | none => 0

/-- The key or value tiles of positions `first` to `first + n − 1` of a head's group, for a query tile: of the sequence's pages,
or of the plain object (R136, R147). -/
def attnKeys (s : State) (img : Image) (d : Desc) (i : InstId) (head j first n : Nat) (values : Bool) : List Access :=
  match img.entry (d.opr 1).object with
  | none => []
  | some e =>
    let table := e.format == .int32
    let groups := if table then e.dim 1 else if values then e.dim 1 / 128 else e.dim 0 / 128
    let g := headGroup head groups (d.param 0)
    if table then
      let entry := j / max 1 (attnPerSequence img d)
      let bytes := if tableBx4 s img (d.opr 1).object then 4224 else 8320
      let p0 := firstPage s img d entry + first / 128
      ((List.range (ceilDiv n 128)).map fun x => [0, 1].map fun y =>
        (⟨pagesObject (d.opr 1).object, pageTile entry g (p0 + x) (y + if values then 2 else 0), bytes, false⟩ : Access)).flatten
    else accessOf img e.object false (if values then
        (List.range (ceilDiv n 64)).map fun x => baseOf d 1 i + first / 64 + x + e.t0 * g
      else ((List.range (ceilDiv n 128)).map fun x => [0, 1].map fun y =>
        baseOf d 1 i + 2 * g + y + e.t0 * (first / 128 + x)).flatten)

/-- The tiles that each grove's units make, and the units' shares, at the declared maxima (R64, R141). -/
def shareSums (ng : Nat) (l : List Nat) : List Nat := (chunksOf (ceilDiv l.length ng) ng l).map List.sum

/-- ATTN_SCORE (R141): units of one head, one query tile and one panel, those the mask leaves. -/
def dealScore (s : State) (img : Image) (d : Desc) (i : InstId) (ng : Nat) : Dealt :=
  let h := scorePanel s img d ng
  let us := scorePairs img d h
  { units := d.param 0 * us.length
    cycles := scoreCycles s img d ng h
    work := fun u =>
      let hd := u / max 1 us.length
      let jp := at' us (u % max 1 us.length) (0, 0)
      let rows := panelRows h (d.param 2) jp.2
      (match img.entry (d.opr 0).object with
       | some q => accessOf img q.object false ([0, 1].map fun y => baseOf d 0 i + 2 * hd + y + q.t0 * jp.1)
       | none => []) ++ attnKeys s img d i hd jp.1 rows.1 (rows.2 - rows.1) false ++
      (match img.entry (d.opr 2).object with
       | some o => accessOf img o.object true ((List.range (ceilDiv rows.2 64 - rows.1 / 64)).map fun y =>
           baseOf d 2 i + rows.1 / 64 + y + o.t0 * jp.1 + o.t0 * o.t1 * hd)
       | none => []) }

/-- ATTN_APPLY (R141): units of one head and one query tile; the busiest grove's 64-key tiles, those the mask leaves, give the
cycles. -/
def dealApply (s : State) (img : Image) (d : Desc) (i : InstId) (ng : Nat) : Dealt :=
  let qts := attnQueryTiles img d
  let l := broadcastCycles .ux8
  let tiles := (List.range (d.param 0)).map fun _ => (List.range qts).map fun j => (applyTiles img d j).length
  { units := d.param 0 * qts
    cycles := ((shareSums ng tiles.flatten).foldl max 0) * (max 64 l + 1) + 80
    work := fun u =>
      let hd := u / max 1 qts
      let j := u % max 1 qts
      (match img.entry (d.opr 0).object with
       | some o => (applyTiles img d j).map fun p =>
           (⟨o.object, baseOf d 0 i + p + o.t0 * j + o.t0 * o.t1 * hd, 8320, false⟩ : Access)
       | none => []) ++ attnKeys s img d i hd j 0 (d.param 2) true ++
      (match img.entry (d.opr 2).object with
       | some o => accessOf img o.object true ([0, 1].map fun y => baseOf d 2 i + 2 * hd + y + o.t0 * j)
       | none => []) }

/-- VEC: a unit is a run; an instruction's iterations count the descriptor loops too (R118, R122). -/
def dealVec (img : Image) (d : Desc) (i : InstId) (ng : Nat) : Dealt :=
  let hdr := headerOf img d
  let q := runsOf img d
  { units := q
    cycles := runCycles d (programOf img d) [] * ceilDiv q ng * (mbCount img d * innerCount img d) + 80
    work := fun u => ((List.range 4).map fun m =>
      let w := headerWindow hdr m
      if w.1 = 0 then [] else
      accessOf img (d.opr m).object w.2 ((List.range w.1).map fun t => baseOf d m i + u * w.1 + t)).flatten }

/-- The problems of a packed instance, as read at SUBMIT, or as they stand where the image has not been submitted. -/
def problemsOf (s : State) (img : Image) (d : Desc) (i : InstId) : List Problem :=
  match img.lists.find? fun x => x.1 == i with
  | some x => x.2
  | none => match oprObj s img d 0 with
    | some list => readProblems list (baseOf d 0 i) (d.param 0)
    | none => []

/-- A packed MATMUL on one grove (R100 to R102). -/
def dealPacked (s : State) (img : Image) (d : Desc) (i : InstId) : Dealt :=
  let ps := problemsOf s img d i
  let cost (p : Problem) : Nat :=
    let load := match img.entry p.b, img.entry p.a with
      | some b, some a => if Format4 (operandForm b.format a.format) then 5 else 9
      | _, _ => 9
    ceilDiv p.k 32 * ceilDiv p.n 64 *
      ((List.range (ceilDiv p.m 512)).map fun h => max (min 512 (p.m - 512 * h)) load + 1).sum
  let use (n k x : Nat) (w : Bool) : List Access := match img.entry n with
    | some e => accessOf img e.object w (rangeTiles e 0 k x)
    | none => []
  { units := 1
    cycles := (ps.map cost).foldl max 0 + 80
    work := fun _ => (ps.map fun p => use p.a p.k p.m false ++ use p.b p.k p.n false ++ use p.c p.m p.n true).flatten }

/-- Whether an instance runs on groves, and its dealing over n_g of them. -/
def dealing (s : State) (img : Image) (d : Desc) (i : InstId) (ng : Nat) : Option Dealt :=
  match d.opcode with
  | 1 => some (if d.param 3 % 2 = 1 then dealPacked s img d i else dealMatmul img d i ng)
  | 2 => if onSapling img d then none else some (dealConv img d i ng)
  | 3 => some (dealScore s img d i ng)
  | 4 => some (dealApply s img d i ng)
  | 7 => some (dealVec img d i ng)
  | _ => none

/-- The groves an instance uses, 0 where it uses none (R50). -/
def grovesUsed (img : Image) (d : Desc) (n : Nat) : Nat :=
  match d.opcode with
  | 1 => if d.param 3 % 2 = 1 then 1 else if d.groves = 0 then n else min d.groves n
  | 2 => if onSapling img d then 0 else if d.groves = 0 then n else min d.groves n
  | 3 => if d.groves = 0 then n else min d.groves n
  | 4 => if d.groves = 0 then n else min d.groves n
  | 7 => if d.groves = 0 then n else min d.groves n
  | _ => 0

/-- The accesses of a dealing by compute die, each access once per die (R63, R64). -/
def dieAccess (x : Dealt) (gs : List Nat) : List (Nat × List Access) :=
  let share := ceilDiv x.units gs.length
  (List.range 4).map fun die =>
    (die, ((gs.zipIdx.filter fun g => g.1 / 32 == die).map fun g =>
      ((List.range (min share (x.units - share * g.2))).map fun u => x.work (share * g.2 + u)).flatten).flatten.eraseDups)

/-! ### Homes (R230) -/

/-- The instances of an image in the order of R58. -/
def orderedInsts (img : Image) : List InstId := img.insts.foldr (insertInst img) []

/-- The die whose groves write (or read) a tile in an instance dealt over the first groves in service. -/
def dieOf (s : State) (img : Image) (i : InstId) (n : Nat) (same : Nat → Bool) (write : Bool) : Option Nat :=
  match img.descs[i.index]? with
  | none => none
  | some d =>
    let gs := (inService s).take (grovesUsed img d (inService s).length)
    match dealing s img d i gs.length with
    | none => none
    | some x => ((dieAccess x gs).find? fun a => a.2.any fun b => b.object == n && same b.tile && b.write == write).map fun a => a.1

/-- The stack that holds a tile (R230); the score tiles of one head and query tile lie together (R140), a page's tiles on its
own stacks (R147). -/
def homeOf (s : State) (img : Image) (order : List InstId) (n t : Nat) : Nat :=
  if 2 ^ 32 ≤ n then pageHome s img.ctx (n - 2 ^ 32) t else
  match img.entry n with
  | none => t % 16
  | some e =>
    if Role.persistent e.role then t % 16 else
    let score := isScore img n
    let g := if score then t / e.t0 else t
    let same (u : Nat) : Bool := if score then u / e.t0 == g else u == t
    let writer := order.find? fun i => (touches img i).any fun x => x.object == n && x.writes && x.tiles.any same
    let die := match writer with
      | none => 0
      | some i => match dieOf s img i n same true with
        | some d => d
        | none => ((order.findSome? fun j => dieOf s img j n same false)).getD 0
    4 * die + g % 4

/-! ### Zero-run tiles in the making (R173, R174, R221) -/

/-- The zero-run tiles that unit u of an instance writes into: of a CONV the output tiles of its panel's channels that hold its
64 by 2 positions (R171), of a VEC those of its run. -/
def unitOpens (img : Image) (d : Desc) (i : InstId) (h u : Nat) : List Nat :=
  let zero (n : Nat) : Bool := match img.entry n with | some e => e.zeroRun | none => false
  match d.opcode with
  | 2 => match img.entry (d.opr 2).object with
    | some e =>
      if !zero e.object then [] else
      let g := convGeo d
      let nt := convUnits g e
      let a := ceilDiv (e.dim 0) 64
      let b := if g.d = 1 then e.dim 1 else ceilDiv (e.dim 1) 2
      let j := u % max 1 nt
      let o1 := (j / max 1 a % max 1 b) * (if g.d = 1 then 1 else 2)
      let rows := panelRows h g.cOut (u / max 1 nt)
      (List.range (rows.2 - rows.1)).map fun m =>
        baseOf d 2 i + e.tileAt (j % max 1 a) (o1 / 128) (j / max 1 (a * b) + e.dim 2 * (rows.1 + m))
    | none => []
  | 7 => ((List.range 4).map fun m =>
      let w := headerWindow (headerOf img d) m
      if w.2 && zero (d.opr m).object then (List.range w.1).map fun t => baseOf d m i + u * w.1 + t else []).flatten
  | _ => []

/-- The most zero-run tiles of an object's home stack k that so many workers have open at once, each taking its share of the
units one after another: a tile is open from the first unit that writes into it to the last. -/
def mostOpen (opens : Nat → List Nat) (units workers : Nat) (onStack : Nat → Bool) : Nat :=
  let share := ceilDiv units workers
  let rounds := (List.range share).map fun t =>
    (((List.range workers).filterMap fun g => if share * g + t < units then some (opens (share * g + t)) else none).flatten.filter
      onStack).eraseDups
  ((List.range share).map fun t =>
    ((rounds.take (t + 1)).flatten.eraseDups.filter fun x => (rounds.drop t).any fun r => r.contains x).length).foldl max 0

/-- The zero-run tiles of an instance that stack k's engine holds open at once. -/
def zeroOpen (img : Image) (home : Nat → Nat → Nat) (d : Desc) (i : InstId) (ng k : Nat) : Nat :=
  let n := match d.opcode with | 2 => (d.opr 2).object | _ => ((List.range 4).find? fun m =>
    (headerWindow (headerOf img d) m).2).elim noObject fun m => (d.opr m).object
  let on (t : Nat) : Bool := home n t == k
  match d.opcode, img.entry (d.opr 0).object, img.entry (d.opr 1).object, img.entry (d.opr 2).object with
  | 2, some w, some x, some y =>
    let g := convGeo d
    let nt := convUnits g y
    if onSapling img d then mostOpen (unitOpens img d i (max 1 g.cOut)) nt 1 on
    else
      let fx := operandForm x.format w.format
      let h := panelHeight g.cOut nt g.k (broadcastCycles fx) ng (Format4 fx && Format4 (operandForm w.format x.format))
      mostOpen (unitOpens img d i h) (ceilDiv g.cOut h * nt) ng on
  | 7, _, _, _ => mostOpen (unitOpens img d i 0) (runsOf img d) ng on
  | _, _, _, _ => 0

/-! ### The collective bound (R287) -/

def alphaNs : Nat := 840
def portRate : Nat := 85

/-- One phase: steps, bytes on the busiest port, and whether it reduces. -/
def phaseNs (steps : Nat) (b : Frac) (reduces : Bool) : Frac :=
  let move := b.div (Frac.ofNat portRate)
  let chunk := if reduces then
      ((Frac.ofNat steps).mul (Frac.min (Frac.ofNat chunkBytes) (b.div (Frac.ofNat (max 1 steps))))).div (Frac.ofNat portRate)
    else Frac.zero
  ((Frac.ofNat (steps * alphaNs)).add move).add chunk

/-- The shape of a collective: masked positions, and per axis its box extent and whether it is a ring. -/
structure Shape where
  p : Nat
  axes : List (Nat × Bool)
  slow : List Nat
  deriving DecidableEq, Repr

/-- The shape of a job's collectives (R282, R284); degraded axes are lines (R307). `slow` doubles the bytes of a phase whose
ports have been retired (R279). -/
def shapeOf (s : State) (job scope : Nat) (degraded : Bool) : Shape :=
  let retired (lo n : Nat) : Bool := (List.range n).any fun k => (at' s.fabric.ports (lo + k) {}).state == .retired
  let slow := (if retired 0 7 then 2 else 1) :: [7, 11, 15].map fun lo => if retired lo 4 then 2 else 1
  match (partyOf s job scope).box with
  | none => ⟨1, [], slow⟩
  | some b =>
    let ext := extents (inForce s 4)
    ⟨(maskPositions b.mask).length,
     if scope = 0 then [] else
       [(b.ex, !degraded && b.ex == ext.1), (b.ey, !degraded && b.ey == ext.2.1), (b.ez, !degraded && b.ez == ext.2.2)], slow⟩

/-- The hops of the entry round. -/
def Shape.hops (x : Shape) : Nat :=
  (if 1 < x.p then 1 else 0) + (x.axes.map fun a => if a.1 ≤ 1 then 0 else if a.2 then a.1 / 2 else a.1 - 1).sum

/-- t_0. -/
def Shape.entryNs (x : Shape) : Nat := 800 + 2 * alphaNs * x.hops

/-- (e − 1)/e × D / 4 for a ring, / 2 for a line. -/
def axisBytes (e : Nat) (ring : Bool) (d : Frac) : Frac :=
  (Frac.mk' (e - 1) (e * (if ring then 4 else 2))).mul d

/-- Reduce-scatter phases of D bytes. -/
def Shape.reduceNs (x : Shape) (bytes : Nat) : Frac :=
  let node := if 1 < x.p then phaseNs 1 ((Frac.mk' bytes x.p).mul (Frac.ofNat (at' x.slow 0 1))) true else Frac.zero
  (x.axes.zipIdx.foldl (fun (acc : Frac × Frac) a =>
    if a.1.1 ≤ 1 then acc else
    (acc.1.add (phaseNs (a.1.1 - 1) ((axisBytes a.1.1 a.1.2 acc.2).mul (Frac.ofNat (at' x.slow (a.2 + 1) 1))) true),
     acc.2.div (Frac.ofNat a.1.1)))
    (node, Frac.mk' bytes (max 1 x.p))).1

/-- All-gather phases that leave D bytes on every device; the node phase last, where the gather fans out or is of node scope. -/
def Shape.gatherNs (x : Shape) (bytes : Nat) (fan : Bool) : Frac :=
  let nodes := (x.axes.map fun a => max 1 a.1).foldl (fun a b => a * b) 1
  let axes := (x.axes.zipIdx.foldl (fun (acc : Frac × Frac) a =>
    if a.1.1 ≤ 1 then acc else
    let d := acc.2.mul (Frac.ofNat a.1.1)
    (acc.1.add (phaseNs (a.1.1 - 1) ((axisBytes a.1.1 a.1.2 d).mul (Frac.ofNat (at' x.slow (a.2 + 1) 1))) false), d))
    (Frac.zero, Frac.mk' bytes (max 1 x.p * nodes))).1
  if (fan || x.axes.isEmpty) && decide (1 < x.p) then
    axes.add (phaseNs 1 ((Frac.mk' bytes x.p).mul (Frac.ofNat (at' x.slow 0 1))) false)
  else axes

/-- Participants of a shape. -/
def Shape.count (x : Shape) : Nat := max 1 x.p * (x.axes.map fun a => max 1 a.1).foldl (fun a b => a * b) 1

/-- The bytes a REDUCE counts for its source (R285), or a GATHER for the whole. -/
def collectiveBytes (img : Image) (d : Desc) (i : InstId) : Nat :=
  let n := if d.opcode = 9 then 0 else 1
  match img.entry (d.opr n).object with
  | some e => (e.tiles - baseOf d n i) * (if d.opcode = 9 && decide (d.param 1 < 2) then 32768 else e.tileMax)
  | none => 0

/-- The stage transfers of one micro-batch, in order (R289). -/
def stageTransfers (img : Image) : List InstId :=
  (orderedInsts img).filter fun i => i.mb == 0 &&
    (match img.descs[i.index]? with | some d => d.opcode == 10 && d.param 0 == 2 | none => false)

/-- Δ of R290: how far any stage's published time for the matching transfer exceeds the device's own. -/
def stageDelta (s : State) (job stage : Nat) (img : Image) (i : InstId) : Nat :=
  match jobAt s job with
  | none => 0
  | some j =>
    let k := (stageTransfers img).findIdx fun x => x.index == i.index && x.it == i.it
    let own := ((j.published.find? fun p => p.1 == stage).map fun p => at' p.2 k 0).getD 0
    (j.published.map fun p => at' p.2 k 0 - own).foldl max 0

/-- This device's stage number: its coordinate along the stage axis, from the box's origin (R289). -/
def stageOf (s : State) (b : JobBox) : Nat :=
  let ext := extents (inForce s 4)
  let c := nodeCoords ext.1 ext.2.1 (nodeOf s)
  match b.stage with
  | 1 => (c.1 + ext.1 - b.ox) % ext.1
  | 2 => (c.2.1 + ext.2.1 - b.oy) % ext.2.1
  | 3 => (c.2.2 + ext.2.2 - b.oz) % ext.2.2
  | _ => 0
def stageCount (b : JobBox) : Nat := match b.stage with | 1 => b.ex | 2 => b.ey | 3 => b.ez | _ => 0

/-- The collective bound of an instance, degraded or not. -/
def collNs (s : State) (img : Image) (d : Desc) (i : InstId) (degraded : Bool) : Frac :=
  let entries := (syncEntries img d).length
  let wide (b : Nat) : Frac :=
    let x := shapeOf s img.job 1 degraded
    ((Frac.ofNat x.entryNs).add (x.reduceNs b)).add (x.gatherNs b true)
  match d.opcode with
  | 9 => let x := shapeOf s img.job (d.param 0) degraded
         (Frac.ofNat x.entryNs).add (x.reduceNs (collectiveBytes img d i))
  | 10 =>
    if d.param 0 = 2 then
      let delta := match (partyOf s img.job 1).box with | some b => stageDelta s img.job (stageOf s b) img i | none => 0
      (Frac.ofNat (800 + 2 * alphaNs + alphaNs + delta)).add (Frac.mk' (collectiveBytes img d i) (2 * portRate))
    else
      let x := shapeOf s img.job (d.param 0) degraded
      (Frac.ofNat x.entryNs).add (x.gatherNs (collectiveBytes img d i) (d.param 1 % 2 == 1))
  | 14 => if d.jobWide then wide (16 * entries) else Frac.zero
  | 15 => if d.jobWide then wide 0 else Frac.zero
  | _ => Frac.zero

/-- The bound of the norm collective (R184, R284): a fan-out gather of 16 bytes from every participant. -/
def normNs (s : State) (job : Nat) (degraded : Bool) : Frac :=
  let x := shapeOf s job 1 degraded
  (Frac.ofNat x.entryNs).add (x.gatherNs (16 * x.count) true)

/-! ### The instance bound (R63) -/

/-- What scheduling needs of an instance: its length, the bytes on its paths, the groves, and the engines it holds. -/
structure Cost where
  bound : Frac
  paths : List (Path × Nat) := []
  lode : List Nat := []
  sapling : Option Nat := none
  slot : Option Nat := none
  deriving DecidableEq, Repr

/-- Adds the accesses of a die to the paths (R14, R204, R227). -/
def pathsOf (home : Nat → Nat → Nat) (die : Option Nat) (lodeObject : Nat) (l : List (Path × Nat)) (as : List Access) :
    List (Path × Nat) :=
  as.foldl (fun l a =>
    let st := home a.object a.tile
    let l := if a.object = lodeObject && !a.write then addPath l (.lodeRead st) a.bytes else addPath l (.t1 st) a.bytes
    match die with
    | some d => if st / 4 != d then addPath l (.xbar d a.write) a.bytes else l
    | none => l) l

/-- The near port of a tile held in T2: over the neighbours that lend, tile by tile (R226). -/
def lendPort (s : State) (t : Nat) : Nat :=
  let l := (List.range 7).filter fun k => at' s.fabric.lends k 0 != 0
  at' l (t % max 1 l.length) 0

/-- A tile's Seam bytes on its tier's path (R227). -/
def tierPath (s : State) (e : ObjEntry) (t bytes : Nat) (out : Bool) (l : List (Path × Nat)) : List (Path × Nat) :=
  match e.tier with | 1 => addPath l (.t2 (lendPort s t) out) bytes | 2 => addPath l (.t3 out) bytes | _ => l

/-- A MOVE: both ends on their stacks, and twice on the crossbar between dies (R241); a home below T1 counts on its tier. -/
def movePaths (s : State) (img : Image) (home : Nat → Nat → Nat) (d : Desc) (i : InstId) : List (Path × Nat) :=
  match img.entry (d.opr 0).object, img.entry (d.opr 1).object with
  | some a, some b => (List.range (d.param 0)).foldl (fun l t =>
      let sa := home a.object (baseOf d 0 i + t)
      let sb := home b.object (baseOf d 1 i + t)
      let l := addPath (addPath l (.t1 sa) a.tileMax) (.t1 sb) b.tileMax
      let l := if sa / 4 = sb / 4 then l
        else addPath (addPath l (.xbar (sa / 4) true) a.tileMax) (.xbar (sb / 4) false) b.tileMax
      tierPath s b (baseOf d 1 i + t) (seamMax b) true (tierPath s a (baseOf d 0 i + t) (seamMax a) false l)) []
  | _, _ => []

/-- Pages that a KV_APPEND can open at its declared maxima. -/
def appendPages (img : Image) (d : Desc) : Nat :=
  match img.entry (d.opr 1).object with
  | none => 0
  | some t =>
    let tok := match img.lentabs[d.lentab]? with | some l => l.maxLen | none => d.param 0
    seqCount t * t.dim 1 * ceilDiv tok 128

/-- The tiles of the pages that a KV_APPEND can open at its declared maxima, from where its sequences stand (R63, R147). -/
def appendTiles (s : State) (img : Image) (d : Desc) : List Nat :=
  match img.entry (d.opr 1).object with
  | none => []
  | some t =>
    let n := appendPages img d / max 1 (seqCount t * t.dim 1)
    ((List.range (seqCount t)).map fun e =>
      let len := match objAt s img.ctx t.object with | some o => seqLength o e | none => 0
      ((List.range (t.dim 1)).map fun g => ((List.range n).map fun x =>
        (List.range 4).map fun p => pageTile e g (len / 128 + x) p).flatten).flatten).flatten

/-- The worst case of one tile of an evicted page in T3, 0 where the pool does not spill (R146, R239). -/
def spillBytes (s : State) (bx4 : Bool) : Nat :=
  if bits (inForce s 2) 32 32 = 1 then seamMax { (pageObj bx4 []).entry with compress := true } else 0

/-- The pages of a table that are scored on stack k when a step is admitted (R158): those held there, and its part of those
booked. -/
def scoredPages (s : State) (ctx table k : Nat) : Nat :=
  (s.kv.pages.countP fun p => p.ctx == ctx && p.table == table && p.hbm.headD 0 == k) +
  ceilDiv (((s.kv.booked.filter fun b => b.1 == ctx && b.2.1 == table).map fun b => b.2.2.2.1).sum) 16

/-- The summaries that a KV_SELECT reads, 256 bytes a page on the page's stack (R157, R158). -/
def summaryPaths (s : State) (ctx table : Nat) (l : List (Path × Nat)) : List (Path × Nat) :=
  (List.range 16).foldl (fun l k => let n := scoredPages s ctx table k; if n = 0 then l else addPath l (.t1 k) (256 * n)) l

/-- The scale entries that a SCALE_SYNC reads and writes, 40 bytes each, dealt over the stacks. -/
def entryPaths (entries : List Nat) : List (Path × Nat) := entries.foldl (fun l k => addPath l (.t1 (k % 16)) 80) []

/-- Lode time of an UPDATE (R220): elements of whole tiles and factor elements per engine. -/
def updateNs (img : Image) (depth : Nat) (d : Desc) : Frac :=
  match img.entry (d.opr 0).object with
  | none => Frac.zero
  | some p =>
    let fold (n : Nat) : Nat := if d.param 0 = 1 then
        (match img.entry (d.opr n).object with | some e => ceilDiv (e.elements / 3) 16 | none => 0) else 0
    Frac.maxOf ((List.range 16).map fun k =>
      let e := p.format.perTile * tilesOn p.tiles 16 k
      Frac.mk' (1000 * (64 * e + fold 2 + fold 3)) (64 * lodeFloor depth))

/-- The products that rule P adds on a root step (R192): 2 × 12 × 3 emulated F32 products of the block side. -/
def rootNs (img : Image) (depth n step : Nat) (d : Desc) : Frac :=
  if d.param 0 = 1 && decide (d.param 6 ≠ 0) && step % d.param 6 == 0 then
    match img.entry (d.opr 0).object with
    | none => Frac.zero
    | some p =>
      let side := min 4096 (max (p.dim 0) (p.dim 1))
      let h := panelHeight side (ceilDiv side 128) side 33 n false
      groveNs depth (72 * 6 * denseCycles h side (ceilDiv side 128) side 33 n false)
  else Frac.zero

/-- The bound of an instance on given groves (R63): 0.5 µs + max(t_c, t_m). `ready` is the readiness bound of a take. -/
def instCost (s : State) (img : Image) (home : Nat → Nat → Nat) (depth n step : Nat) (degraded : Bool) (ready : Nat)
    (gs : List Nat) (i : InstId) (d : Desc) : Cost :=
  let t3 := bits (committed s 3) 23 16
  let mk (tc : Frac) (paths : List (Path × Nat)) : Cost :=
    { bound := (Frac.ofNat 500).add (tc.max (memoryTerm depth t3 paths)), paths }
  let own (as : List Access) : List (Path × Nat) := pathsOf home none noObject [] as
  match dealing s img d i gs.length with
  | some x =>
    let score := if d.opcode = 4 then (d.opr 0).object else noObject
    mk (groveNs depth x.cycles) ((dieAccess x gs).foldl (fun l a => pathsOf home (some a.1) score l a.2) [])
  | none =>
    match d.opcode with
    | 2 =>
      let g := convGeo d
      let die := saplingRank img i % 4
      let prod := match img.entry (d.opr 2).object with | some y => y.dim 0 * y.dim 1 * y.dim 2 | none => 0
      let c := mk (groveNs depth (ceilDiv g.k 16 * ceilDiv g.cOut 16 * prod))
        (pathsOf home (some die) noObject [] (slotAccess img d i 0 false ++ slotAccess img d i 1 false ++ slotAccess img d i 2 true))
      { c with sapling := some die }
    | 5 =>
      let bx4 := d.param 1 % 2 == 1
      let tiles := appendTiles s img d
      let as := tiles.map fun t => (⟨pagesObject (d.opr 1).object, t, 2 * if bx4 then 4224 else 8320, true⟩ : Access)
      let source := (slotAccess img d i 0 false).filter fun a => !coveredTile img a.object a.tile
      let paths := own (source ++ as)
      mk (Frac.ofNat (200 * appendPages img d)) (if spillBytes s bx4 = 0 then paths
        else addPath paths (.t3 true) (spillBytes s bx4 * tiles.length))
    | 6 =>
      let table := (d.opr 1).object
      let most := (List.range 16).foldl (fun m k => max m (scoredPages s img.ctx table k)) 0
      let pages := ((List.range 16).map (scoredPages s img.ctx table)).sum
      let rows := match img.entry (d.opr 0).object, img.entry table with
        | some q, some t =>
          let tokens := match img.lentabs[d.lentab]? with | some l => l.maxLen | none => q.dim 1 / max 1 (seqCount t)
          tokens * (q.dim 0 / 128 / max 1 (t.dim 1))
        | _, _ => 1
      { mk ((lodeNs depth (ceilDiv (256 * rows * most) 1024)).add (Frac.ofNat pages))
          (summaryPaths s img.ctx table (own (slotAccess img d i 0 false ++ slotAccess img d i 2 true))) with
        lode := List.range 16 }
    | 8 =>
      let c := mk ((updateNs img depth d).add (rootNs img depth n step d)) (own ((usesOf img d).map fun u =>
        (slotAccess img d i u.slot false).map fun a => if u.writes then { a with bytes := 2 * a.bytes } else a).flatten)
      { c with lode := List.range 16 }
    | 9 => { mk (collNs s img d i degraded) (own (slotAccess img d i 0 false ++ slotAccess img d i 1 true)) with
             slot := some (d.param 0) }
    | 10 => { mk (collNs s img d i degraded) (own (slotAccess img d i 0 false ++ slotAccess img d i 1 true)) with
              slot := some (d.param 0) }
    | 11 => mk Frac.zero (movePaths s img home d i)
    | 12 => mk (Frac.ofNat ready) (own (slotAccess img d i 0 true ++ slotAccess img d i 1 true ++ slotAccess img d i 2 true))
    | 14 =>
      let c := mk ((Frac.ofNat (1000 + 8 * (syncEntries img d).length)).add (collNs s img d i degraded)) (entryPaths (syncEntries img d))
      { c with slot := if d.jobWide then some 1 else none }
    | 15 => { mk (collNs s img d i degraded) [] with slot := if d.jobWide then some 1 else none }
    | _ => mk Frac.zero []

/-- The bound with RECOMPUTE: the sum of its segment's bounds, one after another, with what each of them holds (R63 Table 7). -/
def boundOf (s : State) (img : Image) (home : Nat → Nat → Nat) (depth n step : Nat) (degraded : Bool) (ready : Nat)
    (gs : List Nat) (i : InstId) (d : Desc) : Cost :=
  if d.opcode = 13 then
    (segmentInsts img i d).foldl (fun (acc : Cost) j => match img.descs[j.index]? with
      | some x =>
        let c := instCost s img home depth n step degraded 0 (gs.take (max 1 (grovesUsed img x n))) j x
        { bound := acc.bound.add c.bound, paths := c.paths.foldl (fun l p => addPath l p.1 p.2) acc.paths,
          lode := (acc.lode ++ c.lode).eraseDups, sapling := acc.sapling <|> c.sapling, slot := acc.slot <|> c.slot }
      | none => acc) { bound := Frac.ofNat 500 }
  else instCost s img home depth n step degraded ready gs i d

/-! ### UPDATE (R181) -/

/-- UPDATE on the device's own shard, and on the shards that it carries on for failed members whose gradients reached it (R308). -/
def updateAll (_ : InstId) (r : Run) (d : Desc) (s : State) : State :=
  let img := r.adm.image
  let home := homeOf s img (orderedInsts img) (d.opr 1).object
  (shadowsOf s r.adm.job).foldl (fun s h =>
    if h.ctx.objects.any fun o => o.entry.object == (d.opr 1).object && !o.written.isEmpty then
      inShadow s r.adm.job h (updateDo home (h.run r) d)
    else s) (updateDo home r d s)

/-- UPDATE (R181). -/
def execUpdate (i : InstId) (s : State) : Host.Outcome State Fault Refusal := done (onInstance s i 0x08 (updateAll i))

end Sys2Proof.Machine
end

