-- ==== Sys2Proof/Machine/Galois.lean ====
section
/-!
DEFINITION. GF(2^8) with field polynomial 0x11D and α = 2, systematic Reed–Solomon encoding, and the decoding of at most two
unknown symbols, for the pin-column code (R206, R207) and for shoring (R299).
Choices of the model, by log entry: 19 DEDUCED.
-/

namespace Sys2Proof.Machine

/-! ### The field -/

/-- Multiplication by α = x modulo 0x11D. -/
def gfDouble (a : Byte) : Byte := (a <<< 1) ^^^ (if a.getLsbD 7 then 0x1D else 0)

/-- The product of two elements: n bits of b, the lowest first. -/
def gfMulBits : Nat → Byte → Byte → Byte
  | 0, _, _ => 0
  | n + 1, a, b => (if b.getLsbD 0 then a else 0) ^^^ gfMulBits n (gfDouble a) (b >>> 1)

def gfMul (a b : Byte) : Byte := gfMulBits 8 a b

/-- α^k. -/
def alpha (k : Nat) : Byte := (List.range (k % 255)).foldl (fun a _ => gfDouble a) 1

/-- The inverse: a^254. -/
def gfInv (a : Byte) : Byte :=
  let a2 := gfMul a a
  let a4 := gfMul a2 a2
  let a8 := gfMul a4 a4
  let a16 := gfMul a8 a8
  let a32 := gfMul a16 a16
  let a64 := gfMul a32 a32
  gfMul (gfMul (gfMul a2 a4) (gfMul a8 a16)) (gfMul (gfMul a32 a64) (gfMul a64 a64))

/-! ### Systematic encoding: c(x) = d(x) × x^m + (d(x) × x^m mod g(x)) -/

/-- The generators of degree m, coefficients of x^0 to x^(m−1), the leading one being 1 (R206, R299). -/
def generator (m : Nat) : List Byte :=
  match m with
  | 1 => [1]
  | 2 => [2, 3]
  | 4 => [0x40, 0x78, 0x36, 0x0F]
  | _ => []

/-- One step of the division: the next symbol from the top enters the remainder. -/
def remStep (g : List Byte) (r : List Byte) (d : Byte) : List Byte :=
  let top := d ^^^ r.getLastD 0
  List.zipWith (fun a b => a ^^^ gfMul top b) (0 :: r.dropLast) g

/-- The check symbols of data symbols given from x^0 upwards. -/
def checkSymbols (m : Nat) (d : List Byte) : List Byte :=
  d.foldr (fun x r => remStep (generator m) r x) (List.replicate m 0)

/-- The codeword, coefficients from x^0 upwards: check symbols, then data. -/
def encodeSymbols (m : Nat) (d : List Byte) : List Byte := checkSymbols m d ++ d

/-- The value of a polynomial at α^k. -/
def syndrome (k : Nat) (c : List Byte) : Byte := c.foldr (fun x v => x ^^^ gfMul (alpha k) v) 0

/-! ### Two unknown symbols -/

/-- The values at positions p and q that give the first two syndromes. -/
def solveTwo (s0 s1 : Byte) (p q : Nat) : Byte × Byte :=
  let v := gfMul (s1 ^^^ gfMul s0 (alpha p)) (gfInv (alpha p ^^^ alpha q))
  (s0 ^^^ v, v)

/-- The syndrome k of symbols at positions. -/
def sparseSyndrome (k : Nat) (e : List (Nat × Byte)) : Byte := e.foldl (fun v x => v ^^^ gfMul x.2 (alpha (k * x.1))) 0

/-- Whether symbols at positions give the four syndromes. -/
def gives (s : List Byte) (e : List (Nat × Byte)) : Bool := s == (List.range 4).map fun k => sparseSyndrome k e

/-- The symbol errors that the decoder of RS(36,32) finds for four syndromes: none; one; two; or, with a position erased, that
one and at most one other (R207). No answer where no such pattern has these syndromes. -/
def decodeBurst (erased : Option Nat) (s : List Byte) : Option (List (Nat × Byte)) :=
  let s0 := at' s 0 0
  let s1 := at' s 1 0
  let pair (p q : Nat) : Option (List (Nat × Byte)) :=
    let v := solveTwo s0 s1 p q
    let e := [(p, v.1), (q, v.2)].filter fun x => x.2 != 0
    if gives s e then some e else none
  if s.all fun x => x == 0 then some [] else
  match erased with
  | some p => ((List.range 36).filter fun q => q != p).findSome? fun q => pair p q
  | none =>
    match (List.range 36).findSome? fun p => if gives s [(p, s0)] then some [(p, s0)] else none with
    | some e => some e
    | none => ((List.range 36).map fun p => (List.range p).map fun q => (q, p)).flatten.findSome? fun x => pair x.1 x.2

/-- The erased coefficients of a shoring codeword from the others, m of them at most being unknown (R299): with one unknown
the sum of the rest, with two the solution of the two syndromes. -/
def decodeErased (unknown : List Nat) (known : List (Nat × Byte)) : List (Nat × Byte) :=
  let s0 := sparseSyndrome 0 known
  match unknown with
  | [p] => [(p, s0)]
  | [p, q] =>
    let v := solveTwo s0 (sparseSyndrome 1 known) p q
    [(p, v.1), (q, v.2)]
  | _ => []

end Sys2Proof.Machine
end

