-- ==== Sys2Proof/Machine/Parity.lean ====
section
/-!
DEFINITION. The arithmetic of shoring: parity groups (R297), the secured state and its chunks (R298), stripes, their encoding and
their decoding (R299), the owners of failed members' tiles (R305, R307), and the bounds of R304 and R306.
Choices of the model, by log entry: 42 DEDUCED.
-/

namespace Sys2Proof.Machine

/-! ### Parity groups (R297) -/

/-- The parity groups of a position rank: G, and the member node ranks of group i (R297). -/
def groupCount (n g : Nat) : Nat := ceilDiv n g
def groupMembers (n g i : Nat) : List Nat := (List.range n).filter fun x => x % groupCount n g == i

/-- One group as this device sees it: its number, members by node rank, own member number, m. -/
structure Group where
  number : Nat
  members : List Nat
  own : Nat
  m : Nat
  deriving DecidableEq, Repr

/-- The device numbers of a party's members of the position rank `a`, by node rank. -/
def railDevice (p : Party) (a rank : Nat) : Nat := 8 * at' p.nodes rank 0 + at' p.positions a 0

/-- The group that holds a node rank of a position rank: number, members, m (R297). Members whose failure a completed
re-encoding has settled are gone, and m falls to 1 where 2 would leave fewer than two data members (R309). -/
def groupAt (s : State) (job a b : Nat) : Option (Nat × List Nat × Nat) :=
  match jobAt s job with
  | none => none
  | some j =>
    match j.shoring with
    | none => none
    | some c =>
      let p := partyOf s job 1
      if c.mParity = 0 || p.count = 1 then none else
      let n := p.nodes.length
      let i := b % groupCount n (c.kData + c.mParity)
      let gone := j.failed.filter fun d => !j.since.contains d
      let ms := (groupMembers n (c.kData + c.mParity) i).filter fun r => !gone.contains (railDevice p a r)
      let m := if ms.length < c.mParity + 2 && decide (c.mParity = 2) then 1 else c.mParity
      if ms.length < m + 2 then none else some (i, ms, m)

/-- This device's group in a job with shoring, none where it has none. -/
def groupOf (s : State) (job : Nat) : Option Group :=
  let p := partyOf s job 1
  (groupAt s job p.a p.b).map fun g => ⟨g.1, g.2.1, g.2.1.findIdx fun x => x == p.b, g.2.2⟩

/-- The group that the next securing forms: failed members are gone (R309). -/
def settledGroup (s : State) (job : Nat) : Option Group := groupOf (setJob s job fun j => { j with since := [] }) job

/-- The device numbers of a group's members, in member order. -/
def Group.devices (g : Group) (s : State) (job : Nat) : List Nat :=
  let p := partyOf s job 1
  g.members.map (railDevice p p.a)

/-! ### Stripes (R298) -/

/-- The rank among a stripe's parity holders of a member, none for a data member. -/
def parityRank (size m st mem : Nat) : Option Nat := (List.range m).find? fun i => (st + i) % size == mem

/-- The number among its own chunks that a data member contributes to a stripe. -/
def dataIndex (size m st mem : Nat) : Nat := (List.range st).countP fun x => (parityRank size m x mem).isNone

/-- The stripe of a member's chunk i. -/
def chunkStripe (size m mem i : Nat) : Nat :=
  ((List.range (2 * size * (i + 1))).find? fun st => (parityRank size m st mem).isNone && dataIndex size m st mem == i).getD 0

/-- The number of stripes: the least at which every member has been a data member c times. -/
def stripeCount (size m c : Nat) : Nat :=
  ((List.range (c * size + 1)).find? fun j => (List.range size).all fun mem => decide (c ≤ dataIndex size m j mem)).getD (c * size)

/-- Parity chunks that a member holds. -/
def parityChunks (size m c mem : Nat) : Nat :=
  (List.range (stripeCount size m c)).countP fun st => (parityRank size m st mem).isSome

/-- A member's place in the codeword: parity holder i at x^i, the data members after them in increasing number (R299). -/
def codePlace (size m st mem : Nat) : Nat :=
  match parityRank size m st mem with
  | some i => i
  | none => m + (List.range mem).countP fun x => (parityRank size m st x).isNone

/-! ### Encoding and decoding chunks (R299) -/

/-- Every address at which some chunk holds a byte. -/
def Mem.keys (ms : List Mem) : List Nat :=
  (ms.flatten.foldl (fun (k : Mem) c => Mem.set k c.1 1) []).map fun c => c.1

/-- A memory byte by byte from the listed addresses, which rise. -/
def Mem.tabulate (keys : List Nat) (f : Nat → Byte) : Mem :=
  keys.filterMap fun a => if f a = 0 then none else some (a, f a)

/-- The parity chunk i of data chunks in increasing member number. -/
def encodeChunk (m i : Nat) (data : List Mem) : Mem :=
  Mem.tabulate (Mem.keys data) fun a => at' (checkSymbols m (data.map fun c => Mem.get c a)) i 0

/-- The chunk at one place of a codeword from k′ chunks at other places, by erasure decoding. -/
def decodeChunk (size place : Nat) (known : List (Nat × Mem)) : Mem :=
  let unknown := (List.range size).filter fun p => !known.any fun x => x.1 == p
  Mem.tabulate (Mem.keys (known.map fun x => x.2)) fun a =>
    match (decodeErased unknown (known.map fun x => (x.1, Mem.get x.2 a))).find? fun x => x.1 == place with
    | some x => x.2
    | none => 0

/-! ### The secured state (R298) -/

/-- A member's tiles of one object: the member they come from, the object, the tiles. -/
structure Segment where
  origin : Nat
  entry : ObjEntry
  tiles : List Nat
  deriving DecidableEq, Repr

/-- The objects whose tiles are secured, in object-table order. -/
def securedEntries (s : State) (ctx : Nat) : List ObjEntry :=
  match ctxAt s ctx with
  | some c => (c.objects.map fun o => o.entry).filter fun e => e.role == .parameter || e.role == .moment
  | none => []

/-- What a member secures: its own shards, and after them the tiles of failed members that it owns. -/
def segmentsOf (s : State) (ctx : Nat) (shares : List (Nat × Nat × Nat × List Nat)) (device : Nat) : List Segment :=
  ((securedEntries s ctx).map fun e => ⟨device, e, List.range e.tiles⟩) ++
  (shares.filter fun x => x.2.1 == device).filterMap fun x =>
    ((securedEntries s ctx).find? fun e => e.object == x.2.2.1).map fun e => ⟨x.1, e, x.2.2.2⟩

/-- Each tile's byte offset in the secured state, with its origin and object. -/
def tilePlaces : Nat → List Segment → List (Nat × Nat × ObjEntry × Nat)
  | _, [] => []
  | a, g :: l => (g.tiles.zipIdx.map fun x => (a + x.2 * g.entry.tileMax, g.origin, g.entry, x.1)) ++
      tilePlaces (a + g.tiles.length * g.entry.tileMax) l

/-- The bytes of the tiles, after which stand the scale entries and VERSIONs, 40 bytes for each object. -/
def tailAt (gs : List Segment) : Nat := (gs.map fun g => g.tiles.length * g.entry.tileMax).sum
def stateBytes (gs : List Segment) : Nat := tailAt gs + 40 * gs.length

/-- Chunks of 1 MiB of a secured state. -/
def stateChunks (gs : List Segment) : Nat := ceilDiv (stateBytes gs) (2 ^ 20)

/-- The object that holds a segment's tiles on this device, and its scale entry. -/
def segmentObj (s : State) (job ctx : Nat) (g : Segment) : Option (Obj × ScaleEntry) :=
  if g.origin = deviceNumber s then (objAt s ctx g.entry.object).map fun o => (o, scaleAt s ctx o.entry.scale)
  else match (shadowsOf s job).find? fun h => h.device == g.origin with
    | some h => (h.ctx.objects.find? fun o => o.entry.object == g.entry.object).map fun o =>
        (o, at' h.ctx.scales o.entry.scale {})
    | none => none

/-- The secured state of this device as its bytes: the current slot of every tile, the scale entries and VERSIONs. -/
def serialize (s : State) (job ctx : Nat) (gs : List Segment) : Mem :=
  ((tilePlaces 0 gs).map fun x => match segmentObj s job ctx ⟨x.2.1, x.2.2.1, []⟩ with
    | some o => Mem.slice o.1.data (x.2.2.1.slotBase x.2.2.2) x.2.2.1.tileMax x.1
    | none => []).flatten ++
  (gs.zipIdx.map fun x => match segmentObj s job ctx x.1 with
    | some o => Mem.store [] (tailAt gs + 40 * x.2) (leBytes 32 o.2.pack ++ leBytes 8 o.1.version)
    | none => []).flatten

/-! ### The owners of failed members' chunks and tiles (R305, R307) -/

/-- The member that holds chunk i of a member's secured state after failures in the order given: each survivor, in member order,
takes every (g′ − 1)-th chunk of the one that failed, and of what that one had taken. -/
def holderAfter (ms since : List Nat) (x i : Nat) : Nat :=
  (List.range since.length).foldl (fun h k =>
    if h = at' since k 0 then
      let live := ms.filter fun d => !(since.take (k + 1)).contains d
      at' live (i % max 1 live.length) h
    else h) x

/-- The segments of a member at the newest complete generation. -/
def generationSegments (s : State) (j : Job) (ctx device : Nat) : List Segment := segmentsOf s ctx j.shares device

/-- The failures in the group of this device since the newest complete generation. -/
def groupSince (s : State) (j : Job) (g : Group) : List Nat := j.since.filter (g.devices s j.number).contains

/-- Who owns which tiles of failed members now: the tile goes with the chunk that holds its first byte; the shards of a member
that was restored from a host copy are the restorer's (R311), those of one that has rejoined are its own again (R312). -/
def sharesNow (s : State) (j : Job) (ctx : Nat) : List (Nat × Nat × Nat × List Nat) :=
  match groupOf s j.number with
  | none => j.shares
  | some g =>
    let ms := g.devices s j.number
    let since := groupSince s j g
    let places := (ms.map fun x => (tilePlaces 0 (generationSegments s j ctx x)).map fun p =>
      (p.2.1, if since.contains x && j.restored.contains x then deviceNumber s else holderAfter ms since x (p.1 / 2 ^ 20), p.2.2.1.object, p.2.2.2)).flatten
    let moved := places.filter fun p => p.1 != p.2.1 && j.failed.contains p.1
    (moved.map fun p => (p.1, p.2.1, p.2.2.1)).eraseDups.map fun k =>
      (k.1, k.2.1, k.2.2, (moved.filter fun p => (p.1, p.2.1, p.2.2.1) == k).map fun p => p.2.2.2)

/-- What this device would secure now. -/
def ownSegments (s : State) (j : Job) (ctx : Nat) : List Segment := segmentsOf s ctx (sharesNow s j ctx) (deviceNumber s)

/-- Chunks of this device's own secured state. -/
def ownChunks (s : State) (job ctx : Nat) : Nat :=
  match jobAt s job with | some j => stateChunks (ownSegments s j ctx) | none => 0

/-- c: the largest chunk count among the members of a group that secures now. -/
def groupChunks (s : State) (j : Job) (g : Group) (ctx : Nat) : Nat :=
  let shares := sharesNow s j ctx
  ((g.devices s j.number).map fun d => stateChunks (segmentsOf s ctx shares d)).foldl max 0

/-- The chunks that a member holds at the newest complete generation, those it has rebuilt since among them (R306). -/
def heldChunks (s : State) (j : Job) (g : Group) (ctx device : Nat) : Nat :=
  let ms := g.devices s j.number
  (ms.map fun x => (List.range (stateChunks (generationSegments s j ctx x))).countP fun i =>
    holderAfter ms (groupSince s j g) x i == device).sum

/-! ### Encoding a generation (R298, R303) -/

/-- The parity chunks of a member: for each stripe that it is a parity holder of, the data chunks received, the ones not sent
being zero. -/
def parityOf (g : Group) (c : Nat) (received : List StripeChunk) : List (Nat × Mem) :=
  let size := g.members.length
  (List.range (stripeCount size g.m c)).filterMap fun st => (parityRank size g.m st g.own).map fun i =>
    (st, encodeChunk g.m i (((List.range size).filter fun x => (parityRank size g.m st x).isNone).map fun x =>
      match received.find? fun y => y.stripe == st && y.member == x with
      | some y => y.data
      | none => []))

/-- The generation that a securing of a step writes. -/
def newGeneration (s : State) (j : Job) (ctx step : Nat) (received : List StripeChunk) : Generation :=
  ⟨ctx, step, serialize s j.number ctx (ownSegments s j ctx),
   match settledGroup s j.number with
   | some g => parityOf g (groupChunks s j g ctx) received
   | none => []⟩

/-! ### Rebuilding from a generation (R305) -/

/-- The chunk of a stripe that this device can lay hand on for a member: its own, one it has rebuilt, one that is fetched, or a
zero chunk that was never sent. -/
def stripeChunk (s : State) (j : Job) (g : Group) (gen : Generation) (fetched : List StripeChunk) (st mem : Nat) : Option Mem :=
  let size := g.members.length
  let dev := at' (g.devices s j.number) mem 0
  let i := dataIndex size g.m st mem
  let parity := (parityRank size g.m st mem).isSome
  if mem = g.own then
    if parity then (gen.parity.find? fun x => x.1 == st).map fun x => x.2
    else some (Mem.slice gen.state (i * 2 ^ 20) (2 ^ 20) 0)
  else if !parity && decide (stateChunks (generationSegments s j gen.ctx dev) ≤ i) then some []
  else match if parity then none else j.chunks.find? fun x => x.1 == dev && x.2.1 == i with
    | some x => some x.2.2
    | none => (fetched.find? fun x => x.stripe == st && x.member == mem).map fun x => x.data

/-- Chunk i of a member: at hand, or decoded from k′ chunks of its stripe, data chunks first. -/
def rebuiltChunk (s : State) (j : Job) (g : Group) (gen : Generation) (fetched : List StripeChunk) (mem i : Nat) : Option Mem :=
  let size := g.members.length
  let st := chunkStripe size g.m mem i
  match stripeChunk s j g gen fetched st mem with
  | some c => some c
  | none =>
    let held := (List.range size).filterMap fun x => (stripeChunk s j g gen fetched st x).map fun c => (codePlace size g.m st x, c)
    let known := ((held.filter fun x => decide (g.m ≤ x.1)) ++ held.filter fun x => decide (x.1 < g.m)).take (size - g.m)
    if known.length < size - g.m then none else some (decodeChunk size (codePlace size g.m st mem) known)

/-- The chunks that the newest failure gives to this device: member, chunk. -/
def chunksToRebuild (s : State) (j : Job) (g : Group) (ctx : Nat) : List (Nat × Nat) :=
  let ms := g.devices s j.number
  let since := groupSince s j g
  (ms.zipIdx.map fun x => (List.range (stateChunks (generationSegments s j ctx x.1))).filterMap fun i =>
    if holderAfter ms since x.1 i == deviceNumber s && holderAfter ms since.dropLast x.1 i != deviceNumber s then some (x.2, i)
    else none).flatten

/-- The tiles that come with rebuilt chunks: origin, object and tile, with its bytes in the failed member's secured state. -/
def rebuiltTiles (s : State) (j : Job) (g : Group) (gen : Generation) (fetched : List StripeChunk) :
    Option (List (Nat × ObjEntry × Nat × Mem)) :=
  let need := chunksToRebuild s j g gen.ctx
  let ms := g.devices s j.number
  (need.map fun x => x.1).eraseDups.foldr (fun mem acc => acc.bind fun acc =>
    let tiles := (tilePlaces 0 (generationSegments s j gen.ctx (at' ms mem 0))).filter fun p => need.contains (mem, p.1 / 2 ^ 20)
    let bytes (p : Nat × Nat × ObjEntry × Nat) : Option Mem :=
      (List.range ((p.1 + p.2.2.1.tileMax - 1) / 2 ^ 20 + 1 - p.1 / 2 ^ 20)).foldr (fun k m => m.bind fun m =>
        (rebuiltChunk s j g gen fetched mem (p.1 / 2 ^ 20 + k)).map fun c =>
          let at0 := (p.1 / 2 ^ 20 + k) * 2 ^ 20
          let lo := max p.1 at0
          let hi := min (p.1 + p.2.2.1.tileMax) (at0 + 2 ^ 20)
          Mem.slice c (lo - at0) (hi - lo) (lo - p.1) ++ m) (some [])
    tiles.foldr (fun p l => l.bind fun l => (bytes p).map fun b => (p.2.1, p.2.2.1, p.2.2.2, b) :: l) (some acc)) (some [])

/-- The scale entry of an object of a failed member, where the tail of its secured state is at hand; this device's own otherwise. -/
def rebuiltScale (s : State) (j : Job) (g : Group) (gen : Generation) (fetched : List StripeChunk) (origin object : Nat) :
    BitVec 256 :=
  let ms := g.devices s j.number
  let found := ms.zipIdx.findSome? fun x =>
    let gs := generationSegments s j gen.ctx x.1
    if x.1 = deviceNumber s then none else
    (gs.findIdx? fun y => y.origin == origin && y.entry.object == object).bind fun k =>
      let a := tailAt gs + 40 * k
      if a / 2 ^ 20 = (a + 31) / 2 ^ 20 then (rebuiltChunk s j g gen fetched x.2 (a / 2 ^ 20)).map fun c => Mem.le c (a % 2 ^ 20) 32
      else none
  BitVec.ofNat 256 (found.getD (match objAt s gen.ctx object with | some o => (scaleAt s gen.ctx o.entry.scale).pack | none => 0))

/-- The rebuilt tiles of one member as objects at the securing step (R308). -/
def rebuiltState (s : State) (j : Job) (g : Group) (gen : Generation) (fetched : List StripeChunk) (origin : Nat)
    (tiles : List (Nat × ObjEntry × Nat × Mem)) : Secured :=
  let own := tiles.filter fun t => t.1 == origin
  ⟨gen.ctx, gen.step, (own.map fun t => t.2.1.object).eraseDups.map fun n =>
    ⟨n, gen.step, rebuiltScale s j g gen fetched origin n,
     ((own.filter fun t => t.2.1.object == n).map fun t => t.2.2.2.map fun c => (c.1 + t.2.1.slotBase t.2.2.1, c.2)).flatten⟩⟩

/-! ### Bounds (R304, R306) -/

/-- The largest torus distance between members of a group. -/
def groupHops (s : State) (job : Nat) (g : Group) : Nat :=
  let ext := extents (inForce s 4)
  let p := partyOf s job 1
  let coord (r : Nat) : Nat × Nat × Nat := nodeCoords ext.1 ext.2.1 (at' p.nodes r 0)
  let dist (m a b : Nat) : Nat := min ((a + m - b) % m) ((b + m - a) % m)
  (g.members.map fun a => (g.members.map fun b =>
    dist ext.1 (coord a).1 (coord b).1 + dist ext.2.1 (coord a).2.1 (coord b).2.1 + dist ext.2.2 (coord a).2.2 (coord b).2.2).foldl
      max 0).foldl max 0

/-- C of R304. -/
def securingNs (s : State) (job ctx : Nat) : Frac :=
  match settledGroup s job, jobAt s job with
  | some g, some j =>
    let size := g.members.length
    let c := ownChunks s job ctx
    let p := parityChunks size g.m (groupChunks s j g ctx) g.own
    let host := match j.shoring with | some x => x.hostCopy | none => false
    let base := Frac.ofNat (2 * (shapeOf s job 1 (!j.failed.isEmpty)).entryNs + groupHops s job g * alphaNs)
    let t := (base.add (Frac.mk' (c * g.m * 2 ^ 20) portRate)).add (Frac.mk' (p * (size - g.m) * 2 ^ 20) 16)
    if host then t.add (Frac.mk' (c * 2 ^ 20) (max 1 (bits (committed s 3) 23 16))) else t
  | _, _ => Frac.zero

/-- t_rebuild of R306 without t_layout, on the layout as it stands: for the member with the most chunks. -/
def rebuildNs (s : State) (job ctx : Nat) : Frac :=
  match groupOf s job, jobAt s job with
  | some g, some j =>
    let size := g.members.length
    let live := (g.devices s job).filter fun d => !j.failed.contains d
    let q := ceilDiv ((live.map (heldChunks s j g ctx)).foldl max 0) (max 1 (live.length - 1))
    ((Frac.ofNat (1004000 + 100000 + 2 * (shapeOf s job 1 (!j.failed.isEmpty)).entryNs + groupHops s job g * alphaNs)).add
      (Frac.mk' (q * (size - g.m) * 2 ^ 20) 16)).add (Frac.mk' (2 ^ 20) portRate)
  | _, _ => Frac.zero

end Sys2Proof.Machine
end

