-- ==== Sys2Proof/Machine/Admit.lean ====
section
/-!
DEFINITION. Admission (R65 to R89): the list schedule of R72, the four terms of the bound, the checks of SUBMIT, and what an
admission leaves. SUBMIT and a re-admission share one core.
Choices of the model, by log entry: 9 DESIGN CHOICE, 13 DEDUCED, 20 DESIGN CHOICE, 24 DEDUCED, 34 DEDUCED, 35 DEDUCED,
36 DEDUCED, 62 PRESUMED, 73 DEDUCED, 75 DEDUCED, 76 DEDUCED, 77 DEDUCED, 78 DEDUCED.
-/

namespace Sys2Proof.Machine

/-! ### What the schedule places -/

def Placed.length (p : Placed) : Frac := p.fin.sub p.start

/-- What an admission is computed with: the step, its image, the conditions that stand at admission. -/
structure Basis where
  s : State
  img : Image
  step : Nat
  depth : Nat
  groves : List Nat
  degraded : Bool
  switch : Bool
  evicted : List (Nat × Nat × Nat)
  t0 : Nat
  securing : Bool
  idle : Bool
  takes : List (Nat × Nat × Nat)

/-- The Seam bytes of all tiles of an object at the worst case, in the form in which it moves (R239, R241). -/
def moveBytes (e : ObjEntry) : Nat :=
  e.tiles * seamMax (if e.narrow && e.format = .bx8 then { e with format := .bx4 } else e)

/-- The persistent objects that the step uses and T1 does not hold. -/
def absentObjects (b : Basis) : List ObjEntry :=
  b.img.objects.filter fun e => Role.persistent e.role && usesObject b.img e.object &&
    (match objAt b.s b.img.ctx e.object with | some o => !o.inT1 | none => false)

/-- The items before the first instance: the context switch with the evictions and the moves in, in the order of their first uses,
or the evictions alone (R74, R243, R246). One that moves nothing is no item (R236). -/
def firstItems (b : Basis) : List Item :=
  let firstUses := ((orderedInsts b.img).map fun i =>
    ((absentObjects b).filter fun e => touchesObject b.img i e.object).map fun e => e.object).flatten.eraseDups
  (if b.switch then [.switch] else []) ++ ((b.evicted.filter fun x => x.2.2 != 0).map fun x => Item.room x.1 x.2.1) ++
  (if b.switch then firstUses.map .fetch else []) ++
  (if b.securing then [.securing] else [])

/-- The derived moves around an instance: what comes back before it, and what leaves after it (R243, R244). -/
def gapItems (b : Basis) (i : InstId) (before : Bool) : List Item :=
  (b.img.objects.filter fun e => !Role.persistent e.role && (e.tier != 0 || e.narrow)).filterMap fun e =>
    match widestGap b.img e.object i.mb with
    | none => none
    | some g =>
      if before then (if e.tier != 0 && g.2 = i then some (.back e.object i.mb) else none)
      else if g.1 = i then some (if e.tier != 0 then .out e.object i.mb else .narrow e.object i.mb) else none

/-- The items of the schedule in the order in which they are placed (R72). -/
def itemsOf (b : Basis) : List Item :=
  let order := orderedInsts b.img
  let fetches (seen : List InstId) (i : InstId) : List Item :=
    if b.switch then [] else ((absentObjects b).filter fun e => touchesObject b.img i e.object &&
      !seen.any fun j => touchesObject b.img j e.object).map fun e => .fetch e.object
  let isUpdate (i : InstId) : Bool := match b.img.descs[i.index]? with | some d => d.opcode == 8 | none => false
  let go := order.foldl (fun (acc : List Item × List InstId) i =>
    let norm := if isUpdate i && !acc.2.any isUpdate then [Item.norm] else []
    let filter := if (saplingInsts b.img).contains i then [Item.filter i] else []
    (acc.1 ++ fetches acc.2 i ++ gapItems b i true ++ norm ++ filter ++ [.inst i] ++ gapItems b i false, i :: acc.2)) (firstItems b, [])
  let backs := (b.img.objects.filter fun e => Role.persistent e.role && e.tier == 2 && !e.readonly &&
    b.img.insts.any fun i => (touches b.img i).any fun t => t.object == e.object && t.writes).map fun e => Item.writeBack e.object
  go.1 ++ (if (implicitEntries b.img).isEmpty then [] else [.sync]) ++ backs

/-- The filter of a Sapling instance. -/
def filterObject (img : Image) (i : InstId) : Nat := match img.descs[i.index]? with | some d => (d.opr 0).object | none => noObject

/-- The home tier of an object of the step's image. -/
def tierOf (b : Basis) (n : Nat) : Nat := match b.img.entry n with | some e => e.tier | none => 0

/-- What an item waits for; a filter load takes a buffer that the second instance before it on its engine has left (R176). The moves
in on one path form a chain (R243). -/
def waitsFor (b : Basis) (x y : Item) : Bool :=
  let touchesOf (i : InstId) (n : Nat) : Bool := touchesObject b.img i n
  match x, y with
  | .room _ _, .switch => true
  | .fetch _, .room _ _ => true
  | .fetch _, .switch => true
  | .fetch _, .fetch _ => true
  | .fetch _, .back n _ => tierOf b n == 2
  | .back n _, .fetch _ => tierOf b n == 2
  | .inst _, .switch => true
  | .inst i, .fetch n => touchesOf i n
  | .inst i, .back n m => decide (m = i.mb) && (match widestGap b.img n m with
      | some g => touchesOf i n && (g.2 == i || precedes b.img g.2 i)
      | none => false)
  | .inst i, .narrow n m => decide (m = i.mb) && (match widestGap b.img n m with
      | some g => touchesOf i n && (g.2 == i || precedes b.img g.2 i)
      | none => false)
  | .inst i, .norm => match b.img.descs[i.index]? with | some d => d.opcode == 8 | none => false
  | .inst i, .inst j => (allPreds b.img i).contains j
  | .inst i, .filter j => i == j
  | .filter _, .switch => true
  | .filter i, .fetch n => filterObject b.img i == n
  | .filter i, .inst j =>
    ((predsOf b.img i).contains j && (match b.img.descs[j.index]? with
      | some x => (writtenObjects b.img x).contains (filterObject b.img i) | none => false)) ||
    ((saplingInsts b.img).contains j && saplingRank b.img j + 8 == saplingRank b.img i)
  | .norm, .inst j => match b.img.descs[j.index]? with | some d => writesGradient b.img d || d.opcode == 9 | none => false
  | .sync, .inst _ => true
  | .writeBack n, .inst j => touchesOf j n
  | .narrow n m, .inst j => decide (j.mb = m) && (match widestGap b.img n m with
      | some g => touchesOf j n && (g.1 == j || precedes b.img j g.1)
      | none => false)
  | .out n m, .inst j => decide (j.mb = m) && (match widestGap b.img n m with
      | some g => touchesOf j n && (g.1 == j || precedes b.img j g.1)
      | none => false)
  | .back n m, .out n' m' => decide (n = n') && decide (m = m')
  | .back n _, .back m _ => tierOf b n == tierOf b m
  | .securing, .switch => true
  | .inst i, .securing => match b.img.descs[i.index]? with | some d => d.opcode == 8 | none => false
  | _, _ => false

/-! ### The readiness bound of a take (R265) -/

/-- τ of a stream in ns: its budget, and the elements of a slot at 4 per ns. -/
def tauOf (c : StreamCfg) : Frac :=
  let elems := c.outX * c.outY * c.outZ * c.outC
  (Frac.ofNat (1000 * (c.meanCost * c.budgetMult))).add (Frac.mk' elems 4)

/-- Starts the positions from `p` to `last` on the units in the order of R257: `free` holds the times at which units come
free, the answer is the latest staging time. -/
def dispatch (tau : Frac) (eligible : Nat → Frac) : Nat → Nat → List Frac → Frac → Frac
  | 0, _, _, latest => latest
  | n + 1, p, free, latest =>
    match free with
    | [] => latest
    | f :: rest =>
      let m := rest.foldl Frac.min f
      let start := m.max (eligible p)
      let fin := start.add tau
      let free := match (f :: rest).findIdx? fun x => x = m with
        | some k => (f :: rest).set k fin
        | none => rest
      dispatch tau eligible n (p + 1) free (latest.max fin)

/-- t_ready of a take that would start at device time `at`. -/
def readyNs (s : State) (d : Desc) (k : Nat) (start : Frac) : Frac :=
  match (at' s.streams (d.param 0) {}).stream with
  | none => Frac.zero
  | some x =>
    let tau := tauOf x.cfg
    let pi := (at' s.streams (d.param 0) {}).pi
    let units := (List.range 16).filter x.cfg.units.getLsbD
    let now := Frac.ofNat s.time
    let ends := units.map fun u => match x.busy.find? fun b => b.unit == u with
      | some b => now.max ((Frac.ofNat b.since).add tau)
      | none => now
    let last := (k + 1) * x.cfg.batch
    let busy := (x.busy.filter fun b => decide (b.position < last) && decide (k * x.cfg.batch ≤ b.position)).foldl (fun m b =>
      Frac.max m (now.max ((Frac.ofNat b.since).add tau))) Frac.zero
    let eligible (p : Nat) : Frac := if x.cfg.startIndex + p < pi then now else start
    (dispatch tau eligible (last - x.next) x.next ends busy).sub start

/-! ### Placing -/

/-- The bytes of a whole object read or written on its stacks, and on a tier's path. -/
def derivedPaths (s : State) (home : Nat → Nat → Nat) (e : ObjEntry) (out : Bool) : List (Path × Nat) :=
  let l := (List.range e.tiles).foldl (fun l t => addPath l (.t1 (home e.object t)) e.tileMax) []
  let each := moveBytes e / max 1 e.tiles
  if e.tier = 1 then (List.range e.tiles).foldl (fun l t => addPath l (.t2 (lendPort s t) out) each) l
  else if Role.persistent e.role || e.tier = 2 then addPath l (.t3 out) (moveBytes e)
  else (List.range e.tiles).foldl (fun l t => addPath l (.t1 (home e.object t)) 4224) l

/-- The cost of an item on given groves, from a start time measured in ns from the end of W. -/
def itemCost (b : Basis) (home : Nat → Nat → Nat) (w : Nat) (start : Frac) (gs : List Nat) (x : Item) : Cost :=
  let t3 := bits (committed b.s 3) 23 16
  let move (l : List (Path × Nat)) : Cost := ⟨(Frac.ofNat 500).add (memoryTerm b.depth t3 l), l, [], none, none⟩
  let derived (l : List (Path × Nat)) : Cost :=
    if b.switch then { move l with bound := memoryTerm b.depth t3 (l.filter fun x => x.1.tier == 3) } else move l
  let entry (n : Nat) (out : Bool) : Cost := match b.img.entry n with
    | some e => move (derivedPaths b.s home e out)
    | none => move []
  match x with
  | .inst i =>
    match b.img.descs[i.index]? with
    | none => move []
    | some d =>
      let ready := if d.opcode = 12 then
          let k := ((b.takes.find? fun x => x.1 == d.param 0).map fun x => x.2.1).getD 0 +
            (takesOf b.img (d.param 0)).countP fun j => precedes b.img j i && j != i
          (readyNs b.s d k ((Frac.ofNat (b.t0 + w)).add start)).ceil
        else 0
      boundOf b.s b.img home b.depth b.groves.length b.step b.degraded ready gs i d
  | .norm => { move [] with bound := (Frac.ofNat 500).add (normNs b.s b.img.job b.degraded), slot := some 1 }
  | .sync =>
    let l := entryPaths (implicitEntries b.img)
    { move l with bound := (Frac.ofNat 500).add ((Frac.ofNat (1000 + 8 * (implicitEntries b.img).length)).max (memoryTerm b.depth t3 l)) }
  | .filter i => match b.img.descs[i.index]? with
    | some d => move (pathsOf home (some (saplingRank b.img i % 4)) noObject [] (slotAccess b.img d i 0 false))
    | none => move []
  | .securing => { move [] with bound := securingNs b.s b.img.job b.img.ctx, slot := some 1 }
  | .switch => { move [] with bound := Frac.ofNat 20000 }
  | .fetch n => match b.img.entry n with
    | some e => derived (addPath ((List.range e.tiles).foldl (fun l t => addPath l (.t1 (home n t)) e.tileMax) []) (.t3 false) (moveBytes e))
    | none => move []
  | .room c n => match b.evicted.find? fun y => y.1 == c && y.2.1 == n with
    | some y =>
      let read := match objAt b.s c n with
        | some o => (List.range o.entry.tiles).foldl (fun l t => addPath l (.t1 (t % 16)) o.entry.tileMax) []
        | none => []
      derived (addPath read (.t3 true) y.2.2)
    | none => move []
  | .writeBack n => entry n true
  | .narrow n _ => entry n true
  | .out n _ => entry n true
  | .back n _ => entry n false

/-- The engines that a cost holds alone. -/
def enginesOf (c : Cost) : List Nat :=
  c.lode ++ (match c.sapling with | some d => [16 + d] | none => []) ++ (match c.slot with | some k => [20 + k] | none => [])

/-- The groves an item wants: a RECOMPUTE as many as the widest of its segment (R63). -/
def wantedGroves (b : Basis) (x : Item) : Nat :=
  match x with
  | .inst i => match b.img.descs[i.index]? with
    | some d =>
      if d.opcode = 13 then ((segmentOf b.img d).map fun y => grovesUsed b.img y b.groves.length).foldl max 0
      else grovesUsed b.img d b.groves.length
    | none => 0
  | _ => 0

/-- The key of an item for the Foreman's choice of groves. -/
def itemKey (b : Basis) (x : Item) : Nat := match x with | .inst i => instKey b.step i | _ => 0

/-- So many of the groves that are free; which ones is the Foreman's choice (R12, R50). -/
def pickGroves (key : Nat) (free : List Nat) (want : Nat) : Option (List Nat) :=
  if free.length < want then none
  else if want = 0 then some []
  else if free.length = want then some free
  else some (sortBy id ((sortBy (Config.grovePreference key) free).take want))

/-- The opcode of an item for its power, that of MOVE for a derived one. -/
def itemOp (b : Basis) (x : Item) : Nat :=
  match x with
  | .inst i => (match b.img.descs[i.index]? with | some d => d.opcode | none => 0)
  | .norm => 8
  | .sync => 14
  | _ => 11

/-- Whether a placed item is under way somewhere in an interval. -/
def Placed.overlaps (p : Placed) (a z : Frac) : Bool := p.start.lt z && a.lt p.fin

/-- Whether a path has room for a rate in an interval: at its start and at every start inside it (R72). -/
def pathFits (depth t3 : Nat) (l : List Placed) (a z : Frac) (len : Frac) (p : Path × Nat) : Bool :=
  let rate (q : Placed) : Frac :=
    match q.paths.find? fun x => x.1 = p.1 with
    | some x => (Frac.ofNat x.2).div q.length
    | none => Frac.zero
  let own := (Frac.ofNat p.2).div len
  let moments := a :: ((l.filter fun q => a.lt q.start && q.start.lt z).map fun q => q.start)
  moments.all fun m => (own.add (Frac.sum ((l.filter fun q => q.start.le m && m.lt q.fin).map rate))).le (pathFloor depth t3 p.1)

/-- Inserts a time into a rising list. -/
def insertTime (x : Frac) : List Frac → List Frac
  | [] => [x]
  | y :: l => if x.le y then x :: y :: l else y :: insertTime x l

/-- Whether the worst-case power of the items under way, of their islands and of all others stays within 3,000 W at every moment
of an item's time, and so within both limits of R75. An item alone is always within them. -/
def powerFits (b : Basis) (l : List Placed) (x : Placed) : Bool :=
  let others := l.filter fun p => p.overlaps x.start x.fin
  others.isEmpty ||
  (x.start :: ((others.filter fun q => x.start.lt q.start).map fun q => q.start)).all fun m =>
    let now := x :: others.filter fun q => q.start.le m && m.lt q.fin
    decide (Config.otherWatts + (now.map fun p => Config.itemWatts (itemOp b p.item) p.groves.length).sum +
      (((now.map Placed.islands).flatten.eraseDups).map Config.islandWatts).sum ≤ 3000)

/-- An item at a start time, if everything it needs is free from there to its end (R72, R75). -/
def placeAt (b : Basis) (home : Nat → Nat → Nat) (w : Nat) (l : List Placed) (x : Item) (t : Frac) : Option Placed :=
  let t3 := bits (committed b.s 3) 23 16
  let want := wantedGroves b x
  let free (z : Frac) : List Nat := b.groves.filter fun g => !l.any fun p => p.groves.contains g && (p.overlaps t z || (p.start.le t && t.lt p.fin))
  (pickGroves (itemKey b x) (free t) want).bind fun g0 =>
  (pickGroves (itemKey b x) (free (t.add (itemCost b home w t g0 x).bound)) want).bind fun gs =>
    let c := itemCost b home w t gs x
    let p : Placed := ⟨x, t, t.add c.bound, reserved c.paths, gs, enginesOf c⟩
    let held := l.any fun q => q.overlaps t p.fin && (q.groves.any gs.contains || q.engines.any p.engines.contains)
    if held || !(p.paths.all (pathFits b.depth t3 l t p.fin c.bound)) || !powerFits b l p then none else some p

/-- The cache lines of the tiles that two instances both accumulate into. -/
def commonLines (img : Image) (i j : InstId) : Nat :=
  let adds (k : InstId) : List Touch := match img.descs[k.index]? with
    | some d => if d.accumulate then (touches img k).filter fun t => t.acc && t.writes else []
    | none => []
  let others := adds j
  ((adds i).map fun t => match img.entry t.object with
    | some e => (t.tiles.countP fun n => others.any fun u => u.object == t.object && u.tiles.contains n) * ceilDiv e.tileMax 128
    | none => 0).sum

/-- The earliest start of an accumulating instance that starts at `t` at the earliest (R216): its final store, one cycle for each line of the
tiles that it shares with an instance before it, starts no earlier than that one's end and one cycle per line. -/
def storeStart (b : Basis) (home : Nat → Nat → Nat) (w : Nat) (l : List Placed) (x : Item) (t : Frac) : Frac :=
  match x with
  | .inst i => l.foldl (fun t p => match p.item with
    | .inst j => match commonLines b.img i j with
      | 0 => t
      | n => t.max ((p.fin.add (lodeNs b.depth (2 * n))).sub (itemCost b home w t (b.groves.take (wantedGroves b x)) x).bound)
    | _ => t) t
  | _ => t

/-- Places one item at the earliest time at which everything it needs is free. -/
def place (b : Basis) (home : Nat → Nat → Nat) (w : Nat) (l : List Placed) (x : Item) : List Placed :=
  let after := Frac.maxOf ((l.filter fun p => waitsFor b x p.item).map fun p => p.fin)
  let ready := storeStart b home w l x after
  let times := ready :: ((l.filter fun p => ready.lt p.fin).map fun p => p.fin).foldr insertTime []
  match times.findSome? (placeAt b home w l x) with
  | some p => l ++ [p]
  | none =>
    let t := Frac.maxOf (l.map fun p => p.fin)
    let gs := b.groves.take (wantedGroves b x)
    let c := itemCost b home w t gs x
    l ++ [⟨x, t, t.add c.bound, reserved c.paths, gs, enginesOf c⟩]

/-- The list schedule (R72). -/
def schedule (b : Basis) (w : Nat) : List Placed :=
  let order := orderedInsts b.img
  let home := homeOf b.s b.img order
  (itemsOf b).foldl (place b home w) []

/-- S. -/
def scheduleEnd (l : List Placed) : Frac := Frac.maxOf (l.map fun p => p.fin)

/-! ### The wake term (R84) -/

/-- W (R84): the longest wake of the islands that the items at the start of S need; 0 while a step is queued or running. -/
def wakeTerm (s : State) (first : Bool) (l : List Placed) : Nat :=
  if !first then 0 else
  ((l.filter fun p => p.start = Frac.zero).map fun p => (p.islands.map fun i => wakeNs (islandPower s i)).foldl max 0).foldl max 0

/-! ### The bound -/

/-- Grove losses that ρ covers (R79 Table 4). -/
def coveredLosses (rho : Nat) : Nat := if rho ≤ 18 then 1 else if rho ≤ 27 then 2 else 3

/-- The four terms, with the schedule that S is the length of. -/
structure Bound where
  w : Nat
  s : Frac
  dRep : Frac
  dFail : Frac
  plan : List Placed
  deriving DecidableEq, Repr

def Bound.total (x : Bound) : Nat := ((Frac.ofNat x.w).add ((x.s.add x.dRep).add x.dFail)).ceil

/-- The time of a schedule in which items of one kind are under way and no other ones: what they add to S. -/
def exposedNs (l : List Placed) (mine : Placed → Bool) : Frac :=
  let times := ((l.map fun p => [p.start, p.fin]).flatten.foldr insertTime []).eraseDups
  Frac.sum ((times.zip times.tail).map fun x =>
    let now := l.filter fun p => p.overlaps x.1 x.2
    if !now.isEmpty && now.all mine then x.2.sub x.1 else Frac.zero)

/-- Whether an item serves shards: REDUCE, UPDATE, and a GATHER of the job or node, with the norm collective between them (R81
Table 8). -/
def servesShards (img : Image) (p : Placed) : Bool :=
  match p.item with
  | .norm => true
  | .inst i => (match img.descs[i.index]? with
    | some d => d.opcode == 8 || d.opcode == 9 || (d.opcode == 10 && d.param 0 != 2)
    | none => false)
  | _ => false

/-- t_spread of R81: the parts of S that serve the shards, divided by g − 1. -/
def spreadNs (img : Image) (l : List Placed) (members : Nat) : Frac :=
  (exposedNs l (servesShards img)).div (Frac.ofNat (max 1 (members - 1)))

/-- The bound of a step (R71, R79, R81, R306, R307): the degraded schedule's excess is t_layout. -/
def boundFor (b : Basis) : Bound :=
  let l0 := schedule b 0
  let w := wakeTerm b.s b.idle l0
  let l := if w = 0 then l0 else schedule b w
  let s := scheduleEnd l
  let dFail := match groupOf b.s b.img.job with
    | none => Frac.zero
    | some g =>
      let deg := scheduleEnd (schedule { b with degraded := true } w)
      ((rebuildNs b.s b.img.job b.img.ctx).add (deg.sub s)).add (spreadNs b.img l g.members.length)
  ⟨w, s, (Frac.mk' (bits (committed b.s 1) 13 8) 1000).mul s, dFail, l⟩

/-- Whether the schedule leaves more than 1,024 zero-run tiles open on a Lode engine at some moment (R221). -/
def zeroRunsOver (b : Basis) (l : List Placed) : Bool :=
  let home := homeOf b.s b.img (orderedInsts b.img)
  let open_ (k : Nat) (p : Placed) : Nat := match p.item with
    | .inst i => (match b.img.descs[i.index]? with | some d => zeroOpen b.img home d i p.groves.length k | none => 0)
    | _ => 0
  (b.img.objects.any fun e => e.zeroRun) &&
  (List.range 16).any fun k => l.any fun p =>
    decide (1024 < ((l.filter fun q => q.start.le p.start && p.start.lt q.fin).map (open_ k)).sum)

/-! ### Capacity (R74, R232, R240) -/

/-- The uses of an object in a schedule, in the order of their starts. -/
def scheduledUses (img : Image) (l : List Placed) (n : Nat) : List Placed :=
  l.filter fun p => match p.item with | .inst i => touchesObject img i n | _ => false

/-- The times in which an object holds no T1 between its first and its last use: from its move out to its move back, and before a
RECOMPUTE that rewrites it (R232, R243). -/
def awayTimes (img : Image) (l : List Placed) (e : ObjEntry) : List (Frac × Frac) :=
  let uses := scheduledUses img l e.object
  let end_ (x : Item) : Option Placed := l.find? fun p => p.item == x
  ((List.range img.micro).filterMap fun b => match end_ (.out e.object b), end_ (.back e.object b) with
    | some p, some q => if uses.any fun u => u.overlaps p.fin q.start then none else some (p.fin, q.start)
    | _, _ => none) ++
  (if e.recompute then uses.filterMap fun p => match p.item with
    | .inst i => (match img.descs[i.index]? with
      | some d =>
        let before := uses.filter fun u => u.fin.le p.start
        if d.opcode = 13 && !before.isEmpty then some (Frac.maxOf (before.map fun u => u.fin), p.start) else none
      | none => none)
    | _ => none else [])

/-- The T1 bytes of a transient object at a moment of the schedule: from its first to its last use but while it is away, and in
BX4 once every iteration is narrowed (R74, R231, R232). -/
def bytesAt (img : Image) (l : List Placed) (e : ObjEntry) (m : Frac) : Nat :=
  let uses := scheduledUses img l e.object
  let narrows := l.filter fun p => match p.item with | .narrow n _ => n == e.object | _ => false
  if !uses.any (fun u => u.start.le m) || !uses.any (fun u => m.lt u.fin) then 0
  else if (awayTimes img l e).any fun a => a.1.le m && m.lt a.2 then 0
  else if !narrows.isEmpty && narrows.all fun p => p.fin.le m then transientBytes img { e with format := .bx4 }
  else transientBytes img e

/-- The transient bytes that the schedule needs at its peak (R74). -/
def schedulePeak (img : Image) (l : List Placed) : Nat :=
  let es := img.objects.filter fun e => !Role.persistent e.role
  (l.map fun p => (es.map fun e => bytesAt img l e p.start).sum).foldl max 0

/-- The host-link rate H in GB/s (R318), at the link's width. -/
def hostRate (s : State) : Nat :=
  (if s.link.speed = 128 then 242 else if s.link.speed = 64 then 121 else if s.link.speed = 32 then 60
   else if s.link.speed = 16 then 30 else if s.link.speed = 8 then 15 else 0) * s.link.width / 16

/-- Whether the step moves anything to or from T3. -/
def needsT3 (s : State) (img : Image) (evictions securing : Bool) : Bool :=
  evictions || (img.objects.any fun e => e.tier == 2 || (Role.persistent e.role && usesObject img e.object &&
    (match objAt s img.ctx e.object with | some o => !o.inT1 | none => false))) ||
  (securing && (match jobAt s img.job with | some j => (match j.shoring with | some c => c.hostCopy | none => false) | none => false))

/-- What T3 must hold of the step beside what it holds now (R240). -/
def t3Need (s : State) (img : Image) : Nat :=
  ((img.objects.filter fun e => e.tier == 2 && (!Role.persistent e.role)).map moveBytes).sum + t3Held s

/-- What T2 must hold: the neighbours' lending (R226). -/
def t2Need (img : Image) : Nat := ((img.objects.filter fun e => e.tier == 1).map moveBytes).sum
def t2Capacity (s : State) : Nat := (s.fabric.lends.map fun g => g * 2 ^ 30).sum

/-- Makes room for the absent persistent objects that no step has booked yet and for the transient peak: the state after the
planned evictions, and the evicted objects with their bytes. The step's own objects count as pinned (R74). -/
def planRoom (s : State) (img : Image) (peak : Nat) : Option (State × List (Nat × Nat × Nat)) :=
  let absent := (img.objects.filter fun e => Role.persistent e.role && usesObject img e.object &&
    !(absentBooked s).any (fun x => x.1 == img.ctx && x.2.object == e.object) &&
    (match objAt s img.ctx e.object with | some o => !o.inT1 | none => false)).map persistentBytes
  let pinned := setCtx s img.ctx fun c => { c with objects := c.objects.map fun o =>
    if (usesObject img o.entry.object) then { o with entry := { o.entry with pin := true } } else o }
  match room pinned (absent.sum + peak) with
  | none => none
  | some t =>
    let gone := (pinned.ctxs.map fun c => (c.objects.filter fun o => o.inT1 &&
      (match objAt t c.number o.entry.object with | some x => !x.inT1 | none => false)).map fun o =>
        (c.number, o.entry.object, if o.entry.readonly && o.t3Copy then 0 else moveBytes o.entry)).flatten
    some (gone.foldl (fun s x => match objAt s x.1 x.2.1 with
      | some o => evictObject s x.1 o
      | none => s) s, gone)

/-- The tiles that an admission evicts are coded for its step (R237). -/
def codedFor (s : State) (gone : List (Nat × Nat × Nat)) (step : Nat) : State :=
  gone.foldl (fun s x => if x.2.2 = 0 then s else setObj s x.1 x.2.1 fun o => { o with coded := step }) s

/-- Room and a schedule that agree: the peak is that of the schedule with the evictions which it takes (R74). `fuel` bounds the
rounds in which a later schedule needs more than an earlier one. -/
def settleRoom (b : Basis) : Nat → Nat → Option (State × List (Nat × Nat × Nat) × Bound × Nat)
  | 0, _ => none
  | fuel + 1, peak =>
    match planRoom b.s b.img peak with
    | none => none
    | some (t, gone) =>
      let x := boundFor { b with evicted := gone }
      let need := schedulePeak b.img x.plan
      if need ≤ peak then some (codedFor t gone b.step, gone, x, peak) else settleRoom b fuel need

/-! ### Conditions before a schedule is sought -/

/-- The ports that the running drill acts on (R293). -/
def drillPorts (s : State) : List Nat :=
  if !s.fabric.drill then [] else
  (List.range 20).filter fun p => (List.range 8).any fun e => (committed s 6 >>> (128 * e + p)) % 2 == 1

/-- The ports that a step's collectives use (R270, R284), and the near ports where it keeps tiles in T2. -/
def portsUsed (s : State) (img : Image) : List Nat :=
  let p := partyOf s img.job 1
  let far := match p.box with
    | none => []
    | some b => (if 1 < b.ex then [7, 8, 9, 10] else []) ++ (if 1 < b.ey then [11, 12, 13, 14] else []) ++
        (if 1 < b.ez then [15, 16, 17, 18] else [])
  let near := if 1 < p.positions.length || img.objects.any fun e => e.tier == 1 then List.range 7 else []
  let job := img.descs.any fun d => (d.opcode == 8) || (isCollective d && (d.opcode > 10 || d.param 0 != 0))
  if img.descs.any (fun d => isCollective d || d.opcode == 8) || img.objects.any (fun e => e.tier == 1) then
    near ++ (if job then far else [])
  else []

/-- Whether an active drill acts on a port that the step uses (R68). -/
def drillHits (s : State) (img : Image) : Bool := (portsUsed s img).any (drillPorts s).contains

/-- Whether the step's stage plan is incomplete (R290): it has stage transfers and a stage of its job has published nothing. -/
def planPending (s : State) (img : Image) : Bool :=
  !(stageTransfers img).isEmpty &&
  (match jobAt s img.job with
   | none => true
   | some j => match j.box with
     | none => true
     | some b => !(List.range (stageCount b)).all fun k => j.published.any fun x => x.1 == k)

/-- Whether a collective of the step spans more participants than rule P allows (R193). -/
def rulePWide (s : State) (img : Image) : Bool :=
  decide (4096 < (partyOf s img.job 1).count) && img.descs.any fun d => d.opcode == 8 && d.param 0 == 1

/-- Takes per stream of an image, with the number of the first (R255). -/
def takeRanges (s : State) (img : Image) : List (Nat × Nat × Nat) :=
  (List.range 16).filterMap fun st =>
    let n := (takesOf img st).length
    if n = 0 then none else (streamAt s st).map fun x => (st, x.takes, n)

/-- Whether the step would exceed AHEAD batches of a stream (R266). -/
def aheadExceeded (s : State) (img : Image) : Bool :=
  (takeRanges s img).any fun t => match streamAt s t.1 with
    | some x => decide (x.cfg.ahead < t.2.2 + (((inHand s).map fun a => ((a.takes.filter fun y => y.1 == t.1).map fun y => y.2.2).sum).sum))
    | none => false

/-- What is checked again once the problem lists are known (R53, R58, R100 to R102, R185): the lists of every instance, and of an
image that has any, its order and its hazards. -/
def listsBad (s : State) (img : Image) : Option Nat :=
  let late (d : Desc) : Bool := gradientLate img d || syncLate img d || (d.opcode == 13 && recomputeBad img d)
  if img.insts.any fun i => match img.descs[i.index]? with | some d => problemsBad s img d i | none => false then some St.invalidField
  else if img.lists.isEmpty then none
  else if img.descs.any late then some St.invalidField
  else (hazardOf img).map fun _ => St.refusedHazard

/-- The status of the first take whose stream does not fit (R264). -/
def takeStatus (s : State) (img : Image) : Option Nat :=
  (img.descs.filter fun d => d.opcode == 12).findSome? (takeBad s img)

/-- Whether the step carries the securing of the announced one, the step before it (R302, R303). -/
def securingStep (s : State) (job step : Nat) : Bool :=
  match jobAt s job with
  | some j => (match j.announced with | some a => decide ((a + 1) % 2 ^ 64 = step) | none => false) && (groupOf s job).isSome
  | none => false

/-! ### The core of an admission -/

/-- The outcome of seeking a schedule: a refusal's status, or the bound with what it rests on. -/
inductive Sought where
  | refused (status : Nat)
  | found (b : Bound) (t : State) (peak : Nat) (rests : Bool) (t0 : Nat)

/-- What a step behind the steps `prior` is admitted with: their T_0 and the conditions that stand (R69, R71). -/
def basisFor (s : State) (prior : List Admitted) (img : Image) (step : Nat) (takes : List (Nat × Nat × Nat)) : Basis :=
  let before := prior.getLast?
  let t0 := match before with | some a => max s.time a.promise | none => s.time
  let last := match before with | some a => some a.ctx | none => s.sched.current
  ⟨s, img, step, bits (committed s 1) 1 0, inService s,
    (match jobAt s img.job with | some j => !j.failed.isEmpty | none => false),
    last != some img.ctx, [], t0, securingStep s img.job step, prior.isEmpty, takes⟩

/-- Seeks room and a schedule for a step behind the steps `prior` (R66, R69, R72, R74, R221, R246, R318). -/
def seek (s : State) (prior : List Admitted) (img : Image) (step : Nat) (takes : List (Nat × Nat × Nat)) : Sought :=
  let basis := basisFor s prior img step takes
  if (img.objects.any fun e => e.tier == 2) && decide (t3Capacity s < t3Need s img) then .refused St.refusedResource
  else if t2Capacity s < t2Need img then .refused St.refusedResource
  else match settleRoom basis 4 (schedulePeak img (schedule basis 0)) with
  | none => .refused St.refusedResource
  | some (t, gone, b, peak) =>
    let floor := bits (committed s 3) 23 16
    if needsT3 s img (gone.any fun x => x.2.2 != 0) basis.securing && (floor == 0 || decide (hostRate s < floor)) then
      .refused St.refusedResource
    else if zeroRunsOver { basis with evicted := gone } b.plan then .refused St.refusedResource
    else .found b t peak (match prior.getLast? with | some a => decide (s.time < a.promise) | none => false) basis.t0

/-- The generations of the configuration sets that stand committed. -/
def committedGens (s : State) : List Nat := s.cfg.map fun c => c.gen

/-- The key under which a schedule is cached (R67): job, depth, n, and where the image's objects stand. -/
def cacheKey (s : State) (img : Image) : Nat × Nat × Nat × List Nat :=
  (img.job, bits (committed s 1) 1 0, (inService s).length,
   img.objects.map fun e => match objAt s img.ctx e.object with | some o => bit o.inT1 | none => 2)
def isCached (s : State) (img : Image) : Bool :=
  match ctxAt s img.ctx with | some c => c.cache.contains (cacheKey s img) | none => false

/-- Keeps a schedule in the cache. -/
def cacheSchedule (s : State) (img : Image) : State :=
  let k := cacheKey s img
  setCtx s img.ctx fun c => { c with cache := if c.cache.contains k then c.cache else k :: c.cache }

/-- Takes the take numbers of an admitted step (R255). -/
def bookTakes (s : State) (ts : List (Nat × Nat × Nat)) : State :=
  ts.foldl (fun s t => setStream s t.1 fun x => { x with takes := t.2.1 + t.2.2 }) s

/-- Marks the persistent objects of an admitted step as last used by it (R235). -/
def useObjects (s : State) (img : Image) (n : Nat) : State :=
  setCtx s img.ctx fun c => { c with objects := c.objects.map fun o =>
    if (usesObject img o.entry.object) then { o with lastUse := n } else o }

/-- The extension that a step takes over from the one before it (R70): its promise rests on that one's promise. -/
def carried (rests : Bool) (before : List Admitted) : Nat :=
  if rests then (before.getLast?.map fun a => a.extension).getD 0 else 0

/-- What an admission makes of a step. -/
def admitted (s : State) (img : Image) (step bound promise : Nat) (drill rests : Bool) (b : Bound) (peak deadline t0 : Nat)
    (takes : List (Nat × Nat × Nat)) (before : List Admitted) : Admitted :=
  { job := img.job, ctx := img.ctx, step, image := img, bound, promise, rests, drill,
    dFail := b.dFail.ceil, covered := coveredLosses (bits (committed s 1) 13 8), admission := s.sched.admissions + 1,
    deadline, clock := bits (committed s 1) 1 0, gens := committedGens s, securing := securingStep s img.job step,
    takes, booked := peak, extension := carried rests before, groves := (inService s).length,
    t0, wake := b.w, plan := b.plan }

/-- Queues a newly admitted step with its record (R69, R349). -/
def enqueue (s : State) (a : Admitted) : State :=
  let rec' : StepRec := { step := a.step, job := a.job, ctx := a.ctx, state := 0, drill := a.drill, promise := if a.drill then 0 else a.promise,
                          effective := if a.drill then 0 else a.promise + a.extension }
  let s := useObjects (bookTakes s a.takes) a.image a.admission
  let s := { s with sched := { s.sched with
      queue := s.sched.queue ++ [a], admissions := a.admission,
      records := (s.sched.records.filter fun r => !(r.job == a.job && r.step == a.step)) ++ [rec'] } }
  setJob s a.job fun j => { j with lastAdmitted := some a.step }

/-! ### SUBMIT -/

/-- The fields of SUBMIT (R65 Table 1). -/
structure Submission where
  ctx : Nat
  job : Nat
  step : Nat
  deadline : Nat
  drillOk : Bool
  deriving DecidableEq, Repr

def submissionOf (page : Mem) : Submission :=
  ⟨Mem.le page 64 2, Mem.le page 68 4, Mem.le page 72 8, Mem.le page 80 8, Mem.le page 88 1 % 2 == 1⟩

/-- The first byte offset of a reserved field of SUBMIT that is not 0 (R341). -/
def submitReserved (page : Mem) : Option Nat :=
  if Mem.le page 66 2 ≠ 0 then some 66
  else if Mem.le page 88 8 / 2 ≠ 0 then some 88
  else none

/-- The admission result (R65 Table 2). -/
def submitPayload (promise bound ach now wake rep fail n : Nat) (drill cached : Bool) : Resp :=
  [(64, promise), (64, bound), (64, ach), (64, now), (64, wake), (64, rep), (64, fail), (16, n), (1, bit drill),
   (1, bit cached), (46, 0)]

/-- µs rounded up, at most 2^32 − 1 (R89). -/
def microseconds (ns : Nat) : Nat := capAt (2 ^ 32 - 1) (ceilDiv ns 1000)

/-- A refusal of SUBMIT: its record, and a payload of zeros but RESPONSE_TIME (R65, R68, R89). -/
def refuseSubmit (s : State) (m : Nat) (status detail : Nat) (job step : Nat) : State :=
  respond (tally s 0x0200 islandForeman 1 status job (lo32 step) 0) m status (submitPayload 0 0 0 s.time 0 0 0 0 false false)
    detail 0

/-- The image of a context and a job. -/
def imageOf (s : State) (ctx job : Nat) : Option Image := (ctxAt s ctx).bind fun c => c.images.find? fun i => i.job == job

/-- Whether STEP is one more than the last step admitted for the job (R68). -/
def orderOk (s : State) (job step : Nat) : Bool :=
  match (jobAt s job).bind fun j => j.lastAdmitted with
  | some n => step == (n + 1) % 2 ^ 64
  | none => true

/-- The image that a submission names, with its problem lists as they stand (R102). -/
def submitImage (s : State) (q : Submission) : Option Image := (imageOf s q.ctx q.job).map (resolveLists s)

/-- Every condition of SUBMIT but its room and its schedule, in the order of R68 and R341: the status and DETAIL of the
refusal. -/
def submitBad (s : State) (w : Work) (q : Submission) : Option (Nat × Nat) :=
  if w.length ≠ 32 then some (St.invalidField, 12) else
  match submitReserved w.page with
  | some o => some (St.invalidField, o)
  | none =>
    if w.ctx ≠ q.ctx then some (St.invalidField, 64) else
    match ctxAt s q.ctx with
    | none => some (St.noContext, 0)
    | some _ =>
      match submitImage s q with
      | none => some (St.invalidField, 68)
      | some img =>
        let j := (jobAt s q.job).getD { number := q.job }
        if j.lost ≠ 0 then some (St.groupLost, 0)
        else if s.dev.shutStep ≠ 0 then some (St.wrongState, 0)
        else if s.link.width < 4 then some (St.linkDegraded, 0)
        else if !orderOk s q.job q.step then some (St.stepOrder, 0)
        else if drillHits s img && !q.drillOk then some (St.drillActive, 0)
        else if planPending s img then some (St.planPending, 0)
        else if rulePWide s img then some (St.rulePSpan, 0)
        else if 8 ≤ (inHand s).length then some (St.refusedResource, 0)
        else match listsBad s img <|> takeStatus s img with
          | some st => some (st, 0)
          | none => if aheadExceeded s img then some (St.refusedResource, 0) else none

/-- SUBMIT with every earlier check passed: room, schedule, bound and deadline (R68, R69). The input voltage out of range
voids the promise at once (R400). -/
def submitSchedule (s : State) (m : Nat) (w : Work) (q : Submission) (img : Image) : State :=
  match seek s (inHand s) img q.step (takeRanges s img) with
  | .refused st => refuseSubmit s m st 0 q.job q.step
  | .found b t peak rests t0 =>
    let total := b.total
    let p := t0 + total
    let ach := p - w.tD
    let n := (inService s).length
    let cached := isCached s img
    if q.deadline ≠ 0 && decide (q.deadline < ach) then
      respond (tally s 0x0200 islandForeman 1 St.refusedBound q.job (lo32 q.step) (microseconds ach)) m St.refusedBound
        (submitPayload 0 total ach s.time b.w b.dRep.ceil b.dFail.ceil n false cached) 0 0
    else
      let drill := drillHits s img
      let a := admitted s img q.step total p drill rests b peak q.deadline t0 (takeRanges s img) (inHand s)
      let u := cacheSchedule (enqueue t a) img
      let u := if s.board.inRange then u else voidSteps u 5 fun x => x.job == a.job && x.step == a.step
      respond u m St.ok (submitPayload (if drill then 0 else p) total ach s.time b.w b.dRep.ceil b.dFail.ceil n drill cached) 0 0

/-- Nothing of an image that spans too many devices for rule P is kept (R193). -/
def dropImage (s : State) (q : Submission) : State :=
  setCtx s q.ctx fun c => { c with images := c.images.filter fun i => i.job != q.job, cache := c.cache.filter fun x => x.1 != q.job }

/-- SUBMIT (R65 to R69). -/
def submitDo (s : State) (m : Nat) (w : Work) : State :=
  let q := submissionOf w.page
  match submitBad s w q with
  | some x => refuseSubmit (if x.1 = St.rulePSpan then dropImage s q else s) m x.1 x.2 q.job q.step
  | none => match submitImage s q with
    | some img => submitSchedule s m w q img
    | none => s

/-- SUBMIT (R65). -/
def execSubmit (m : Fin 64) (s : State) : Host.Outcome State Fault Refusal :=
  done (match workOf s m 0x0503 with
    | none => s
    | some w => submitDo s m w)

/-! ### Re-admission (R87) -/

/-- Gives up the take numbers of a removed step, which those of later steps close up (R256). -/
def releaseTakes (s : State) (a : Admitted) : State :=
  a.takes.foldl (fun s t =>
    let s := setStream s t.1 fun x => { x with takes := x.takes - t.2.2 }
    let shift (l : List (Nat × Nat × Nat)) : List (Nat × Nat × Nat) :=
      l.map fun y => if y.1 = t.1 && decide (t.2.1 < y.2.1) then (y.1, y.2.1 - t.2.2, y.2.2) else y
    { s with sched := { s.sched with queue := s.sched.queue.map fun b => { b with takes := shift b.takes } } }) s

/-- Whether two admissions are of the same step. -/
def Admitted.same (a b : Admitted) : Bool := a.job == b.job && a.step == b.step

/-- Removes a queued step, with its take numbers. -/
def removeQueued (s : State) (a : Admitted) : State :=
  releaseTakes { s with sched := { s.sched with queue := s.sched.queue.filter fun x => !x.same a } } a

/-- Changes a queued step. -/
def setQueued (s : State) (a : Admitted) (f : Admitted → Admitted) : State :=
  { s with sched := { s.sched with queue := modifyWhere (fun x => x.same a) f s.sched.queue } }

/-- The first step whose promise rested on a voided one, once that one has completed, and the steps before it. -/
def readmittable (s : State) : Option (Admitted × List Admitted) :=
  let l := inHand s
  let before := l.takeWhile fun a => !a.voidedBehind
  if before.any fun a => a.void then none
  else (l.drop before.length).head?.map fun a => (a, before)

/-- Admits a step again in its place of the queue: T_D is the moment at which the voided step completed, and the outcome is
recorded. -/
def readmitOne (s : State) (a : Admitted) (before : List Admitted) : State :=
  let out (s : State) (outcome ach : Nat) : State :=
    deviceEvent (tally s 0x0203 islandForeman 1 a.job (lo32 a.step) outcome ach) 0
  let removed (s : State) (ach : Nat) : State :=
    out (setRecord (removeQueued s a) a.job a.step fun r =>
      { r with state := 4, status := St.refusedBound, readmitted := true }) 2 ach
  match seek (setQueued s a fun x => { x with booked := 0 }) before a.image a.step a.takes with
  | .refused _ => removed s 0
  | .found b t peak rests t0 =>
    let p := t0 + b.total
    let ach := p - s.sched.voidedAt
    if a.deadline ≠ 0 && decide (a.deadline < ach) then removed s (microseconds ach)
    else
      let s := setQueued t a fun x =>
        { x with bound := b.total, promise := p, rests, void := false, voidedBehind := false, dFail := b.dFail.ceil,
                 covered := coveredLosses (bits (committed s 1) 13 8), clock := bits (committed s 1) 1 0,
                 gens := committedGens s, booked := peak, extension := carried rests before,
                 groves := (inService s).length, t0, wake := b.w, plan := b.plan }
      let s := setRecord s a.job a.step fun r =>
        { r with state := 0, status := 0, readmitted := true, promise := p, effective := p + carried rests before }
      out s 1 (microseconds ach)

/-- READMISSION (R87). -/
def execReadmission (s : State) : Host.Outcome State Fault Refusal :=
  done (match readmittable s with
    | none => s
    | some x => readmitOne s x.1 x.2)

end Sys2Proof.Machine
end

