-- ==== Sys2Proof/Machine/Firmware.lean ====
section
/-!
DEFINITION. Firmware images, slots and the FIRMWARE commands (R358 to R363).
Choices of the model, by log entry: 44 DESIGN CHOICE.
-/

namespace Sys2Proof.Machine

/-! ### The image header (R358 Table 2) -/

def fwKey (m : Mem) : Nat := Mem.le m 6 1
def fwSecurity (m : Mem) : Nat := Mem.le m 12 4
def fwRevoke (m : Mem) : Nat := Mem.le m 16 1 % 16
def fwBody (m : Mem) : Nat := Mem.le m 20 4
def fwVersion (m : Mem) : Nat := Mem.le m 24 4
/-- The firmware digest D of R359. -/
def fwDigestOf (m : Mem) : BitVec 256 := Config.sha3 (Mem.bytes m 0 128)

/-- Step 1 of R361: magic, versions, part, body size and the zero reserved bytes. -/
def fwHeaderOk (m : Mem) : Bool :=
  Mem.le m 0 4 == 0x4D424657 && Mem.le m 4 2 == 1 && Mem.le m 8 2 == 0x2716 && Mem.le m 10 1 == 0x43 &&
  fwBody m % 4096 == 0 && decide (4096 ≤ fwBody m) && decide (fwBody m ≤ 33550336) &&
  Mem.le m 7 1 == 0 && Mem.le m 11 1 == 0 && Mem.le m 16 4 / 16 == 0 && Mem.le m 28 4 == 0 &&
  Mem.le m 64 64 == 0 && Mem.le m 3860 236 == 0

/-- The first step of R361 that an image fails, against the security record. -/
def fwVerify (minSecurity : Nat) (revoked : BitVec 4) (m : Mem) : Option Nat :=
  let d := leBytes 32 (fwDigestOf m).toNat
  let mask := BitVec.ofNat 4 (fwRevoke m)
  if !fwHeaderOk m then some 1
  else if revoked.getLsbD (fwKey m) then some 2
  else if 3 < fwKey m ∨ Config.sha3 (Mem.bytes m 128 1312) ≠ Config.romKeyHash (fwKey m) then some 3
  else if !Config.mlDsaVerify (Mem.bytes m 128 1312) d (Mem.bytes m 1440 2420) then some 5
  else if fwSecurity m < minSecurity then some 6
  else if mask.getLsbD (fwKey m) || (revoked ||| mask) == BitVec.allOnes 4 then some 7
  else if Config.sha3 (Mem.bytes m 4096 (fwBody m)) ≠ BitVec.ofNat 256 (Mem.le m 32 32) then some 8
  else none

/-! ### Slots -/

def SlotState.code : SlotState → Nat
  | .empty => 0 | .valid => 1 | .trial => 2 | .active => 3 | .failed => 4

def fwSlot (s : State) (k : Nat) : FwSlot := at' s.flash.slots k ⟨.empty, []⟩
def setSlot (s : State) (k : Nat) (f : FwSlot → FwSlot) : State :=
  { s with flash := { s.flash with slots := s.flash.slots.modify k f } }

/-- The digest D of the running image (R359). -/
def fwDigest (s : State) : BitVec 256 := fwDigestOf (fwSlot s s.dev.booted).image

/-- IMAGE_REJECTED's record (R370). -/
def rejected (s : State) (step : Nat) (m : Mem) (when_ : Nat) : State :=
  tally s 0x02D0 islandForeman 2 step (fwKey m) (fwSecurity m) when_

/-! ### Commands (R363) -/

/-- FW_STAGE (R363): writes a piece into the staging buffer; offset 0 empties it and makes the mailbox its owner. -/
def execFwStage (m : Fin 64) (p : Pay FwPiece) (s : State) : Host.Outcome State Fault Refusal :=
  done (command s m 0x0201 p fun _ x =>
    if x.bytes.length = 0 ∨ 4000 < x.bytes.length ∨ 2 ^ 25 < x.offset + x.bytes.length then refuse s m St.invalidField (Config.payloadByte 0x0201 0)
    else if x.offset ≠ 0 ∧ s.mem.fwOwner ≠ some m.val then refuse s m St.wrongState 0
    else
      let old := if x.offset = 0 then [] else s.mem.fwBuffer
      let s := { s with mem := { s.mem with fwOwner := some m.val, fwBuffer := Mem.store old x.offset x.bytes } }
      respond s m St.ok [(32, x.bytes.length)] 0 0)

/-- FW_INSTALL (R363). -/
def execFwInstall (m : Fin 64) (p : Pay Nat) (s : State) : Host.Outcome State Fault Refusal :=
  done (command s m 0x0202 p fun _ k =>
    if 1 < k then refuse s m St.invalidField (Config.payloadByte 0x0202 0)
    else if s.mem.fwOwner ≠ some m.val then refuse s m St.wrongState 0
    else if (fwSlot s k).state = .active then refuse s m St.invalidField (Config.payloadByte 0x0202 0)
    else
      let img := s.mem.fwBuffer
      let s := setSlot s k fun x => { x with state := .empty }
      match fwVerify s.flash.minSecurity s.flash.revoked img with
      | some step => refuse (rejected s step img 1) m St.imageRejected step
      | none =>
        let kept := Mem.slice img 0 (4096 + fwBody img) 0
        respond (setSlot s k fun _ => ⟨.valid, kept⟩) m St.ok [(256, (fwDigestOf kept).toNat)] 0 0)

/-- FW_ACTIVATE (R363). -/
def execFwActivate (m : Fin 64) (p : Pay Nat) (s : State) : Host.Outcome State Fault Refusal :=
  done (command s m 0x0203 p fun _ k =>
    let clear (s : State) : State := setSlot s (1 - k) fun x => if x.state = .trial then { x with state := .valid } else x
    if 1 < k then refuse s m St.invalidField (Config.payloadByte 0x0203 0) else
    match (fwSlot s k).state with
    | .empty => refuse s m St.invalidField (Config.payloadByte 0x0203 0)
    | .active => respond (clear s) m St.ok [] 0 0
    | .trial => respond s m St.ok [] 0 0
    | .valid => activate s k clear
    | .failed => activate s k clear)
where
  /-- Verifies a VALID or FAILED slot again and makes it the trial. -/
  activate (s : State) (k : Nat) (clear : State → State) : State :=
    match fwVerify s.flash.minSecurity s.flash.revoked (fwSlot s k).image with
    | some step => refuse (rejected s step (fwSlot s k).image 2) m St.imageRejected step
    | none => respond (setSlot (clear s) k fun x => { x with state := .trial }) m St.ok [] 0 0

/-- FW_QUERY (R360, R362): both slots' FW_VERSION, SECURITY_VERSION, D and state, and the mask-ROM hashes. -/
def execFwQuery (m : Fin 64) (s : State) : Host.Outcome State Fault Refusal :=
  done (commandBare s m 0x0204 fun _ =>
    let one (k : Nat) : Resp :=
      let x := fwSlot s k
      [(32, fwVersion x.image), (32, fwSecurity x.image), (256, (fwDigestOf x.image).toNat), (32, SlotState.code x.state)]
    respond s m St.ok (one 0 ++ one 1 ++ (List.range 4).map fun i => (256, (Config.romKeyHash i).toNat)) 0 0)

/-! ### Start-up and promotion (R363, R374) -/

/-- The slot that a start-up runs: the trial where there is one, else the active one. -/
def bootChoice (s : State) : Option Nat :=
  match (List.range 2).find? fun k => (fwSlot s k).state == .trial with
  | some k => some k
  | none => (List.range 2).find? fun k => (fwSlot s k).state == .active

/-- Marks a trial failed, with the step it failed at, or 9 for the 2 s limit (R370). -/
def failTrial (s : State) (k step : Nat) : State :=
  tally (setSlot s k fun x => { x with state := .failed }) 0x02D2 islandForeman 3 k step (fwVersion (fwSlot s k).image) 0

/-- Promotes the trial that reached SERVICE or TEST (R363). -/
def promote (s : State) : State :=
  let k := s.dev.booted
  if !s.dev.trial then s else
  let img := (fwSlot s k).image
  let s := setSlot (setSlot s (1 - k) fun x => if x.state = .active then { x with state := .valid } else x) k
    fun x => { x with state := .active }
  let s := { s with flash := { s.flash with minSecurity := max s.flash.minSecurity (fwSecurity img),
                                            revoked := s.flash.revoked ||| BitVec.ofNat 4 (fwRevoke img) },
                    dev := { s.dev with trial := false } }
  tally s 0x02D1 islandForeman 1 k (fwVersion img) (fwSecurity img) s.flash.revoked.toNat

end Sys2Proof.Machine
end

