-- ==== Sys2Proof/Machine/Arrays.lean ====
section
/-!
DEFINITION. The accumulator pairs of the matrix arrays (R97 to R99) and the residue check of their contents (R103 to R105).
Choices of the model, by log entry: 30 DEDUCED, 67 DEDUCED.
-/

namespace Sys2Proof

/-! ### Accumulator pairs (R97) -/

/-- The 96-bit two's-complement integer of a pair. -/
def AccPair.value (p : AccPair) : Int := p.high.toInt * 2 ^ 48 + p.low.toNat

/-- The pair that holds an integer, modulo 2^96. -/
def AccPair.ofInt (v : Int) : AccPair := ⟨BitVec.ofInt 48 v, BitVec.ofInt 48 (v / 2 ^ 48)⟩

/-- An add into the pair: the low accumulator receives the add, its carry or borrow passes into the high one. -/
def AccPair.add (p : AccPair) (t : Int) : AccPair :=
  let low : Int := p.low.toNat + t % 2 ^ 48
  ⟨BitVec.ofInt 48 low, p.high + BitVec.ofInt 48 (t / 2 ^ 48 + low / 2 ^ 48)⟩

/-- The shift of a wide product between levels (R99). -/
def AccPair.shift8 (p : AccPair) : AccPair := AccPair.ofInt (p.value * 256)

/-- One half-sum of a column: the products of its cells and the combined offset o_j. -/
structure HalfSum where
  weights : List Int
  cells : List Int
  offset : Nat
  deriving DecidableEq, Repr

def dotInt : List Int → List Int → Int
  | a :: l, b :: m => a * b + dotInt l m
  | _, _ => 0

/-- The exact half-sum h_j. -/
def HalfSum.sum (h : HalfSum) : Int := dotInt h.weights h.cells

/-- What a half-sum adds to the pair: h_j × 2^(30 − o_j). -/
def HalfSum.term (h : HalfSum) : Int := h.sum * 2 ^ (30 - h.offset)

/-! ### Residues modulo 127 (R103) -/

def mod127 (n : Int) : Nat := (n % 127).toNat

/-- A 7-bit rotation to the left, which multiplies by 2^k modulo 127. -/
def rotate7 (r : BitVec 7) (k : Nat) : BitVec 7 := r.rotateLeft (k % 7)

/-- The residue of a half-sum, formed from the residues that travel with its operands. -/
def dotResidue : List Int → List Int → Nat
  | a :: l, b :: m => (mod127 a * mod127 b + dotResidue l m) % 127
  | _, _ => 0

/-- The residue predicted for what a half-sum adds: aligned by a rotation by (30 − o_j) mod 7 bits. -/
def HalfSum.residue (h : HalfSum) : Nat := (rotate7 (BitVec.ofNat 7 (dotResidue h.weights h.cells)) (30 - h.offset)).toNat % 127

/-- (low + 64 × high) mod 127 of a pair as written, the high accumulator as the signed integer that it is. -/
def AccPair.residue (p : AccPair) : Nat := mod127 (p.low.toNat + 64 * p.high.toInt)

/-- A pair with the residue that the checker keeps for it. -/
structure CheckedPair where
  pair : AccPair := {}
  kept : Nat := 0
  deriving DecidableEq, Repr

/-- One add, as the array makes it and as the checker follows it. -/
def CheckedPair.add (c : CheckedPair) (h : HalfSum) : CheckedPair :=
  { pair := c.pair.add h.term, kept := (c.kept + h.residue) % 127 }

/-- The shift of a wide product: the checker doubles, because 2^8 ≡ 2. -/
def CheckedPair.shift8 (c : CheckedPair) : CheckedPair := { pair := c.pair.shift8, kept := 2 * c.kept % 127 }

/-- Whether a check finds a difference. -/
def ResidueTrial.mismatch (t : ResidueTrial) : Bool := t.kept.toNat % 127 != t.pair.residue

/-- How many of a check and its recomputes mismatch: the grove recomputes until one passes, or two successive recomputes have
failed (R105). -/
def failures : Nat → List ResidueTrial → Nat
  | 0, _ => 0
  | _, [] => 0
  | n + 1, t :: l => if t.mismatch then 1 + failures n l else 0

end Sys2Proof
end

