-- ==== Sys2Proof/Machine/Groves.lean ====
section
/-!
DEFINITION. Groves that fail and spares that take over (R79, R105 to R110), Sapling mismatches (R178), and the power states of
islands (R82, R83, R85).
Choices of the model, by log entry: 5 DESIGN CHOICE, 12 DEDUCED, 35 DEDUCED, 38 DEDUCED, 52 DEDUCED, 67 DEDUCED, 79
DEDUCED, 82 DEDUCED, 85 DESIGN CHOICE.
-/

namespace Sys2Proof.Machine

def groveAt (s : State) (g : Nat) : Grove := at' s.groves g {}
def setGrove (s : State) (g : Nat) (f : Grove → Grove) : State := { s with groves := s.groves.modify g f }
/-- The repair map's entry of a grove. -/
def mapGrove (s : State) (g : Nat) (f : GroveMap → GroveMap) : State :=
  { s with flash := { s.flash with groves := s.flash.groves.modify g f } }
/-- Whether the last self-test of an island differed (R379). -/
def bistFlag (s : State) (i : Nat) : Bool := s.flash.bist.any fun b => b.island == i && b.flag

/-- The spare that would be chosen on a die: the lowest numbered that the repair map lists, whose flag is clear (R107). -/
def nextSpare (s : State) (die : Nat) : Option Nat :=
  (List.range 32).map (fun k => 32 * die + k) |>.find? fun g =>
    (groveAt s g).role == .spare && (at' s.flash.groves g {}).role == .spare && !(groveAt s g).readying &&
    !(groveAt s g).warm && !bistFlag s g

/-- Starts a spare from C3 for a grove that needs one (R107 step 2); the answer is its number, or 0xFFF. -/
def readySpare (s : State) (die : Nat) : State × Nat :=
  match nextSpare s die with
  | some g => (setGrove s g fun x => { x with readying := true }, g)
  | none => (s, 0xFFF)

/-- The WARM spare of a die, the lowest numbered. -/
def warmSpare (s : State) (die : Nat) : Option Nat :=
  (List.range 32).map (fun k => 32 * die + k) |>.find? fun g => (groveAt s g).role == .spare && (groveAt s g).warm

/-- Retires a grove: isolated, in C3, in the repair map too. Its engine holds nothing any more. -/
def retireGrove (s : State) (g : Nat) : State :=
  let s := mapGrove (setGrove s g fun x => { x with role := .retired, power := .c3, neededAt := none, warm := false, readying := false,
                                                    retireAsked := false }) g fun x => { x with role := .retired }
  { s with vec := s.vec.filter fun x => x.1 != g }

/-- A spare stands in a schedule for the grove that it replaces. -/
def Admitted.replaceGrove (a : Admitted) (g spare : Nat) : Admitted :=
  { a with plan := a.plan.map fun p => { p with groves := p.groves.map fun h => if h = g then spare else h } }

/-- A spare takes the role of a grove (R107 step 5, R108): n is as before the grove failed, and in the running step the spare
stands in the grove's place. -/
def takeOver (s : State) (g spare step : Nat) : State :=
  let s := retireGrove s g
  let p := if busy s then PowerState.p0 else idleGrove s
  let s := mapGrove (setGrove s spare fun x => { x with role := .inService, warm := false, power := p }) spare
    fun x => { x with role := .inService }
  let s := setRun s fun r => { r with groves := r.groves.map fun h => if h = g then spare else h, adm := r.adm.replaceGrove g spare }
  let s := { s with sched := { s.sched with queue := s.sched.queue.map fun a => a.replaceGrove g spare } }
  tally s 0x0212 g 2 spare (lo32 step) (hi32 step) (inService s).length

/-- When a grove came to need a spare, and its number: the order of R110. -/
def needKey (s : State) (g : Nat) : Nat := match (groveAt s g).neededAt with | some t => 128 * t + g | none => 0

/-- The groves that wait for a spare, in order. -/
def waitingGroves (s : State) : List Nat := sortBy (needKey s) ((List.range 128).filter fun g => (groveAt s g).neededAt.isSome)

/-- Whether the die of a waiting grove has a spare for it, being readied or warm: those before it in the order take theirs
first (R110). -/
def spareLeft (s : State) (g : Nat) : Bool :=
  let ahead := (waitingGroves s).countP fun h => h / 32 == g / 32 && decide (needKey s h < needKey s g)
  decide (ahead < (List.range 32).countP fun k =>
    let x := groveAt s (32 * (g / 32) + k); x.role == .spare && (x.readying || x.warm))

/-- Step 5 for one grove: a WARM spare takes over; a suspect grove for which its die had no spare left is retired (R109). -/
def settleGrove (step : Nat) (s : State) (g : Nat) : State :=
  match warmSpare s (g / 32) with
  | some p => takeOver s g p step
  | none =>
    if spareLeft s g then s
    else if (groveAt s g).retireAsked then retireGrove s g
    else if (groveAt s g).role = .suspect then
      let s := retireGrove s g
      tally s 0x0214 g 3 (lo32 step) (hi32 step) (inService s).length 0
    else setGrove s g fun x => { x with neededAt := none }

/-- A spare or suspect grove that RETIRE names is simply marked retired (R384). -/
def retireIdle (s : State) (x : Nat × Nat) : State :=
  if x.1 < 128 && ((groveAt s x.1).role == .spare || (groveAt s x.1).role == .suspect) then retireGrove s x.1 else s

/-- RETIRE of a grove is answered once the grove is retired (R348, R384). -/
def answerRetire (s : State) (x : Nat × Nat) : State :=
  if x.1 < 128 && (groveAt s x.1).role == .retired then
    let s := tally s 0x02E4 islandForeman 2 x.1 (bit (bistFlag s x.1)) (inService s).length 0
    let s := { s with islands := { s.islands with retireAsked := s.islands.retireAsked.filter fun y => y != x } }
    respond s x.2 St.ok [] 0 0
  else s

/-- RECENT (R111): the mismatches within the window of R106. -/
def recentOf (x : Grove) : Nat := capAt 3 (x.hist.countP fun t => decide ((x.tiles + 2 ^ 48 - t) % 2 ^ 48 < 10 ^ 12))

/-- What the repair map takes of a grove at a step boundary: the checker's tile counts at the last two mismatches, with the
counts of the status record (R106, R111). -/
def saveChecker (s : State) (g : Nat) : State :=
  let x := groveAt s g
  if x.hist.isEmpty then s
  else mapGrove s g fun y => { y with hist := keepLast 2 x.hist, recent := recentOf x, mismatches := x.mismatches }

/-- The takeovers of the boundary of a step, in the order of R110, the answers to RETIRE, and the checkers' counts in the repair
map (R106). -/
def groveBoundary (s : State) (step : Nat) : State :=
  let s := (waitingGroves s).foldl (settleGrove step) s
  let s := s.islands.retireAsked.foldl retireIdle s
  let s := s.islands.retireAsked.foldl answerRetire s
  (List.range 128).foldl saveChecker s

/-- The grove losses that count against a step's coverage: since its admission (R79). -/
def losses (s : State) (a : Admitted) : Nat := a.groves - (inService s).length

/-- Whether the running step has lost more groves than its reserve covers (R80). -/
def overLost (s : State) : Bool := match s.sched.run with | some r => decide (r.adm.covered < losses s r.adm) | none => false

/-- A grove comes to need a spare now (R110). -/
def needSpare (s : State) (g : Nat) : State := setGrove s g fun x => { x with neededAt := some s.time }

/-- A grove is lost from service (R79, R108): a WARM spare takes its share over at once and none counts as lost; otherwise
its units go to the other groves of its die (takersOf), and a spare is started. How many units were unfinished the model's
whole instances do not show. -/
def loseGrove (s : State) (g cause : Nat) : State :=
  match warmSpare s (g / 32) with
  | some p => takeOver s g p (runStep s)
  | none =>
    let waiting := (groveAt s g).neededAt
    let s := retireGrove s g
    let s := if waiting.isSome then setGrove s g fun x => { x with neededAt := waiting } else (readySpare (needSpare s g) (g / 32)).1
    let moved := freshValue s 20
    let s := moved.2
    let n := (inService s).length
    if overLost s then fatalAs 3 s 0x0213 g cause moved.1 n 0 else tally s 0x0213 g 3 cause moved.1 n 0

/-- Whether a grove works at all. -/
def groveWorks (s : State) (g : Nat) : Bool :=
  s.dev.state != .off && s.dev.state != .halt &&
  (match (groveAt s g).role with | .inService => true | .suspect => true | _ => false)

/-- The tiles between two counts of a 48-bit counter. -/
def tilesSince (a c : Nat) : Nat := (c + 2 ^ 48 - a) % 2 ^ 48

/-- The mismatch of R106: the third within 10^12 tiles makes an in-service grove suspect. -/
def markSuspect (s : State) (g : Nat) : State :=
  let x := groveAt s g
  match x.hist with
  | [a, b, c] =>
    if x.role = .inService && decide (tilesSince a c < 10 ^ 12) then
      let s := needSpare (setGrove s g fun x => { x with role := .suspect }) g
      let p := readySpare s (g / 32)
      tally p.1 0x0211 g 2 (lo32 a) (lo32 b) p.2 0
    else s
  | _ => s

/-- What a mismatch counts (R106, R111). -/
def countMismatch (s : State) (g : Nat) : State :=
  setGrove s g fun x =>
    { x with hist := keepLast 3 (x.hist ++ [x.tiles]), mismatches := capAt 65535 (x.mismatches + 1) }

/-- One mismatch: its record, its count and the test of R106. -/
def oneMismatch (s : State) (g where_ row : Nat) : State :=
  let t := (groveAt s g).tiles
  markSuspect (countMismatch (tally s 0x0210 g 1 where_ row (lo32 t) (bits t 47 32)) g) g

/-- The recompute of a row's pair (R105): the pre-image that the array keeps is what the pair held before, and the bank ends
with the pair as the last trial wrote it. `where_` is the array and its quadrant. -/
def replayRow (s : State) (g where_ row column : Nat) (last : ResidueTrial) : State :=
  setGrove s g fun x => { x with arrays := x.arrays.modify (where_ % 4) fun a =>
    let before := a.bank.find? fun b => b.1 == (row, column)
    { bank := ((row, column), last.pair, last.kept) :: a.bank.filter fun b => b.1 != (row, column),
      preImage := match before with
        | some b => keepLast 128 ((a.preImage.filter fun c => c.1 != (row, column)) ++ [b])
        | none => a.preImage } }

/-- A residue check with its recomputes (R103, R105): every mismatch counts, each but the one that loses the grove is followed
by a recompute, and a row that mismatches on two successive recomputes loses it. -/
def arrayCheck (s : State) (g where_ row column : Nat) (trials : List ResidueTrial) : State :=
  let n := failures 3 trials
  if n = 0 then s else
  let s := (List.range n).foldl (fun s _ => oneMismatch s g where_ row) s
  let s := setGrove s g fun x => { x with recomputes := capAt (2 ^ 32 - 1) (x.recomputes + min n 2) }
  let s := match trials[min n 2]? with | some t => replayRow s g where_ row column t | none => s
  if n = 3 then loseGrove s g 1 else s

/-- ARRAY_MISMATCH (R91, R103 to R105, R121): what a grove meets. A single-bit error of its store is corrected and counted; a
double-bit error, a parity error or another fatal error of the island loses the grove. -/
def execArrayMismatch (g : Fin 128) (where_ row : Nat) (error : GroveError) (s : State) : Host.Outcome State Fault Refusal :=
  done (
    if !groveWorks s g then s else
    match error with
    | .mismatch column trials => arrayCheck s g where_ row column trials
    | .storeSingle => setGrove s g fun x => { x with sec := capAt 65535 (x.sec + 1) }
    | .storeDouble => loseGrove s g 2
    | .storePath => loseGrove s g 3
    | .vector => loseGrove s g 4
    | .other => loseGrove s g 4)

/-- SPARE_WARM (R107): the spare that is being readied reaches C1; on an idle device it takes over at once. -/
def execSpareWarm (g : Fin 128) (s : State) : Host.Outcome State Fault Refusal :=
  done (
    if (groveAt s g).readying && (groveAt s g).role = .spare && s.dev.state != .halt then
      let s := setGrove s g fun x => { x with readying := false, warm := true, power := .c1 }
      if busy s then s else groveBoundary s 0
    else s)

/-- The mismatches of a Sapling group and its recomputes: the residue kept against that of the sum (R178, as R103). -/
def saplingFailures : Nat → List (BitVec 7 × Int) → Nat
  | 0, _ => 0
  | _, [] => 0
  | n + 1, t :: l => if t.1.toNat % 127 != mod127 t.2 then 1 + saplingFailures n l else 0

/-- The loss of a Sapling engine: a fatal error of the device (R80, R179). -/
def loseSapling (s : State) (die cause index : Nat) : State :=
  fatalAs 3 s 0x0241 (islandSapling die) cause index (lo32 (runStep s)) (hi32 (runStep s))

/-- SAPLING_MISMATCH (R178): a mismatch that repeats on two successive recomputes, a parity error or another fatal error is the
loss of the engine. -/
def execSaplingMismatch (die : Fin 4) (position group index : Nat) (error : SaplingError) (s : State) : Host.Outcome State Fault Refusal :=
  done (
    if s.dev.state = .off || s.dev.state = .halt then s else
    match error with
    | .mismatch trials =>
      let n := saplingFailures 3 trials
      let s := (List.range n).foldl (fun s _ => tally s 0x0240 (islandSapling die) 1 position group index 0) s
      if n = 3 then loseSapling s die 1 index else s
    | .parity => loseSapling s die 2 index
    | .other => loseSapling s die 3 index)

/-! ### Power states -/

/-- choose_state of R82. -/
def chooseState (s : State) (i gap : Nat) (sramNeeded busyInGap : Bool) : PowerState :=
  if islandStack 0 ≤ i && i < islandForeman then
    (if busyInGap then .p0 else if 1200 < gap then .refresh else .p0)
  else if takesUnknown s i then (if 1000 < gap then .c1 else .p0)
  else if gap ≤ 1000 || gap < 40 then .p0
  else if gap ≤ 50000 || gap < 3000 then .c1
  else if gap ≤ 20000000 || gap < 600000 || sramNeeded then .c2
  else .c3

/-- Sets an island's power state. -/
def setPower (s : State) (i : Nat) (p : PowerState) : State :=
  if i < 128 then setGrove s i fun x => { x with power := p }
  else { s with islands := { s.islands with power := (i, p) :: s.islands.power.filter fun x => x.1 != i } }

/-- Whether the Foreman sets the states of an island: listed, and no retired or spare grove. -/
def powerManaged (s : State) (i : Nat) : Bool :=
  islandListed i && s.dev.state != .off && s.dev.state != .halt && (if i < 128 then groveWorks s i else true)

/-- The events of an island on the admitted timeline: the items of the steps in hand that need it, when each one's S begins, and
whether it is over (R82). -/
def islandEvents (s : State) (i : Nat) : List (Placed × Nat × Bool) :=
  let listed (a : Admitted) (ended : Item → Bool) : List (Placed × Nat × Bool) :=
    (a.plan.filter fun p => p.islands.contains i).map fun p => (p, a.t0 + a.wake, ended p.item)
  (match s.sched.run with | some r => listed r.adm (itemDone s r) | none => []) ++ (s.sched.queue.map fun a => listed a fun _ => false).flatten

/-- The next event of an island: the first by its scheduled start that is not over. -/
def nextEvent (s : State) (i : Nat) : Option (Placed × Nat) :=
  ((islandEvents s i).filter fun e => !e.2.2).foldl (fun best e => match best with
    | none => some (e.1, e.2.1)
    | some b => if ((Frac.ofNat e.2.1).add e.1.start).lt ((Frac.ofNat b.2).add b.1.start) then some (e.1, e.2.1) else best) none

/-- The scheduled end of the last event of an island; before its first one, the start of the schedule. -/
def lastEnd (s : State) (i : Nat) : Frac :=
  Frac.maxOf ((islandEvents s i).map fun e => if e.2.2 then (Frac.ofNat e.2.1).add e.1.fin else
    Frac.ofNat (((inHand s).head?.map fun a => a.t0 + a.wake).getD 0))

/-- Whether an instance that needs an island has started and is not over. -/
def islandInUse (s : State) (i : Nat) : Bool :=
  match s.sched.run with
  | none => false
  | some r => (islandEvents s i).any fun e => !e.2.2 && (match e.1.item with | .inst j => r.executed.contains j | _ => false)

/-- A day, and the 4,096th part of it in which one slice is due (R210). -/
def dayNs : Nat := 86400000000000
def sliceNs : Nat := dayNs / 4096

/-- Whether a slice of a stack is due at a time: 21.09375 s after the one before it (R210). -/
def sliceDueAt (s : State) (k t : Nat) : Bool :=
  match (at' s.hbm k {}).lastSlice with | some l => decide (l + sliceNs ≤ t) | none => true

/-- Whether a stack has Lode work or a slice due before a time (R82). -/
def stackBusyUntil (s : State) (k : Nat) (a z : Frac) : Bool :=
  sliceDueAt s k z.ceil ||
  (inHand s).any fun x => x.plan.any fun p => p.engines.contains k &&
    ((Frac.ofNat (x.t0 + x.wake)).add p.start).lt z && a.lt ((Frac.ofNat (x.t0 + x.wake)).add p.fin)

/-- Whether an island's SRAM holds what is used after a gap: a filter loaded ahead, or a vector run (R82, R176). -/
def sramNeeded (s : State) (i : Nat) : Bool :=
  (s.vec.any fun x => x.1 == i && x.2.inst.isSome) ||
  (decide (islandSapling 0 ≤ i) && decide (i < islandSapling 4) &&
    ((at' s.islands.saplings (i - islandSapling 0) {}).buffers.any Option.isSome))

/-- The state that an island takes: its idle state without admitted work (R85), choose_state for the gap before its next event
otherwise (R82). -/
def sleepState (s : State) (i : Nat) : PowerState :=
  match nextEvent s i with
  | none => idleState s i
  | some n =>
    let a := lastEnd s i
    let z := (Frac.ofNat n.2).add n.1.start
    chooseState s i (z.sub a).floor (sramNeeded s i) (stackBusyUntil s (i - islandStack 0) a z)

/-- An island in C3 has lost its SRAM (R82). -/
def loseSram (s : State) (i : Nat) : State :=
  { s with vec := s.vec.filter fun x => x.1 != i,
           islands := { s.islands with saplings := s.islands.saplings.zipIdx.map fun x =>
             if x.2 + 0x0C0 = i then {} else x.1 } }

/-- ISLAND_SLEEP (R82): at the scheduled end of its last event before a gap. The gap, the SRAM need and the work in the gap are
those of the admitted timeline, which the operands only repeat. -/
def execIslandSleep (island _gap : Nat) (_sramNeeded _busyInGap : Bool) (s : State) : Host.Outcome State Fault Refusal :=
  done (
    if !powerManaged s island || islandInUse s island ||
       ((nextEvent s island).isSome && !(lastEnd s island).le (Frac.ofNat s.time)) then s else
    let p := sleepState s island
    let s := setPower s island p
    if p = .c3 then loseSram s island else s)

/-- Whether an item of the running step waits for nothing that comes before it (R55, R185). -/
def predsOver (r : Run) (x : Item) : Bool :=
  match x with | .inst i => (allPreds r.adm.image i).all (instDone r) | _ => true

/-- Whether an island may wake now (R83): for an unknown event, a slice that is due, at its next event's start less its wake
latency, or with the last predecessor of its next instance over. -/
def wakeDue (s : State) (i : Nat) : Bool :=
  takesUnknown s i || (decide (islandStack 0 ≤ i) && decide (i < islandForeman) && sliceDueAt s (i - islandStack 0) s.time) ||
  (match nextEvent s i with
   | none => false
   | some n =>
     ((Frac.ofNat n.2).add n.1.start).le (Frac.ofNat (s.time + wakeNs (islandPower s i))) ||
     (match s.sched.run with | some r => r.adm.plan.contains n.1 && predsOver r n.1.item | none => false))

/-- ISLAND_WAKE (R83). -/
def execIslandWake (island : Nat) (s : State) : Host.Outcome State Fault Refusal :=
  done (if powerManaged s island && wakeDue s island then setPower s island .p0 else s)

/-- Islands without admitted work enter their idle state (R85). -/
def idleIslands (s : State) : State :=
  let idle (i : Nat) : Bool := (nextEvent s i).isNone && !islandInUse s i
  { s with groves := s.groves.zipIdx.map fun x => if serves s x.2 && idle x.2 then { x.1 with power := idleGrove s } else x.1,
           islands := { s.islands with power := s.islands.power.filter fun x => !idle x.1 } }

end Sys2Proof.Machine
end

