-- ==== Sys2Proof/Machine/Kv.lean ====
section
/-!
DEFINITION. KV_CLOSE, KV_PIN, KV_UNPIN and SPILL_READ (R150, R154), which act at the step boundary.
Choices of the model, by log entry: 12 DEDUCED.
-/

namespace Sys2Proof.Machine

/-- Closes a sequence (R150): its pages and its unused booking return to the clearing, and its RO fields to their reset
values. -/
def closeSequence (s : State) (ctx table entry : Nat) : State :=
  match objAt s ctx table with
  | none => s
  | some t =>
    let n := seqNumber t entry
    let s := { s with kv := { s.kv with
      pages := s.kv.pages.filter fun p => !(p.ctx == ctx && p.table == table && p.sequence == n),
      booked := s.kv.booked.filter fun b => !(b.1 == ctx && b.2.1 == table && b.2.2.1 == entry) } }
    setObj s ctx table fun o => seqWrite o entry 0 0 false false 0 0 0

/-- Sets or clears the pin of the page at a position (R150). -/
def pinPage (s : State) (ctx : Nat) (k : KvName) (pin : Bool) : State :=
  match objAt s ctx k.table with
  | none => s
  | some t =>
    { s with kv := { s.kv with pages := s.kv.pages.map fun p =>
        if p.ctx == ctx && p.table == k.table && p.sequence == seqNumber t k.entry && p.group == k.group &&
          p.index == k.position / 128 then { p with pinned := pin } else p } }

/-- One waiting command takes effect: opcode, context and name. -/
def kvAct (s : State) (op ctx : Nat) (k : KvName) : State :=
  if op = 0x0309 then closeSequence s ctx k.table k.entry else pinPage s ctx k (op = 0x030A)

/-- The commands that wait for the boundary take effect and are answered, in the order in which they came (R150, R348). -/
def kvBoundary (s : State) : State :=
  let l := s.kv.waiting
  l.foldl (fun s w => match (mbxAt s w.1).work with
    | some x => respond (kvAct s x.opcode x.ctx w.2.2.1) w.1 St.ok [] 0 0
    | none => s) { s with kv := { s.kv with waiting := [] } }

/-- Whether a name names an open sequence of a table of the context, and for a pin a page it holds. -/
def kvNamed (s : State) (ctx op : Nat) (k : KvName) : Bool :=
  match objAt s ctx k.table with
  | none => false
  | some t => isTable t && decide (k.entry < seqCount t.entry) && seqOpen t k.entry &&
    (op == 0x0309 || s.kv.pages.any fun p => p.ctx == ctx && p.table == k.table && p.sequence == seqNumber t k.entry &&
      p.group == k.group && p.index == k.position / 128)

/-- The three commands: at once on an idle device, at the boundary otherwise. -/
def kvCommand (s : State) (m op : Nat) (p : Pay KvName) : State :=
  command s m op p fun w k =>
    if (ctxAt s w.ctx).isNone then refuse s m St.noContext 0
    else if !kvNamed s w.ctx op k then refuse s m St.invalidField (Config.payloadByte op 0)
    else
      let s := { s with kv := { s.kv with waiting := s.kv.waiting ++ [(m, w.ctx, k, op)] } }
      if busy s then s else kvBoundary s

/-- KV_CLOSE (R150). -/
def execKvClose (m : Fin 64) (p : Pay KvName) (s : State) : Host.Outcome State Fault Refusal := done (kvCommand s m 0x0309 p)
/-- KV_PIN (R150). -/
def execKvPin (m : Fin 64) (p : Pay KvName) (s : State) : Host.Outcome State Fault Refusal := done (kvCommand s m 0x030A p)
/-- KV_UNPIN (R150). -/
def execKvUnpin (m : Fin 64) (p : Pay KvName) (s : State) : Host.Outcome State Fault Refusal := done (kvCommand s m 0x030B p)

/-- SPILL_READ (R154): region and offset of a spilled page. -/
def execSpillRead (m : Fin 64) (p : Pay SpillName) (s : State) : Host.Outcome State Fault Refusal :=
  done (command s m 0x030C p fun w k =>
    if (ctxAt s w.ctx).isNone then refuse s m St.noContext 0 else
    match s.kv.spills.find? fun x => x.ctx == w.ctx && x.sequence == k.sequence && x.group == k.group &&
        x.position / 128 == k.position / 128 with
    | some x => respond s m St.ok [(32, x.region), (64, x.offset)] 0 0
    | none => refuse s m St.invalidField (Config.payloadByte 0x030C 0))

/-- Every sequence of a context's tables is closed (R150, R247). -/
def closeContext (s : State) (ctx : Nat) : State :=
  { s with kv := { s.kv with pages := s.kv.pages.filter fun p => p.ctx != ctx, booked := s.kv.booked.filter fun b => b.1 != ctx } }

end Sys2Proof.Machine
end

