-- ==== Sys2Proof/Machine/Fabric.lean ====
section
/-!
DEFINITION. The fabric's link layer (R270 to R281): flits, retries, drills, manifests, failover, and held chunks.
Choices of the model, by log entry: 5 DESIGN CHOICE, 40 DESIGN CHOICE, 41 DEDUCED.
-/

namespace Sys2Proof.Machine

def portAt (s : State) (p : Nat) : Port := at' s.fabric.ports p {}
def setPort (s : State) (p : Nat) (f : Port → Port) : State :=
  { s with fabric := { s.fabric with ports := s.fabric.ports.modify p f } }
/-- An answer or notice that the Foreman sends in class 4: device, kind, value. Kinds: 1 version known, 2 version unknown,
3 chunk held, 4 alive, 5 current step, 6 left the job, 7 lent tile. The newest 64 are kept. -/
def notice (s : State) (device kind value : Nat) : State :=
  { s with fabric := { s.fabric with notices := ((device, kind, value) :: s.fabric.notices).take 64 } }

/-! ### Identities (R270, R272, R291) -/

/-- The device at the far end of a port, as Table 1 places it. The standby port leads where the port it covers does. -/
def farDevice (s : State) (p : Nat) : Option Nat :=
  let q := s.board.position.toNat
  let n := nodeOf s
  let far (p : Nat) : Option Nat :=
    if p < 7 then some (8 * n + (q + p + 1) % 8)
    else if p < 19 then
      let ext := extents (inForce s 4)
      let c := nodeCoords ext.1 ext.2.1 n
      let step (x m : Nat) (plus : Bool) : Nat := if plus then (x + 1) % m else (x + m - 1) % m
      let d := (p - 7) / 2
      let c := match d / 2 with
        | 0 => (step c.1 ext.1 (d % 2 = 0), c.2.1, c.2.2)
        | 1 => (c.1, step c.2.1 ext.2.1 (d % 2 = 0), c.2.2)
        | _ => (c.1, c.2.1, step c.2.2 ext.2.2 (d % 2 = 0))
      some (8 * (c.1 + ext.1 * (c.2.1 + ext.2.1 * c.2.2)) + q)
    else none
  if p = 19 then (match s.fabric.standby with | some k => far k | none => none) else far p

/-- The fabric manifest (R291): ordering code, revision, D, and the committed fabric set. -/
def manifest (s : State) : BitVec 256 :=
  let code : List Byte := [0x4D, 0x56, 0x42, 0x2D, 0x32, 0x37, 0x31, 0x36, 0x2D, 0x43, 0x43]
  Config.sha3 (code ++ leBytes 32 (fwDigest s).toNat ++ leBytes 64 (committed s 4))

/-! ### Flits (R274) -/

/-- The byte of a CRC-64 step, polynomial 0x42F0E1EBA9EA3693, most significant bit first. -/
def crc64Bit (c : BitVec 64) : Nat → BitVec 64
  | 0 => c
  | n + 1 => crc64Bit (if c.msb then (c <<< 1) ^^^ 0x42F0E1EBA9EA3693#64 else c <<< 1) n
def crc64 (bs : List Byte) : BitVec 64 :=
  bs.foldl (fun c b => crc64Bit (c ^^^ (BitVec.zeroExtend 64 b <<< (56 : Nat))) 8) 0

/-- Bytes 0 to 247 of a flit. -/
def flitBytes (f : Flit) : List Byte :=
  let h := f.kind % 16 + field 4 (f.cls % 8) + field 7 (bit f.last) + field 8 (f.seq % 4096) + field 20 (f.ack % 4096) +
    field 32 (f.creditClass % 8) + field 35 (f.credits % 8192)
  leBytes 8 h ++ ((f.payload ++ List.replicate 240 0).take 240)

def flitCrc (f : Flit) : DWord := crc64 (flitBytes f)

/-! ### Drills (R293 to R295) -/

/-- Entry e of the drill plan, committed when it was started. -/
def drillEntry (s : State) (e : Nat) : Nat := bits (committed s 6) (128 * e + 127) (128 * e)

/-- Whether an entry selects the flit that the port transmits as number `n` of its class. -/
def drillSelects (v e p n : Nat) : Bool :=
  let rate := bits v 39 32
  let key : Quad := ⟨BitVec.ofNat 32 (bits v 95 64), BitVec.ofNat 32 (bits v 127 96), BitVec.ofNat 32 e, BitVec.ofNat 32 p⟩
  let ctr : Quad := ⟨BitVec.ofNat 32 n, BitVec.ofNat 32 (n / 2 ^ 32), 0, 0⟩
  (counterGen key ctr).w0.toNat % 2 ^ rate == 0

/-- The entry that acts on a flit: the lowest numbered of those that select it. -/
def drillActs (s : State) (p cls n : Nat) : Option Nat :=
  if !s.fabric.drill then none else
  ((List.range 8).find? fun e =>
    let v := drillEntry s e
    (v >>> p) % 2 == 1 && bits v 22 20 == cls && drillSelects v e p n).map (drillEntry s)

/-- A port goes down (R277). -/
def portDown (s : State) (p cause : Nat) : State :=
  setPort s p fun x => if x.state = .up then { x with state := .down, downAt := s.time, downCause := cause, retryRow := 0 } else x

/-- Flits that a reordering drill held and whose slots have passed join the wire after the flit just sent. -/
def releaseReordered (x : Port) : Port :=
  { x with wire := x.wire ++ ((x.held.filter fun y => y.1 ≤ 1).map fun y => (y.2, 0)),
           held := (x.held.filter fun y => 1 < y.1).map fun y => (y.1 - 1, y.2) }

/-- Transmits one flit on a port (R294): the drill may act on it. `wire` keeps the newest flits with the symbols that are
corrupted before the FEC. -/
def transmit (s : State) (p : Nat) (f : Flit) : State :=
  let n := at' (portAt s p).drillCount f.cls 0
  let act := drillActs s p f.cls n
  let s := if s.fabric.drill then setPort s p fun x => { x with drillCount := x.drillCount.modify f.cls (· + 1) } else s
  let put (s : State) (f : Flit) (symbols : Nat) : State :=
    setPort s p fun x => let y := releaseReordered { x with wire := x.wire ++ [(f, symbols)] }
                         { y with wire := keepLast 1024 y.wire }
  match act with
  | none => put s f 0
  | some v =>
    let amount := bits v 47 40
    match bits v 26 24 with
    | 0 => s
    | 1 => put s f amount
    | 2 =>
      let b := freshValue s 21
      let at_ := b.1 % 1920
      let payload := (f.payload ++ List.replicate 240 0).take 240
      put b.2 { f with payload := payload.modify (at_ / 8) fun y => y ^^^ BitVec.ofNat 8 (1 <<< (at_ % 8)) } 0
    | 3 => setPort s p fun x => { x with held := x.held ++ [(amount, f)] }
    | _ => setPort (portDown s p 2) p fun x => { x with drillUntil := some (s.time + 1000000 * amount) }

/-- Whether the fabric runs at all: a device in OFF or HALT keeps its ports stopped. -/
def fabricRuns (s : State) : Bool := s.dev.state != .off && s.dev.state != .halt

/-- The class and the units of 8 flits whose buffer the next flit returns (R276): those of the lowest-numbered class that has a whole
unit. -/
def creditReturn (x : Port) : Nat × Nat :=
  match (List.range 8).find? fun c => decide (8 ≤ at' x.freed c 0) with
  | some c => (c, min (at' x.freed c 0 / 8) 8191)
  | none => (0, 0)

/-- A flit as the port writes it now (R274), returning credits and acknowledging. -/
def makeFlit (x : Port) (kind cls : Nat) (last : Bool) (payload : List Byte) : Flit :=
  let f : Flit := ⟨kind, cls, last, x.txSeq, x.rxSeq, (creditReturn x).1, (creditReturn x).2, (payload ++ List.replicate 240 0).take 240, 0⟩
  { f with crc := flitCrc f }

/-- Sends a new flit: it takes the next sequence number and stays in the retry buffer (R275). -/
def sendFlit (s : State) (p : Nat) (f : Flit) : State :=
  transmit (setPort s p fun x =>
    { x with txSeq := (x.txSeq + 1) % 4096, unacked := x.unacked ++ [f],
             freed := x.freed.modify f.creditClass (· - 8 * f.credits) }) p f

/-- FLIT_SEND (R276): only with a credit of the class, at most 1,024 flits unacknowledged, and only management on a
quarantined port (R291). -/
def execFlitSend (port : Fin 20) (cls : Nat) (last : Bool) (payload : List Byte) (s : State) :
    Host.Outcome State Fault Refusal :=
  done (
    let x := portAt s port
    if x.state = .up && fabricRuns s && decide (0 < at' x.credits cls 0) && decide (x.unacked.length < 1024) &&
       decide (payload.length ≤ 240) && (x.quarantine == 0 || cls == 4) then
      sendFlit (setPort s port fun x => { x with credits := x.credits.modify cls (· - 1) }) port
        (makeFlit x (if cls = 4 then 3 else 1) cls last payload)
    else s)

/-- Flits before the acknowledged number leave the retry buffer. -/
def acknowledge (x : Port) (ack : Nat) : Port :=
  { x with unacked := x.unacked.filter fun f => (f.seq + 4096 - ack) % 4096 < 1024 }

/-- A discarded flit: a link-control flit names the expected SEQ in its first two payload bytes; sixteen in a row for one SEQ take
the port down (R275, R277). It takes no credit, and goes out while fewer than 1,024 flits are unacknowledged. -/
def requestRetry (s : State) (p : Nat) : State :=
  let s := setPort s p fun x =>
    { x with retries := x.retries + 1, retrySeq := x.rxSeq,
             retryRow := if x.retryRow ≠ 0 ∧ x.retrySeq = x.rxSeq then x.retryRow + 1 else 1,
             retryTimes := s.time :: x.retryTimes.filter fun t => s.time < t + 1000000000 }
  let x := portAt s p
  let s := tally s 0x0290 (islandPort p) 1 x.rxSeq x.retryTimes.length 0 0
  let s := if x.unacked.length < 1024 then sendFlit s p (makeFlit x 2 4 true (leBytes 2 x.rxSeq)) else s
  if 16 ≤ x.retryRow then portDown s p 1 else s

/-- A flit that is accepted: it acknowledges and returns credits. -/
def takeFlit (s : State) (x : Port) (f : Flit) : Port :=
  { acknowledge { x with credits := x.credits.modify f.creditClass (· + 8 * f.credits) } f.ack with heard := s.time }

/-- FLIT_RECEIVE (R275, R276): a data, control or management flit is accepted with its FEC, CRC and SEQ right, an idle flit with its FEC
and CRC; a message whose last flit has come frees its buffer. -/
def execFlitReceive (port : Fin 20) (flit : Flit) (fecOk : Bool) (s : State) : Host.Outcome State Fault Refusal :=
  done (
    let x := portAt s port
    if x.state ≠ .up || !fabricRuns s then s
    else if !fecOk || flitCrc flit != flit.crc then requestRetry s port
    else
      if flit.kind = 0 then setPort s port fun x => takeFlit s x flit
      else if flit.seq ≠ x.rxSeq || decide (3 < flit.kind) then requestRetry s port
      else
        setPort s port fun x =>
          { takeFlit s x flit with
            rxSeq := (x.rxSeq + 1) % 4096, retryRow := 0,
            delivered := if flit.last then x.delivered.filter fun f => f.cls != flit.cls else x.delivered ++ [flit],
            freed := if flit.last then x.freed.modify flit.cls (· + 1 + x.delivered.countP fun f => f.cls == flit.cls) else x.freed })

/-- RETRY_REQUEST (R275): resends from the named SEQ, in order. -/
def execRetryRequest (port : Fin 20) (seq : Nat) (s : State) : Host.Outcome State Fault Refusal :=
  done (
    let x := portAt s port
    if x.state ≠ .up || !fabricRuns s then s else
    let y := acknowledge x seq
    y.unacked.foldl (fun s f => transmit s port f) (setPort s port fun _ => y))

/-- PORT_SILENCE (R277): no valid flit for 4 µs. -/
def execPortSilence (port : Fin 20) (s : State) : Host.Outcome State Fault Refusal :=
  done (if fabricRuns s && decide ((portAt s port).heard + 4000 ≤ s.time) then portDown s port 2 else s)

/-! ### Link up (R276, R277, R292) -/

/-- Whether a port is one of an axis of extent 1, which stays down (R270). -/
def portUnused (s : State) (p : Nat) : Bool :=
  let ext := extents (inForce s 4)
  (decide (7 ≤ p) && decide (p < 11) && ext.1 == 1) || (decide (11 ≤ p) && decide (p < 15) && ext.2.1 == 1) ||
  (decide (15 ≤ p) && decide (p < 19) && ext.2.2 == 1)

/-- A failed port that is back gives its standby up at a step boundary (R410). -/
def releaseStandby (s : State) : State :=
  match s.fabric.standby with
  | some p => if (portAt s p).state = .up then
      { s with fabric := { s.fabric with standby := none }, board := { s.board with target := 0xFF, joined := false } }
    else s
  | none => s

/-- PORT_LINK_UP (R292): the link layer comes up with the credits the far end grants, in units of 8 flits; manifests and
identities follow. A port that had gone down records the retraining. -/
def execPortLinkUp (port : Fin 20) (credits : DWord) (s : State) : Host.Outcome State Fault Refusal :=
  done (
    let x := portAt s port
    let late := x.downCause != 0 && decide (x.downAt + 1000000 < s.time) && x.state == .down
    if !fabricRuns s || x.state == .up || x.state == .retired || x.drillUntil.isSome || late || portUnused s port ||
       (port.val == 19 && s.fabric.standby.isNone) then s
    else
      let cs := (List.range 8).map fun c => 8 * bits credits.toNat (8 * c + 7) (8 * c)
      let s := if x.downCause ≠ 0 && x.state == .down then tally s 0x0291 (islandPort port) 2 x.downCause 0 0 0 else s
      let fresh := x.downCause == 0 || x.state == .failed
      let s := setPort s port fun x =>
        { x with state := .up, credits := cs, far := none, quarantine := 0, downCause := 0, retryRow := 0, heard := s.time,
                 freed := List.replicate 8 0,
                 txSeq := if fresh then 0 else x.txSeq, rxSeq := if fresh then 0 else x.rxSeq,
                 unacked := if fresh then [] else x.unacked }
      if busy s then s else releaseStandby s)

/-- MANIFEST_RECEIVE (R272, R291): a port whose far end is another device, or of another manifest, is quarantined. A
borrower learns the lending of a near neighbour (R248). -/
def execManifestReceive (port : Fin 20) (far : FarEnd) (lendGib : Nat) (s : State) : Host.Outcome State Fault Refusal :=
  done (
    if (portAt s port).state ≠ .up || !fabricRuns s then s else
    let want := farDevice s port
    let s := if port.val < 7 then { s with fabric := { s.fabric with lends := s.fabric.lends.set port lendGib } } else s
    let set (s : State) (q : Nat) : State := setPort s port fun x => { x with far := some far, quarantine := q }
    match want with
    | some d =>
      if far.device ≠ d then set (tally s 0x0295 (islandPort port) 3 port far.device d 0) St.portMiswired
      else if far.manifest ≠ manifest s then
        set (tally s 0x0294 (islandPort port) 3 port far.device (far.manifest.toNat % 2 ^ 32) 0) St.manifestMismatch
      else set s 0
    | none => s)

/-! ### Failover and retirement (R278, R279, R410) -/

/-- Retires a port (R279, R384). -/
def retirePort (s : State) (p : Nat) : State :=
  { setPort s p fun x => { x with state := .retired, quarantine := 0, far := none, unacked := [], held := [] } with
    flash := { s.flash with retired := (islandPort p) :: s.flash.retired.filter fun i => i != islandPort p } }

/-- Whether the running step uses a port. -/
def stepUsesPort (s : State) (p : Nat) : Bool :=
  match s.sched.run with | some r => (portsUsed s r.adm.image).contains p | none => false

/-- The value that the Foreman writes to its crosspoint TARGET for a failed port (R409, R410). -/
def failoverTarget (s : State) (p : Nat) : Nat := if p < 7 then (s.board.position.toNat + p + 1) % 8 else 0x10 + (p - 7)

/-- A failed port: the standby takes its place, or it is fatal within a step, or the port is retired (R278, R279). -/
def failPort (s : State) (p : Nat) (env : FailoverEnv) : State :=
  let using_ := stepUsesPort s p
  let target := failoverTarget s p
  let taken := s.fabric.standby.isSome || p == 19
  let s := if taken then s else { s with board := { s.board with target := if env.conflict then 0xFF else target,
                                                                 joined := env.joined, conflict := env.conflict } }
  let s := if env.conflict && !taken then tally s 0x02F6 islandModule 2 p target 0 0 else s
  let noStandby := taken || env.conflict || !env.joined
  let spent := match s.sched.run with
    | some r => using_ && (r.reserveSpent || decide (r.adm.dFail < 2200000))
    | none => false
  if using_ && (noStandby || spent) then
    fatalAs 3 (setPort s p fun x => { x with state := .failed }) 0x0293 (islandPort p) p (if noStandby then 1 else 2) (lo32 (runStep s)) 0
  else if noStandby then
    tally (retirePort s p) 0x0293 (islandPort p) 3 p 1 (lo32 (runStep s)) 0
  else
    let far := ((portAt s p).far.map fun f => f.device).getD ((farDevice s p).getD 0)
    let s := setPort s p fun x => { x with state := .failed, unacked := [] }
    let s := { s with fabric := { s.fabric with standby := some p } }
    let s := if using_ then setRun s fun r => { r with reserveSpent := true } else s
    tally s 0x0292 (islandPort p) 2 p far env.resent (lo32 (runStep s))

/-- PORT_FAILED (R277): not up again 1 ms after going down. -/
def execPortFailed (port : Fin 20) (env : FailoverEnv) (s : State) : Host.Outcome State Fault Refusal :=
  done (
    let x := portAt s port
    if x.state = .down && x.downCause != 0 && decide (x.downAt + 1000000 ≤ s.time) && fabricRuns s then
      failPort (tally s 0x0291 (islandPort port) 2 x.downCause 1 0 0) port env
    else s)

/-- FAILOVER_EXCHANGE (R278): the far end's notice of a failed port; this end fails over as well. -/
def execFailoverExchange (port : Fin 20) (device : Nat) (env : FailoverEnv) (s : State) : Host.Outcome State Fault Refusal :=
  done (
    let x := portAt s port
    if (x.state = .up || x.state = .down) && farDevice s port == some device && fabricRuns s then failPort s port env else s)

/-- DRILL_PORT_DOWN_END (R294): the transmitter of a drilled port may send again. -/
def execDrillPortDownEnd (port : Fin 20) (s : State) : Host.Outcome State Fault Refusal :=
  done (match (portAt s port).drillUntil with
    | some t => if t ≤ s.time then setPort s port fun x => { x with drillUntil := none } else s
    | none => s)

/-! ### Chunks (R280, R281) -/

/-- Whether two headers name the same chunk (R281). -/
def ChunkHeader.same (a b : ChunkHeader) : Bool :=
  a.job == b.job && a.step == b.step && a.collective == b.collective && a.chunk == b.chunk && a.phase == b.phase &&
  a.source == b.source

/-- CHUNK_RECEIVE (R281): a chunk is held once and acknowledged; one of a job not joined, or of a step already completed, is
discarded and counted. -/
def execChunkReceive (h : ChunkHeader) (data : ChunkData) (s : State) : Host.Outcome State Fault Refusal :=
  done (
    if !fabricRuns s then s else
    let ok := match jobAt s h.job with
      | some j => j.joined && (match j.lastCompleted with | some n => decide (n < h.step) | none => true)
      | none => false
    if !ok then { s with fabric := { s.fabric with discarded := s.fabric.discarded + 1 } }
    else
      let held := s.fabric.chunks.any fun c => ChunkHeader.same c.h h
      let s := if held then s else { s with fabric := { s.fabric with chunks := s.fabric.chunks ++ [⟨h, data.info, data.bytes⟩] } }
      notice s h.source 3 h.chunk)

/-- CHUNK_ACK (R281): the receiver holds the chunk. -/
def execChunkAck (h : ChunkHeader) (s : State) : Host.Outcome State Fault Refusal :=
  done { s with fabric := { s.fabric with unacked := s.fabric.unacked.filter fun c => !ChunkHeader.same c.h h } }

/-! ### Tier lending (R226, R245) -/

/-- TIER_LENDING (R226): a near neighbour announces its own lending, stores or fetches a tile, or frees everything. What
this device lends is bounded by its LEND. -/
def execTierLending (port : Fin 7) (op : LendOp) (s : State) : Host.Outcome State Fault Refusal :=
  done (
    if (portAt s port).state ≠ .up || (portAt s port).quarantine ≠ 0 || !fabricRuns s then s else
    let far := (farDevice s port).getD 0
    match op with
    | .learn gib => { s with fabric := { s.fabric with lends := s.fabric.lends.set port gib } }
    | .store object tile data =>
      let rest := s.fabric.lent.filter fun x => !(x.port == port.val && x.object == object && x.tile == tile)
      let used := ((rest.filter fun x => x.port == port.val).map fun x => x.data.length).sum
      if used + data.length ≤ bits (inForce s 3) 5 0 * 2 ^ 30 then
        { s with fabric := { s.fabric with lent := rest ++ [⟨port, object, tile, data⟩] } }
      else s
    | .fetch object tile =>
      match s.fabric.lent.find? fun x => x.port == port.val && x.object == object && x.tile == tile with
      | some x => notice s far 7 (leValue x.data)
      | none => s
    | .free => { s with fabric := { s.fabric with lent := s.fabric.lent.filter fun x => x.port != port.val } })

/-- The bytes that borrowers of one port have stored (R248). -/
def lentBytes (s : State) (p : Nat) : Nat := ((s.fabric.lent.filter fun x => x.port == p).map fun x => x.data.length).sum

/-! ### Drill commands (R293) -/

/-- DRILL_START (R293): voids the steps that use a port the plan acts on (R86). -/
def execDrillStart (m : Fin 64) (s : State) : Host.Outcome State Fault Refusal :=
  done (commandBare s m 0x0605 fun _ =>
    let s := { s with fabric := { s.fabric with drill := true, ports := s.fabric.ports.map fun p =>
        { p with drillCount := List.replicate 8 0 } } }
    let s := tally s 0x0297 islandCollective 1 1 ((List.range 8).countP fun e => bits (drillEntry s e) 19 0 != 0) 0 0
    let s := voidSteps s 4 fun a => drillHits s a.image
    respond s m St.ok [] 0 0)

/-- DRILL_STOP (R293). -/
def execDrillStop (m : Fin 64) (s : State) : Host.Outcome State Fault Refusal :=
  done (commandBare s m 0x0606 fun _ =>
    let s := { s with fabric := { s.fabric with drill := false } }
    let s := tally s 0x0297 islandCollective 1 2 ((List.range 8).countP fun e => bits (drillEntry s e) 19 0 != 0) 0 0
    respond s m St.ok [] 0 0)

/-! ### PORT_STATUS (R348) -/

/-- The codes of a port's state in PORT_STATUS. -/
def PortState.code : PortState → Nat | .down => 0 | .up => 1 | .failed => 2 | .retired => 3

/-- What PORT_STATUS gives of a port: state, the quarantine's status, lane speed in Gb/s, retries, the far end's device number
and manifest. -/
def portRecord (s : State) (p : Nat) : Resp :=
  let x := portAt s p
  [(8, x.state.code), (16, x.quarantine), (8, if x.state = .up then 200 else 0), (32, x.retries),
   (16, (x.far.map fun f => f.device).getD 0), (256, (x.far.map fun f => f.manifest.toNat).getD 0)]

/-- PORT_STATUS (R348). -/
def execPortStatus (m : Fin 64) (p : Pay Nat) (s : State) : Host.Outcome State Fault Refusal :=
  done (command s m 0x0604 p fun _ k =>
    if k = 0xFF then respond s m St.ok ((List.range 20).map (portRecord s)).flatten 0 0
    else if k < 20 then respond s m St.ok (portRecord s k) 0 0
    else refuse s m St.invalidField (Config.payloadByte 0x0604 0))

end Sys2Proof.Machine
end

