-- ==== Sys2Proof/Machine/Jobs.lean ====
section
/-!
DEFINITION. Jobs on the fabric: opening, joining and leaving (R282, R292), entry rounds and peer wait (R286, R288), stage plans
(R290), and version confirmations of others (R197).
Choices of the model, by log entry: 43 DEDUCED.
-/

namespace Sys2Proof.Machine

/-- The device numbers of a job's participants, this device's own among them. -/
def participants (s : State) (job : Nat) : List Nat :=
  let p := partyOf s job 1
  ((List.range p.positions.length).map fun a => (List.range p.nodes.length).map fun b => railDevice p a b).flatten

/-- Whether a box fits the torus: extents from 1 to the torus's own, an origin inside, at least one position (R282). -/
def boxOk (s : State) (b : JobBox) : Bool :=
  let ext := extents (inForce s 4)
  decide (b.ox < ext.1) && decide (b.oy < ext.2.1) && decide (b.oz < ext.2.2) && decide (0 < b.ex) && decide (b.ex ≤ ext.1) &&
  decide (0 < b.ey) && decide (b.ey ≤ ext.2.1) && decide (0 < b.ez) && decide (b.ez ≤ ext.2.2) && b.mask != 0 &&
  decide (b.stage < 4) && decide (b.job < 2 ^ 32)

/-- JOB_OPEN (R282). A new one ends the degraded layout (R307, R312). -/
def execJobOpen (m : Fin 64) (p : Pay JobBox) (s : State) : Host.Outcome State Fault Refusal :=
  done (command s m 0x0601 p fun _ b =>
    if s.dev.shutStep ≠ 0 then refuse s m St.wrongState 0
    else if !boxOk s b then refuse s m St.invalidField (Config.payloadByte 0x0601 0)
    else
      let s := setJob s b.job fun j => { j with box := some b, mismatch := false, degraded := false, failed := [], since := [],
                                                  agreed := [] }
      respond s m St.ok [] 0 0)

/-- JOIN (R292): the payloads are compared and the job's current step is learnt; a device that is behind lags. -/
def execJoin (m : Fin 64) (p : Pay Nat) (peers : JoinAnswer) (s : State) : Host.Outcome State Fault Refusal :=
  done (command s m 0x0602 p fun _ job =>
    let ext := extents (inForce s 4)
    if s.dev.shutStep ≠ 0 then refuse s m St.wrongState 0
    else match jobAt s job with
    | none => refuse s m St.invalidField (Config.payloadByte 0x0602 0)
    | some j =>
      if j.box.isNone || (partyOf s job 1).box.isNone || decide (ext.1 * ext.2.1 * ext.2.2 ≤ nodeOf s) then refuse s m St.invalidField (Config.payloadByte 0x0602 0)
      else if s.fabric.ports.any fun x => x.quarantine != 0 then refuse s m St.manifestMismatch 0
      else if !peers.agree then refuse (setJob s job fun j => { j with mismatch := true }) m St.jobMismatch 0
      else if j.lastCompleted.getD 0 ≠ peers.step then respond s m St.jobLagging [(64, peers.step)] 0 0
      else respond (setJob s job fun j => { j with joined := true }) m St.ok [(64, peers.step)] 0 0)

/-- The device leaves a job and tells its peers (R348, R377). -/
def leaveJob (s : State) (job : Nat) : State :=
  let ds := (participants s job).filter fun d => d != deviceNumber s
  setJob (ds.foldl (fun s d => notice s d 6 job) s) job fun j => { j with joined := false, box := none }

/-- LEAVE (R348). -/
def execLeave (m : Fin 64) (p : Pay Nat) (s : State) : Host.Outcome State Fault Refusal :=
  done (command s m 0x0603 p fun _ job =>
    match jobAt s job with
    | some j => if j.joined then respond (leaveJob s job) m St.ok [] 0 0 else refuse s m St.invalidField (Config.payloadByte 0x0603 0)
    | none => refuse s m St.invalidField (Config.payloadByte 0x0603 0))

/-- JOB_OPEN_COMPARE (R282, R301): a participant's payloads that differ from this device's stop the job's collectives. -/
def execJobOpenCompare (device : Nat) (box : JobBox) (shoring : Option ShoringCfg) (s : State) :
    Host.Outcome State Fault Refusal :=
  done (match jobAt s box.job with
    | none => s
    | some j =>
      let differs := (j.box.isSome && j.box != some box) || (j.shoring.isSome && shoring.isSome && j.shoring != shoring)
      if differs && device != deviceNumber s then setJob s box.job fun j => { j with mismatch := true } else s)

/-- JOB_STEP_QUERY (R292): a participant answers with the job's current step, and compares the payload. -/
def execJobStepQuery (job device : Nat) (box : JobBox) (s : State) : Host.Outcome State Fault Refusal :=
  done (match jobAt s job with
    | none => s
    | some j =>
      if s.dev.state = .halt then s else
      let s := if j.box.isSome && j.box != some box then setJob s job fun j => { j with mismatch := true } else s
      notice s device 5 (j.lastCompleted.getD 0))

/-- MEMBER_QUERY (R305): a live member answers. -/
def execMemberQuery (_job device : Nat) (s : State) : Host.Outcome State Fault Refusal :=
  done (if fabricRuns s then notice s device 4 0 else s)

/-! ### Stage plans (R290) -/

/-- STAGE_PLAN_PUBLISH (R290): a stage's scheduled times. -/
def execStagePlanPublish (job stage : Nat) (times : List Nat) (s : State) : Host.Outcome State Fault Refusal :=
  done (setJob s job fun j => { j with published := (stage, times) :: j.published.filter fun x => x.1 != stage })

/-- The device's own scheduled times of its stage transfers, from the start of their micro-batch (R290). -/
def ownStageTimes (s : State) (img : Image) : List Nat :=
  let b : Basis := ⟨s, img, 0, bits (committed s 1) 1 0, inService s, false, false, [], s.time, false, true, []⟩
  let l := schedule b 0
  let first := (l.filter fun p => match p.item with | .inst i => i.mb == 0 | _ => false).map fun p => p.start
  let t0 := match first with | [] => Frac.zero | x :: xs => xs.foldl Frac.min x
  (stageTransfers img).map fun i => ((l.find? fun p => p.item == .inst i).map fun p => (p.start.sub t0).ceil).getD 0

/-- Publishes the plan of a loaded image that holds stage transfers. -/
def publishPlan (s : State) (img : Image) : State :=
  if (stageTransfers img).isEmpty then s else
  match (partyOf s img.job 1).box with
  | none => s
  | some b =>
    let k := stageOf s b
    setJob s img.job fun j => { j with published := (k, ownStageTimes s img) :: j.published.filter fun x => x.1 != k }

/-! ### Entry rounds and peer wait (R70, R286, R288) -/

/-- What this device brings to the entry round of collective n: opcode, operation, scope and bytes. The norm collective is
opcode 8. -/
def roundInfo (_s : State) (r : Run) (n : Nat) : Option (Nat × Nat × Nat × Nat) :=
  let img := r.adm.image
  if n = normNumber img && (firstUpdate img).isSome then some (8, 0, 1, 16)
  else ((collectives img).find? fun i => collectiveNumber img i == n).bind fun i => (img.descs[i.index]?).map fun d =>
    match d.opcode with
    | 9 => (9, d.param 1, d.param 0, collectiveBytes img d i)
    | 10 => (10, d.param 1, d.param 0, collectiveBytes img d i)
    | 14 => (14, 0, 1, 16 * (syncEntries img d).length)
    | o => (o, 0, 1, 0)

/-- Extends the running step's promise by a peer wait, and those of the steps whose promises rest on it (R70). -/
def extendPromises (s : State) (ns : Nat) : State :=
  let mark (s : State) (a : Admitted) : State :=
    if a.drill then s else setRecord s a.job a.step fun r => { r with effective := r.effective + ns }
  match s.sched.run with
  | none => s
  | some r =>
    let chain := s.sched.queue.takeWhile fun a => a.rests
    let s := (r.adm :: chain).foldl mark s
    let s := setRecord s r.adm.job r.adm.step fun x => { x with peerWait := x.peerWait + ns }
    { s with sched := { s.sched with
        run := s.sched.run.map fun r => { r with peerWait := r.peerWait + ns, adm := { r.adm with extension := r.adm.extension + ns } },
        queue := (s.sched.queue.takeWhile fun a => a.rests).map (fun a => { a with extension := a.extension + ns }) ++
          s.sched.queue.dropWhile fun a => a.rests } }

/-- The first device whose part differs from this device's. -/
def firstDiffering (n : Nat) (own : Nat × Nat × Nat × Nat) (parts : List EntryInfo) : Option Nat :=
  (parts.find? fun p => p.number != n || (p.opcode, p.operation, p.scope, p.bytes) != own).map fun p => p.device

/-- ENTRY_ROUND_MESSAGE (R286): the parts of every other live participant. A difference ends the step without its update
(R62); agreement opens the collective, with the wait beyond 2 × α × h_d counted as peer wait. -/
def execEntryRoundMessage (job step : Nat) (parts : List EntryInfo) (waitNs : Nat) (s : State) :
    Host.Outcome State Fault Refusal :=
  done (match s.sched.run with
    | none => s
    | some r =>
      let n := r.entered
      let others := (participants s job).filter fun d => d != deviceNumber s && !(failedDevices s job).contains d
      if r.adm.job ≠ job || r.adm.step ≠ step || r.mismatchEnd || !jobRuns s job ||
         !(others.all fun d => parts.any fun p => p.device == d) then s
      else match roundInfo s r n with
        | none => s
        | some own =>
          match firstDiffering n own parts with
          | some d =>
            let s := tally s 0x0296 islandCollective 3 n job (lo32 step) d
            let s := voidSteps s 6 fun a => a.job == job && a.step == step
            setRun s fun r => { r with mismatchEnd := true }
          | none => extendPromises (setRun s fun r => { r with entered := n + 1 }) waitNs)

/-! ### Version confirmations (R197) -/

/-- VERSION_CONFIRM_REQUEST (R197): the owner answers whether a version is its current or previous one, and retains it. -/
def execVersionConfirmRequest (device ctx mb object version : Nat) (s : State) : Host.Outcome State Fault Refusal :=
  done (match objAt s ctx object with
    | none => notice s device 2 object
    | some o =>
      if version = o.version || version = o.prevVersion then
        notice { s with fabric := { s.fabric with retained := (device, ctx, mb, object, version) :: s.fabric.retained } } device 1 object
      else notice s device 2 object)

end Sys2Proof.Machine
end

