-- ==== Sys2Proof/Machine/Bursts.lean ====
section
/-!
DEFINITION. Device addresses (R202), the pin-column code and what its errors count (R206 to R209), and the errors of the memory
and the base dies that an instance meets (R80, R214, R223).
Choices of the model, by log entry: 19 DEDUCED, 79 DEDUCED.
-/

namespace Sys2Proof.Machine

/-! ### Device addresses (R202) -/

def addrStack (a : Nat) : Nat := bits a 39 36
def addrFrame (a : Nat) : Nat := bits a 35 20
def addrPch (a : Nat) : Nat := bits a 19 14
def addressOf (stack pch frame : Nat) : Nat := field 36 stack + field 20 frame + field 14 pch

/-! ### Correction (R207 to R209) -/

/-- The erased position of a pseudo-channel. -/
def erasedAt (s : State) (stack pch : Nat) : Option Nat :=
  (s.flash.erasures.find? fun e => e.1 == stack && e.2.1 == pch).map fun e => e.2.2

/-- What the decoder of the pseudo-channel makes of a burst's errors: the symbols it corrects, none where it finds the burst
uncorrectable (R207, R208). The code is linear, so the errors alone give the syndromes. -/
def decodedErrors (s : State) (e : BurstError) : Option (List (Nat × Byte)) :=
  decodeBurst (erasedAt s (addrStack e.address) (addrPch e.address)) ((List.range 4).map fun k => sparseSyndrome k e.errors)

/-- Whether two lists of symbol errors are the same, whatever their order. -/
def sameErrors (a b : List (Nat × Byte)) : Bool := (a.all b.contains) && (b.all a.contains)

/-- Whether a burst is delivered correct (R207). -/
def correctable (s : State) (e : BurstError) : Bool := (decodedErrors s e).any (sameErrors e.errors)

/-- Distinct frames among correction marks of one position. -/
def distinctFrames : List Nat → List Nat
  | [] => []
  | f :: l => if l.contains f then distinctFrames l else f :: distinctFrames l



/-- One corrected symbol position counts (R209): the sixteenth frame within 24 h marks the position erased, or, where another
is erased already, is counted and recorded as a second position. -/
def countPosition (s : State) (stack pch frame pos : Nat) : State :=
  if erasedAt s stack pch == some pos then s else
  let s := { s with hbm := s.hbm.modify stack fun x =>
    { x with marks := (pch, pos, frame, s.time) :: x.marks.filter fun m =>
        decide (s.time < m.2.2.2 + dayNs) && !(m.1 == pch && m.2.1 == pos && m.2.2.1 == frame) } }
  let n := (distinctFrames (((at' s.hbm stack {}).marks.filter fun m => m.1 == pch && m.2.1 == pos).map fun m => m.2.2.1)).length
  if n < 16 then s else
  match erasedAt s stack pch with
  | none =>
    let s := { s with flash := { s.flash with erasures := (stack, pch, pos) :: s.flash.erasures } }
    tally s 0x0261 (islandStack stack) 2 pch pos n 0
  | some q =>
    if s.flash.second.contains (stack, pch) then s
    else tally { s with flash := { s.flash with second := (stack, pch) :: s.flash.second } } 0x0262 (islandStack stack) 2 pch pos q 0

/-- A burst that the decoder corrects at the positions given (R207, R225). -/
def correctBurst (s : State) (e : BurstError) (positions : List Nat) : State :=
  let stack := addrStack e.address
  let s := { s with hbm := s.hbm.modify stack fun x => { x with corrected := capAt (2 ^ 32 - 1) (x.corrected + 1) } }
  let s := tally s 0x0260 (islandStack stack) 1 (addrPch e.address) (at' positions 0 0xFF + 256 * at' positions 1 0xFF)
    (addrFrame e.address) 0
  positions.foldl (fun s p => countPosition s stack (addrPch e.address) (addrFrame e.address) p) s

/-- The bursts in error of one read by an agent (R208): corrected ones count; the first found uncorrectable is fatal. The
answer says whether any burst was miscorrected, which delivers other bytes. -/
def readBursts (s : State) (agent : Nat) : List BurstError → Bool → State × Bool
  | [], wrong => (s, wrong)
  | e :: l, wrong =>
    if s.dev.state = .halt then (s, wrong)
    else if e.errors.isEmpty then readBursts s agent l wrong
    else match decodedErrors s e with
      | some c => readBursts (correctBurst s e (c.map fun x => x.1)) agent l (wrong || !sameErrors e.errors c)
      | none =>
        (fatal s 0x0263 (islandStack (addrStack e.address)) (lo32 e.address) (bits e.address 39 32) agent 0, wrong)

/-! ### Errors that an instance meets (R80, R207, R208, R214, R223) -/

/-- A fatal error of the device for which the manual names no record of its own (R80): its code is a free value. -/
def lossFatal (s : State) (island : Nat) : State :=
  let x := freshValue s 21
  fatal x.2 (x.1 % 65536) island 0 0 0 0

/-- One error that an instance of a descriptor meets. -/
def meetFault (index : Nat) (s : State) (f : HwFault) : State :=
  if s.dev.state = .halt then s else
  match f with
  | .burst agent e => (readBursts s agent [e] false).1
  | .onDie k => { s with hbm := s.hbm.modify k fun x => { x with onDie := x.onDie + 1 } }
  | .lode k function => fatal s 0x0266 (islandLode k) function index 0 0
  | .controller k => lossFatal s (islandStack k)
  | .slice die n address double =>
    let island := 0x080 + 16 * die.val + n.val
    if double then lossFatal s island
    else
      let s := { s with islands := { s.islands with slices := s.islands.slices.modify (16 * die + n) (· + 1) } }
      tally s 0x0265 island 1 (lo32 address) (bits address 39 32) 0 0
  | .ioDie island => lossFatal s island

end Sys2Proof.Machine
end

