-- ==== Sys2Proof/Machine/Shoring.lean ====
section
/-!
DEFINITION. Shoring (R297 to R313): configuration, securing, failures and rebuilds, lost groups and restored copies.
Choices of the model, by log entry: 42 DEDUCED.
-/

namespace Sys2Proof.Machine

/-! ### The failure rate (R302) -/

/-- e^(−Δ/τ) for Δ in ns and τ = 604,800 s, in units of 2^−64: (1 − x/2^20)^(2^20) by repeated squaring. -/
def decay (dt : Nat) : Nat :=
  let x := dt * 2 ^ 64 / 604800000000000 / 2 ^ 20
  (List.range 20).foldl (fun v _ => v * v / 2 ^ 64) (2 ^ 64 - min x (2 ^ 64))

/-- λ after an update with f failures, in units of 10^−18 per second. -/
def lambdaNext (lambda dt f : Nat) : Nat := lambda * decay dt / 2 ^ 64 + f * 10 ^ 18 / 604800

/-- λ at CONFIGURE from the bits of LAMBDA_INIT and the number of participants. -/
def lambdaInit (w : Word) (p : Nat) : Nat :=
  let d := (f32 w).dy
  let num := d.m.toNat * p * 10 ^ 18
  (if 0 ≤ d.e then num * 2 ^ d.e.toNat else num / 2 ^ (-d.e).toNat) / 3600000000

/-- I in ns, clamped to 30 s to 21,600 s. -/
def interval (cNs lambda : Nat) : Nat :=
  max (30 * 10 ^ 9) (min (21600 * 10 ^ 9) (isqrt (2 * cNs * 10 ^ 27 / max 1 lambda)))

/-- n_I: steps per interval at the mean duration of the completions held. -/
def stepsPerInterval (i : Nat) (completions : List Nat) : Nat :=
  match completions.getLast?, completions.head? with
  | some z, some a => if z ≤ a then 1 else max 1 (i * (completions.length - 1) / (z - a))
  | _, _ => 1

/-- Whether this device is the job's coordinator. -/
def coordinates (s : State) (job : Nat) : Bool :=
  ((participants s job).filter fun d => !(failedDevices s job).contains d).all fun d => decide (deviceNumber s ≤ d)

/-- The context that a job's images use. -/
def jobContext (s : State) (job : Nat) : Option Nat :=
  (s.ctxs.find? fun c => c.images.any fun i => i.job == job).map fun c => c.number

/-- The interval that a job's λ gives now. -/
def jobInterval (s : State) (j : Job) : Nat :=
  interval (match jobContext s j.number with | some c => (securingNs s j.number c).ceil | none => 0) j.lambda

/-- The coordinator names the next securing step (R302). -/
def announceNext (s : State) (job : Nat) : State :=
  match jobAt s job with
  | none => s
  | some j =>
    if (groupOf s job).isNone || !coordinates s job || j.announced.isSome then s else
    let n := stepsPerInterval (jobInterval s j) j.durations
    let next := max (j.secured.getD 0 + n) (j.lastCompleted.getD 0 + 16)
    setJob s job fun j => { j with announced := some next, reencode := false }

/-! ### CONFIGURE (R301) -/

def shoringOf (page : Mem) : ShoringCfg :=
  let b := Mem.le page 68 1
  { job := Mem.le page 64 4, kData := b % 16, mParity := bits b 5 4, hostCopy := bits b 6 6 == 1,
    lambdaInit := BitVec.ofNat 32 (Mem.le page 72 4), hostRegion := Mem.le page 80 8 }

/-- The bytes of one generation of the member's own state in host memory. -/
def copyBytes (s : State) (job : Nat) : Nat :=
  match jobContext s job with | some c => ownChunks s job c * 2 ^ 20 | none => 0

/-- T1 bytes of the two generation areas (R300). -/
def areasBytes (s : State) (job : Nat) : Nat :=
  match settledGroup s job, jobAt s job, jobContext s job with
  | some g, some j, some ctx =>
    let c := groupChunks s j g ctx
    let size := g.members.length
    let p := ((List.range size).map fun x => parityChunks size g.m c x).foldl max 0
    2 * (c + p + ceilDiv c (max 1 (size - 1))) * 2 ^ 20
  | _, _, _ => 0

/-- The page offset of the first field of CONFIGURE that fails. -/
def configureBad (s : State) (w : Work) : Option Nat :=
  if w.length ≠ 32 then some 12 else
  let c := shoringOf w.page
  let n := (partyOf s c.job 1).nodes.length
  let g := c.kData + c.mParity
  if (jobAt s c.job).isNone || ((jobAt s c.job).bind fun j => j.box).isNone then some 64
  else if c.kData < 2 ∨ 14 < c.kData ∨ c.mParity = 3 ∨ 16 < g ∨ n < g ∨ n / groupCount n g < c.mParity + 2 ∨
      Mem.le w.page 68 4 / 128 ≠ 0 then some 68
  else if 0x7F800000 ≤ c.lambdaInit.toNat ∨ c.lambdaInit = 0 then some 72
  else if Mem.le w.page 76 4 ≠ 0 then some 76
  else if c.hostCopy && (c.hostRegion % 4096 != 0 || !s.mem.regions.any fun r => decide (r.address ≤ c.hostRegion) &&
      decide (c.hostRegion + 2 * copyBytes s c.job ≤ r.address + r.bytes)) then some 80
  else if Mem.le w.page 88 8 ≠ 0 then some 88
  else none

/-- CONFIGURE (R301); `agree` is whether every participant received the same payload. -/
def execConfigure (m : Fin 64) (agree : Bool) (s : State) : Host.Outcome State Fault Refusal :=
  done (match workOf s m 0x0701 with
    | none => s
    | some w =>
      match configureBad s w with
      | some o => refuse s m St.invalidField o
      | none =>
        let c := shoringOf w.page
        if !agree then refuse (setJob s c.job fun j => { j with mismatch := true }) m St.jobMismatch 0 else
        let s := setJob s c.job fun j => { j with shoring := some c, lambda := lambdaInit c.lambdaInit (partyOf s c.job 1).count,
                                                  lambdaAt := s.time, failures := 0 }
        let s := setJob s c.job fun j => { j with areaBytes := areasBytes s c.job }
        respond (announceNext s c.job) m St.ok [] 0 0)

/-! ### Securing (R302, R303, R309) -/

/-- SECURING_ANNOUNCE (R302): the step whose state the step after it secures. -/
def execSecuringAnnounce (job step : Nat) (s : State) : Host.Outcome State Fault Refusal :=
  done (match jobAt s job with
    | some j => if j.shoring.isSome then setJob s job fun j => { j with announced := some step, reencode := false } else s
    | none => s)

/-- Whether a re-encoding would leave the group unprotected (R309). -/
def unprotected (s : State) (job : Nat) : Option (Nat × Nat) :=
  match jobAt s job with
  | none => none
  | some j =>
    match groupOf s job, settledGroup s job with
    | some g, none => some (g.number, (g.members.filter fun r => !j.failed.contains (railDevice (partyOf s job 1) (partyOf s job 1).a r)).length)
    | _, _ => none

/-- REENCODING_ANNOUNCE (R309): `step` is the first step that no member had admitted; it secures the version before it. A
group with too few data members stays unprotected. -/
def execReencodingAnnounce (job step : Nat) (s : State) : Host.Outcome State Fault Refusal :=
  done (match jobAt s job with
    | none => s
    | some j =>
      if j.shoring.isNone then s else
      match unprotected s job with
      | some g => tally (setJob s job fun j => { j with degraded := true, since := [] }) 0x02A5 islandCollective 3 g.1 g.2 0 0
      | none => setJob s job fun j => { j with announced := some (step - 1), reencode := true })

/-- The member shards that a securing ends: those of devices that have not failed, which take them back (R312). -/
def dropReturned (j : Job) : Job := { j with shadows := j.shadows.filter fun h => j.failed.contains h.device }

/-- A device that rejoins takes back its shards from their owners, with their VERSION and both slots (R312). -/
def takeBack (s : State) (job : Nat) (x : Returned) : State :=
  match jobContext s job with
  | none => s
  | some ctx =>
    let back (o : ReturnedObj) (y : Obj) : Obj :=
      { y with data := o.data, prev := o.prev, changed := [], version := o.version, prevVersion := o.prevVersion }
    let s := x.objects.foldl (fun s o => match objAt s ctx o.object with
      | some y => setScale (setObj s ctx o.object (back o)) ctx y.entry.scale fun _ => ScaleEntry.unpack o.scale.toNat
      | none => s) s
    setJob s job fun j => { j with lastCompleted := some x.step }

/-- SECURING (R303): the implicit instance writes the free generation area, with the parity of the chunks that the member has
received; once every member has acknowledged, that generation is the newest complete one. On a device that is not yet taking
part again it brings that device's shards back (R312). -/
def execSecuring (job : Nat) (arrival : SecuringArrival) (hostOk : Bool) (s : State) :
    Host.Outcome State Fault Refusal :=
  done (match s.sched.run, jobAt s job with
    | some r, some j =>
      let updated := r.executed.any fun i => match r.adm.image.descs[i.index]? with | some d => d.opcode == 8 | none => false
      if r.adm.job ≠ job || !r.adm.securing || r.secured || !r.switched || updated then s else
      let step := r.adm.step - 1
      let free := 1 - j.generation
      let gen := newGeneration s j r.adm.ctx step arrival.received
      let shares := sharesNow s j r.adm.ctx
      let s := setJob s job fun j => { j with areas := j.areas.set free (some gen) }
      if !arrival.acknowledged then s else
      let copied := (match j.shoring with | some c => c.hostCopy | none => false) && hostOk
      let s := setJob s job fun j => dropReturned
        { j with generation := free, secured := some step, since := [], announced := none, reencode := false, chunks := [],
                 shares, restored := [],
                 lambda := lambdaNext j.lambda (s.time - j.lambdaAt) j.failures, lambdaAt := s.time, failures := 0,
                 hostGen := if copied then j.hostGen.set free (some step) else j.hostGen.set free none }
      let s := setJob s job fun j => { j with areaBytes := areasBytes s job }
      let s := setRun s fun r => { r with secured := true }
      announceNext (tally s 0x02A0 islandCollective 1 (lo32 step) (hi32 step) gen.parity.length (if j.reencode then 2 else 1)) job
    | none, some j =>
      match arrival.returned with
      | some x => if j.box.isSome && !j.joined && fabricRuns s then takeBack s job x else s
      | none => s
    | _, _ => s)

/-! ### Failures (R305 to R311) -/

/-- The group of a participant by device number. -/
def groupOfDevice (s : State) (job device : Nat) : Option (Nat × List Nat × Nat) :=
  let p := partyOf s job 1
  match p.positions.findIdx? fun q => q == device % 8, p.nodes.findIdx? fun n => n == device / 8 with
  | some a, some b => (groupAt s job a b).map fun g => (g.1, g.2.1.map (railDevice p a), g.2.2)
  | _, _ => none

/-- A lender frees what it holds for a borrower that has failed (R245). -/
def freeLent (s : State) (device : Nat) : State :=
  { s with fabric := { s.fabric with lent := s.fabric.lent.filter fun x => farDevice s x.port != some device } }

/-- Declares a participant failed, once: the record, the degraded layout, and λ's count (R302, R305, R307). -/
def declareFailed (s : State) (job device : Nat) : State :=
  match jobAt s job with
  | none => s
  | some j =>
    if j.failed.contains device || device == deviceNumber s || !(participants s job).contains device then s else
    let g := groupOfDevice s job device
    let s := freeLent s device
    let n := (match g with | some g => j.since.countP g.2.1.contains | none => 0) + 1
    let s := setJob s job fun j =>
      { j with failed := j.failed ++ [device], since := j.since ++ [device],
               lambda := lambdaNext j.lambda (s.time - j.lambdaAt) 1, lambdaAt := s.time }
    tally s 0x02A1 islandCollective 2 device ((g.map fun g => g.1).getD 0) (lo32 (runStep s)) n

/-- MEMBER_FAILED (R305): a neighbour that gets no answer declares the member failed. -/
def execMemberFailed (job device : Nat) (answered : Bool) (s : State) : Host.Outcome State Fault Refusal :=
  done (if answered || !fabricRuns s then s else declareFailed s job device)

/-- LEAVE_NOTICE (R377): the leaver counts as failed for the job. -/
def execLeaveNotice (job device : Nat) (s : State) : Host.Outcome State Fault Refusal :=
  done (if fabricRuns s then declareFailed s job device else s)

/-- The micro-batches whose stage transfers came from the failed device are dropped (R59, R305). -/
def dropAfter (s : State) (job device : Nat) : State :=
  match s.sched.run with
  | none => s
  | some r =>
    let img := r.adm.image
    let feeds := r.adm.job == job && !(stageTransfers img).isEmpty &&
      (match (partyOf s job 1).box with | some b => previousStage s b == device | none => false)
    if !feeds then s else
    ((List.range img.micro).filter fun mb => img.insts.any fun i => i.mb == mb && !r.executed.contains i &&
      (match img.descs[i.index]? with | some d => d.opcode == 10 && d.param 0 == 2 | none => false)).foldl
      (fun s mb => match s.sched.run with | some r => dropMicro s r mb | none => s) s

/-- GROUP_LOST (R310, R311): the running step of the job ends without its update on every device, its promise void on those of
the group (R86 Table 6); without copies the queued ones are
removed and the job stops, with copies it is held. -/
def groupLost (s : State) (job : Nat) (g : Nat × List Nat × Nat) : State :=
  match jobAt s job with
  | none => s
  | some j =>
    let lost := j.since.filter g.2.1.contains
    let held := match j.shoring with | some c => c.hostCopy | none => false
    let s := tally s 0x02A3 islandCollective 3 g.1 (at' lost 0 0 % 65536 + 65536 * (at' lost 1 0 % 65536)) (lo32 (runStep s))
      (if held then 2 else 1)
    let s := if g.2.1.contains (deviceNumber s) then
      voidSteps s (if g.2.2 = 1 then 3 else 2) fun a => a.job == job && (match s.sched.run with
        | some r => r.adm.step == a.step | none => false) else s
    let s := setRun s fun r => if r.adm.job = job then { r with mismatchEnd := true } else r
    let s := match s.sched.run with
      | some r => if r.adm.job = job then setRecord s job r.adm.step fun x => { x with status := St.groupLost } else s
      | none => s
    let s := setJob s job fun j => { j with lost := if held then 2 else 1, restored := [] }
    if held then s else
    (s.sched.queue.filter fun a => a.job == job).foldl (fun s a =>
      deviceEvent (setRecord (removeQueued s a) job a.step fun x => { x with state := 4, status := St.groupLost }) 0) s

/-- A carried shard with objects of a securing step installed: the listed tiles in both slots, their changed bits clear, VERSION
and scale entry as secured (R308). -/
def Shadow.install (h : Shadow) (x : Secured) (tiles : List (Nat × List Nat)) : Shadow :=
  let of' (n : Nat) : List Nat := (tiles.filter fun t => t.1 == n).flatMap fun t => t.2
  let put (o : Obj) (m b : Mem) : Mem :=
    b.foldl (fun m c => Mem.set m c.1 c.2) ((of' o.entry.object).foldl (fun m t => Mem.clear m (o.entry.slotBase t) o.entry.tileMax) m)
  let obj (o : Obj) : Obj := match x.objects.find? fun y => y.object == o.entry.object with
    | some y => { o with data := put o o.data y.data, prev := put o o.prev y.data,
                         changed := o.changed.filter fun t => !(of' o.entry.object).contains t,
                         version := y.version, prevVersion := y.version }
    | none => o
  { h with
    ctx := { h.ctx with
      objects := h.ctx.objects.map obj
      scales := h.ctx.objects.foldl (fun l o => match x.objects.find? fun y => y.object == o.entry.object with
        | some y => l.set o.entry.scale (ScaleEntry.unpack y.scale.toNat) | none => l) h.ctx.scales }
    owned := (tiles.map fun t => t.1).eraseDups.foldl (fun l n =>
      match l.find? fun o => o.1 == n with
      | some o => (n, (o.2 ++ of' n).eraseDups) :: l.filter fun o => o.1 != n
      | none => (n, of' n) :: l) h.owned }

/-- The empty shard of a failed member, with the objects of this device's own context. -/
def emptyShadow (s : State) (device ctx : Nat) (first : Bool) : Shadow :=
  let c := (ctxAt s ctx).getD { number := ctx }
  ⟨device, { number := 65536 * (device + 1) + ctx, objects := c.objects.map fun o => { entry := o.entry }, scales := c.scales }, [], first⟩

/-- A survivor installs restored state of a failed member and takes ownership of its tiles (R305 step 5, R308, R311). -/
def adopt (s : State) (job device : Nat) (x : Secured) (tiles : List (Nat × List Nat)) (first : Bool) : State :=
  let fresh := emptyShadow s device x.ctx first
  setJob s job fun j =>
    let h := (j.shadows.find? fun h => h.device == device).getD fresh
    { j with adopted := (j.adopted.filter fun y => y.1 != device) ++ [(device, x)],
             shadows := (j.shadows.filter fun h => h.device != device) ++ [h.install x tiles] }

/-- This survivor's part of a rebuild (R305 steps 4 and 5): it decodes the chunks that fall to it, keeps them, and installs the
tiles that begin in them. -/
def rebuild (s : State) (job device : Nat) (b : Rebuild) : State :=
  match jobAt s job, groupOf s job with
  | some j, some g =>
    match at' j.areas j.generation none with
    | none => s
    | some gen =>
      let need := chunksToRebuild s j g gen.ctx
      let ms := g.devices s job
      match rebuiltTiles s j g gen b.fetched with
      | none => s
      | some tiles =>
        if need.isEmpty then s else
        let chunks := need.filterMap fun x => (rebuiltChunk s j g gen b.fetched x.1 x.2).map fun c => (at' ms x.1 0, x.2, c)
        let first := (ms.find? fun d => !j.failed.contains d) == some (deviceNumber s)
        let t := (tiles.map fun t => t.1).eraseDups.foldl (fun t origin =>
          let x := rebuiltState s j g gen b.fetched origin tiles
          adopt t job origin x (x.objects.map fun o =>
            (o.object, (tiles.filter fun t => t.1 == origin && t.2.1.object == o.object).map fun t => t.2.2.1)) first) s
        let t := setJob t job fun j => { j with chunks := j.chunks ++ chunks }
        tally t 0x02A2 islandCollective 2 device need.length (lo32 gen.step) b.us
  | _, _ => s

/-- FAILURE_ANNOUNCE (R305, R308, R310): the failure is agreed job-wide, once; in the failed member's own group the reserve is
spent, and this survivor rebuilds what falls to it, or the group is lost. -/
def execFailureAnnounce (job device : Nat) (fetched : List StripeChunk) (us : Nat) (s : State) :
    Host.Outcome State Fault Refusal :=
  done (
    let agreed := match jobAt s job with | some j => j.agreed.contains device | none => false
    if !fabricRuns s || agreed then s else
    let s := setJob (dropAfter (declareFailed s job device) job device) job fun j => { j with agreed := j.agreed ++ [device] }
    match groupOfDevice s job device, jobAt s job with
    | some g, some j =>
      if !j.failed.contains device then s else
      let mine := g.2.1.contains (deviceNumber s)
      let n := j.since.countP g.2.1.contains
      if g.2.2 < n then groupLost s job g
      else if !mine then s else
      let second := match s.sched.run with | some r => r.adm.job == job && decide (0 < r.failuresIn) | none => false
      let s := setRun s fun r => if r.adm.job = job then
          { r with failuresIn := r.failuresIn + 1, reserveSpent := true, secured := r.secured || r.adm.securing } else r
      let s := if second then voidSteps s 2 fun a => a.job == job && (match s.sched.run with
          | some r => r.adm.step == a.step | none => false) else s
      rebuild s job device ⟨fetched, us⟩
    | _, _ => s)

/-- RESTORE (R311): a survivor installs a lost member's copy; once all are restored the job resumes. -/
def execRestore (m : Fin 64) (p : Pay RestoreReq) (copy : Option Secured) (s : State) : Host.Outcome State Fault Refusal :=
  done (command s m 0x0702 p fun _ q =>
    match jobAt s q.job with
    | none => refuse s m St.invalidField (Config.payloadByte 0x0702 0)
    | some j =>
      if j.lost ≠ 2 then refuse s m St.wrongState 0
      else if !j.since.contains q.member then refuse s m St.invalidField (Config.payloadByte 0x0702 1)
      else if !s.mem.regions.any fun r => r.number == q.region then refuse s m St.invalidField (Config.payloadByte 0x0702 2)
      else match copy with
        | none => refuse s m St.invalidField (Config.payloadByte 0x0702 2)
        | some x =>
          let tiles := x.objects.map fun o => (o.object, match objAt s x.ctx o.object with
            | some y => List.range y.entry.tiles | none => [])
          let s := setJob (adopt s q.job q.member x tiles true) q.job fun j =>
            let restored := if j.restored.contains q.member then j.restored else j.restored ++ [q.member]
            { j with restored, lost := if j.since.all restored.contains then 0 else 2 }
          respond s m St.ok [] 0 0)

/-- SHORING_STATUS (R348): group, member, newest complete securing step, and I in ns. -/
def execShoringStatus (m : Fin 64) (p : Pay Nat) (s : State) : Host.Outcome State Fault Refusal :=
  done (command s m 0x0703 p fun _ job =>
    match jobAt s job with
    | none => refuse s m St.invalidField (Config.payloadByte 0x0703 0)
    | some j =>
      let g := groupOf s job
      respond s m St.ok [(32, (g.map fun g => g.number).getD 0), (32, (g.map fun g => g.own).getD 0), (64, j.secured.getD 0),
        (64, jobInterval s j)] 0 0)

end Sys2Proof.Machine
end

