-- ==== Sys2Proof/Machine/Settings.lean ====
section
/-!
DEFINITION. The configuration sets and the CONFIG commands (R351 to R355).
Choices of the model, by log entry: 8 DESIGN CHOICE, 63 DEDUCED.
-/

namespace Sys2Proof.Machine

/-- The bytes of set i, 1 to 6 (R354 Table 6). -/
def setBytes (i : Nat) : Nat := match i with | 4 => 64 | 6 => 128 | _ => 8

/-- Whether a drill entry's AMOUNT suits its ACTION (R293 Table 9). -/
def drillAmountOk (action amount : Nat) : Bool :=
  match action with
  | 0 => amount == 0 | 2 => amount == 0
  | 1 => decide (1 ≤ amount) && decide (amount ≤ 30)
  | _ => decide (1 ≤ amount)

/-- The byte of a drill entry's first field that fails (R293 Table 9). -/
def drillEntryBad (v : Nat) : Option Nat :=
  firstOffset [(2, bits v 23 23 != 0), (3, decide (4 < bits v 26 24)), (3, bits v 31 27 != 0), (4, decide (30 < bits v 39 32)),
    (5, !drillAmountOk (bits v 26 24) (bits v 47 40)), (6, bits v 63 48 != 0)]

/-- The byte of a set's first field that is outside its range or breaks the set's own rules (R351, R355, R146, R248, R271, R272,
R293). -/
def setBad (i v : Nat) : Option Nat :=
  match i with
  | 1 => firstOffset [(0, bits v 7 2 != 0), (1, decide (bits v 13 8 < 10)), (1, decide (50 < bits v 13 8)), (1, bits v 15 14 != 0),
      (2, bits v 63 17 != 0)]
  | 2 => firstOffset [(0, decide (8388608 < bits v 31 0)), (4, bits v 63 33 != 0)]
  | 3 => firstOffset [(0, decide (32 < bits v 5 0)), (0, bits v 15 6 != 0), (2, decide (200 < bits v 23 16)), (3, bits v 63 24 != 0)]
  | 4 => firstOffset [(1, bits v 31 13 != 0), (16, bits v 511 128 != 0),
      (8, decide (192 < ((List.range 8).map fun c => bits v (64 + 8 * c + 7) (64 + 8 * c)).sum))]
  | 5 => firstOffset [(1, bits v 63 13 != 0)]
  | 6 => (List.range 8).findSome? fun e => (drillEntryBad (bits v (128 * e + 127) (128 * e))).map fun o => 16 * e + o
  | _ => some 0

/-- Whether an object has TIER_PREFER T3 or is held in T3 (R248). -/
def t3InUse (s : State) : Bool :=
  s.ctxs.any fun c => (c.objects.any fun o => o.entry.tier == 2 || !o.inT1) || c.images.any fun i => i.objects.any fun e => e.tier == 2

/-- Nodes of a fabric set's torus. -/
def torusNodes (v : Nat) : Nat := let e := extents v; e.1 * e.2.1 * e.2.2

/-- The cause of Table 7 for which a commit of set i is refused, besides the generation (R352). -/
def commitCause (s : State) (i v : Nat) : Option Nat :=
  let fits (units lend : Nat) : Bool :=
    decide (2 ^ 32 + 7 * lend * 2 ^ 30 + pagePoolBytes units + frameBytes * s.flash.frames.length + poolBooked s ≤ 2 ^ 40)
  match i with
  | 2 => if bits v 31 0 < unitsUsed s + unitsBooked s || !fits (bits v 31 0) (bits (committed s 3) 5 0) then some 2 else none
  | 3 =>
    if (List.range 7).any (fun p => decide (bits v 5 0 * 2 ^ 30 < lentBytes s p)) || (bits v 23 16 == 0 && t3InUse s) ||
       !fits (bits (committed s 2) 31 0) (bits v 5 0) then some 3 else none
  | 4 => if s.jobs.any (fun j => j.box.isSome) || decide (torusNodes v ≤ bits (committed s 5) 12 0) then some 4 else none
  | 5 => if s.jobs.any (fun j => j.box.isSome) || decide (torusNodes (committed s 4) ≤ bits v 12 0) then some 4 else none
  | 6 => if s.fabric.drill then some 5 else none
  | _ => none

/-- The generation under which set k was committed. -/
def setGen (s : State) (i : Nat) : Nat := (at' s.cfg (i - 1) { value := 0, force := 0 }).gen

/-- Puts committed sets into force where every step in hand was admitted under them (R353). A fabric set in force exchanges
manifests again (R271). -/
def configBoundary (s : State) : State :=
  let due (i : Nat) : Bool :=
    let c := at' s.cfg (i - 1) { value := 0, force := 0 }
    c.gen != c.forceGen && (inHand s).all fun a => at' a.gens (i - 1) 0 == c.gen
  (List.range 6).foldl (fun s k =>
    if due (k + 1) then
      let s := { s with cfg := s.cfg.modify k fun c => { c with force := c.value, forceGen := c.gen } }
      if k = 3 then { s with fabric := { s.fabric with ports := s.fabric.ports.map fun p => { p with far := none } } } else s
    else s) s

/-- A mailbox's stage slot for set i. -/
def stageSlot (s : State) (m i : Nat) : Option StageSlot := at' (mbxAt s m).slots (i - 1) none
def setStage (s : State) (m i : Nat) (x : Option StageSlot) : State :=
  setMbx s m fun b => { b with slots := b.slots.set (i - 1) x }

/-- CONFIG_STAGE (R351). -/
def execConfigStage (m : Fin 64) (p : Pay (Nat × Nat)) (s : State) : Host.Outcome State Fault Refusal :=
  done (match workOf s m 0x0C01, p with
    | some _, .bad o => refuse s m St.invalidField o
    | some w, .fields x =>
      if x.1 < 1 ∨ 6 < x.1 then refuse s m St.invalidField (Config.payloadByte 0x0C01 0)
      else match setBad x.1 x.2 with
        | some o => refuse (setStage s m x.1 none) m St.invalidField (Config.payloadByte 0x0C01 1 + o)
        | none => respond (setStage s m x.1 (some ⟨at' w.gens (x.1 - 1) 0, x.2⟩)) m St.ok [(32, at' w.gens (x.1 - 1) 0)] 0 0
    | none, _ => s)

/-- A refused commit (R352, R356). -/
def commitRefused (s : State) (m i cause : Nat) : State :=
  respond (tally s 0x02C3 islandForeman 1 i cause m (setGen s i)) m St.commitConflict [] (setGen s i) cause

/-- CONFIG_COMMIT (R352): the slot is emptied whether the commit succeeds or not. -/
def execConfigCommit (m : Fin 64) (p : Pay Nat) (s : State) : Host.Outcome State Fault Refusal :=
  done (command s m 0x0C02 p fun _ i =>
    if i < 1 ∨ 6 < i then refuse s m St.invalidField (Config.payloadByte 0x0C02 0) else
    match stageSlot s m i with
    | none => refuse s m St.invalidField (Config.payloadByte 0x0C02 0)
    | some x =>
      let s := setStage s m i none
      if x.gen ≠ setGen s i then commitRefused s m i 1
      else match commitCause s i x.value with
        | some c => commitRefused s m i c
        | none =>
          let g := x.gen + 1
          let s := { s with cfg := s.cfg.modify (i - 1) fun c => { c with value := x.value, gen := g },
                            flash := { s.flash with configs := s.flash.configs.set (i - 1) (some (g, x.value)) } }
          let s := tally s 0x02C1 islandForeman 1 i g m 0
          let s := if busy s then s else configBoundary s
          let s := if i = 1 && !busy s && s.dev.stage = 4 then idleIslands s else s
          respond s m St.ok [(32, g)] 0 0)

/-- CONFIG_READ (R353). -/
def execConfigRead (m : Fin 64) (p : Pay Nat) (s : State) : Host.Outcome State Fault Refusal :=
  done (command s m 0x0C03 p fun _ i =>
    if i < 1 ∨ 6 < i then refuse s m St.invalidField (Config.payloadByte 0x0C03 0) else
    let c := at' s.cfg (i - 1) { value := 0, force := 0 }
    respond s m St.ok [(8 * setBytes i, c.value), (32, c.gen), (32, c.forceGen)] 0 0)

/-- CONFIG_DISCARD (R348). -/
def execConfigDiscard (m : Fin 64) (p : Pay Nat) (s : State) : Host.Outcome State Fault Refusal :=
  done (command s m 0x0C04 p fun _ i =>
    if i < 1 ∨ 6 < i then refuse s m St.invalidField (Config.payloadByte 0x0C04 0) else respond (setStage s m i none) m St.ok [] 0 0)

end Sys2Proof.Machine
end

