-- ==== Sys2Proof/Machine/Steps.lean ====
section
/-!
DEFINITION. Steps as they run: start, context switch, completion of instances and of the step, and what the boundary does
(R55, R69, R88, R246, R353).
Choices of the model, by log entry: 31 DEDUCED, 37 DEDUCED, 79 DEDUCED.
-/

namespace Sys2Proof.Machine

/-! ### Start -/

/-- A step's objects take the image's entries; its transient objects begin empty (R231, R246). -/
def beginObjects (s : State) (img : Image) : State :=
  let take (o : Obj) : Obj := match img.entry o.entry.object with | some e => { o with entry := e } | none => o
  let made (c : Context) : List Obj :=
    (img.objects.filter fun e => !c.objects.any fun o => o.entry.object == e.object).map fun e => { entry := e }
  setCtx s img.ctx fun c => { c with objects := c.objects.map take ++ made c }

/-- The parameters and moments of a context, as a step that ends without its update leaves them (R86). -/
def shardObjects (s : State) (ctx : Nat) : List Obj :=
  match ctxAt s ctx with
  | some c => c.objects.filter fun o => o.entry.role == .parameter || o.entry.role == .moment
  | none => []

/-- STEP_START (R69): the oldest admitted step starts when none runs. More groves lost since its admission than its reserve
covers are a fatal error (R79, R80). -/
def execStepStart (s : State) : Host.Outcome State Fault Refusal :=
  done (match s.sched.run, s.sched.queue with
    | none, a :: rest =>
      let stopped := match jobAt s a.job with | some j => j.lost != 0 | none => false
      if a.voidedBehind || stopped || !fabricRuns s then s else
      let s := beginObjects s a.image
      let same := decide (s.sched.current = some a.ctx)
      let r : Run := { adm := a, started := s.time, switched := same, before := shardObjects s a.ctx,
                       scales := (match ctxAt s a.ctx with | some c => c.scales | none => []), groves := inService s }
      let s := idleIslands { s with sched := { s.sched with run := some r, queue := rest } }
      let s := setRecord s a.job a.step fun x => if x.state = 0 then { x with state := 1 } else x
      if overLost s then fatalAs 3 s 0x0213 islandForeman 4 0 (inService s).length 0 else s
    | _, _ => s)

/-- CONTEXT_SWITCH (R246): the first instance of a step of another context; every persistent object the step uses comes back
into T1. -/
def execContextSwitch (s : State) : Host.Outcome State Fault Refusal :=
  done (match s.sched.run with
    | some r =>
      if r.switched then s else
      let back (o : Obj) : Obj :=
        if Role.persistent o.entry.role && usesObject r.adm.image o.entry.object then { o with inT1 := true } else o
      let s := setCtx s r.adm.ctx fun c => { c with objects := c.objects.map back }
      let s := { s with sched := { s.sched with current := some r.adm.ctx } }
      setRun s fun r => { r with switched := true }
    | none => s)

/-! ### Instances -/

/-- Whether an instance is one of an UPDATE. -/
def isUpdateAt (img : Image) (j : InstId) : Bool := match img.descs[j.index]? with | some d => d.opcode == 8 | none => false

/-- What the completion of an instance makes visible, by opcode; with the last UPDATE the gradients' presence bits are cleared
(R180). -/
def completeEffect (s : State) (r : Run) (i : InstId) (d : Desc) : State :=
  match d.opcode with
  | 5 => appendComplete s r i d
  | 8 =>
    let s := (shadowsOf s r.adm.job).foldl (fun s h => inShadow s r.adm.job h fun s => updateComplete s (h.run r) d) (updateComplete s r d)
    if r.adm.image.insts.all fun j => j == i || r.complete.contains j || !isUpdateAt r.adm.image j then clearGradients s r.adm.job r.adm.ctx else s
  | 12 => freeTake s (d.param 0) (takeNumber r (d.param 0) i)
  | _ => s

/-- INSTANCE_COMPLETE (R55): the successors of an executed instance may start. The errors that it met count first; a fatal one
leaves the device in HALT and the instance incomplete. -/
def execInstanceComplete (k : Finished) (s : State) : Host.Outcome State Fault Refusal :=
  done (match s.sched.run with
    | none => s
    | some r =>
      let i := k.inst
      if !r.executed.contains i || r.complete.contains i then s else
      let s := k.met.foldl (meetFault i.index) s
      if s.dev.state = .halt then s else
      let s := match r.adm.image.descs[i.index]? with
        | some d => completeEffect s r i d
        | none => s
      setRun s fun r => { r with complete := i :: r.complete })

/-! ### Completion -/

/-- Whether the running step has nothing left to do. -/
def stepDone (s : State) (r : Run) : Bool :=
  let img := r.adm.image
  r.mismatchEnd ||
  (r.switched && img.insts.all (instDone r) &&
   ((implicitEntries img).isEmpty || r.executed.contains ⟨0, 0, img.descs.length⟩) &&
   ((firstUpdate img).isNone || r.norm.isSome) && (!r.adm.securing || r.secured) &&
   (match ctxAt s r.adm.ctx with | some c => !c.objects.any (writeBackDue r) | none => true))

/-- What is left of the context's objects (R231, R232): transient ones end, T3 homes leave T1, an unfinished update is
dropped. -/
def endObjects (s : State) (r : Run) : State :=
  let leave (o : Obj) : Obj :=
    let o := { o with other := none }
    if o.entry.tier = 2 && usesObject r.adm.image o.entry.object then { o with inT1 := false, t3Copy := true } else o
  setCtx s r.adm.ctx fun c => { c with objects := (c.objects.filter fun o => Role.persistent o.entry.role).map leave }

/-- A step that ends without its update: parameters, moments and VERSIONs as of the step before; no scale entry advances
(R62, R86). -/
def undoUpdate (s : State) (r : Run) : State :=
  let old (o : Obj) : Obj := match r.before.find? fun b => b.entry.object == o.entry.object with
    | some b => { b with inT1 := o.inT1, t3Copy := o.t3Copy, lastUse := o.lastUse }
    | none => o
  setCtx s r.adm.ctx fun c =>
    { c with objects := c.objects.map old, scales := c.scales.map fun e => { e with next := none } }

/-- The scale entries that the step's image names take their next values (R27, R30). -/
def advanceScales (s : State) (r : Run) : State :=
  setCtx s r.adm.ctx fun c => { c with scales := c.scales.zipIdx.map fun e =>
    if e.2 < r.adm.image.scales.length then e.1.advance else e.1 }

/-- The outcome in the step-status record (R88, R349): a void step keeps its state. -/
def closeRecord (s : State) (r : Run) : State :=
  let a := r.adm
  let rec' := s.sched.records.find? fun x => x.job == a.job && x.step == a.step
  let effective := (rec'.map fun x => x.effective).getD 0
  let late := !a.void && !a.drill && decide (effective < s.time)
  let degraded := match jobAt s a.job with | some j => j.degraded | none => false
  let lost := match jobAt s a.job with | some j => j.lost != 0 | none => false
  let s := setRecord s a.job a.step fun x =>
    { x with completed := s.time, residual := r.residual,
             state := if a.void then 3 else 2,
             status := if r.mismatchEnd then (if lost then St.groupLost else St.collectiveMismatch)
               else if a.void then St.promiseVoid else if late then St.promiseMissed
               else if degraded then St.shoringDegraded else St.ok }
  if late then tally s 0x0202 islandForeman 3 a.job (lo32 a.step) (microseconds (s.time - effective)) (lo32 s.time) else s

/-- Keeps the records of the job's last 256 steps that are not in hand (R349). -/
def trimRecords (s : State) (job : Nat) : State :=
  let held (x : StepRec) : Bool := x.job != job || (inHand s).any fun a => a.job == x.job && a.step == x.step
  let old := s.sched.records.filter fun x => !held x
  let drop := old.take (old.length - 256)
  { s with sched := { s.sched with records := s.sched.records.filter fun x => held x || !drop.contains x } }

/-- RETIRE of a port or decoder takes effect (R384). -/
def retireOthers (s : State) : State :=
  (s.islands.retireAsked.filter fun x => 128 ≤ x.1).foldl (fun s x =>
    let s := if islandPort 0 ≤ x.1 then retirePort s (x.1 - islandPort 0)
      else { s with flash := { s.flash with retired := x.1 :: s.flash.retired.filter fun i => i != x.1 } }
    let s := tally s 0x02E4 islandForeman 2 x.1 (bit (bistFlag s x.1)) (inService s).length 0
    let s := { s with islands := { s.islands with retireAsked := s.islands.retireAsked.filter fun y => y != x } }
    respond s x.2 St.ok [] 0 0) s

/-- What the boundary of a step does (R353): takeovers and retirements, closes and pins, configuration, the standby port, and the
idle states of islands without admitted work (R85). -/
def boundary (s : State) (step : Nat) : State :=
  idleIslands (releaseStandby (configBoundary (kvBoundary (retireOthers (groveBoundary s step)))))

/-- The takes of a step give their staging slots up (R264). -/
def endTakes (s : State) (a : Admitted) : State :=
  a.takes.foldl (fun s t => (List.range t.2.2).foldl (fun s k => freeTake s t.1 (t.2.1 + k)) s) s

/-- What is left of the shards that the device carries on: their transient objects end (R231), and a step that ends without its
update leaves them as they were. -/
def endShadows (s : State) (r : Run) : State :=
  setJob s r.adm.job fun j => { j with shadows := j.shadows.map fun h => { h with ctx := { h.ctx with
    objects := (h.ctx.objects.filter fun o => Role.persistent o.entry.role).map fun o => { o with other := none } } } }

/-- The completion of the running step. -/
def finishStep (s : State) (r : Run) : State :=
  let a := r.adm
  let s := if r.mismatchEnd then undoUpdate s r else advanceScales s r
  let s := closeRecord (endTakes (endShadows (endObjects (freeFilters s fun _ => true) r) r) a) r
  let s := setJob s a.job fun j => { j with lastCompleted := some a.step, durations := keepLast 65 (j.durations ++ [s.time]) }
  let s := { s with sched := { s.sched with run := none, current := some a.ctx,
                                            voidedAt := if a.void then s.time else s.sched.voidedAt }, vec := [],
                    fabric := { s.fabric with chunks := s.fabric.chunks.filter fun c => !(c.h.job == a.job && c.h.step == a.step),
                                              retained := s.fabric.retained.filter fun x => x.2.1 != a.ctx } }
  let s := announceNext (trimRecords s a.job) a.job
  boundary (if a.void then s else deviceEvent s 0) a.step

/-- STEP_COMPLETE (R353). -/
def execStepComplete (s : State) : Host.Outcome State Fault Refusal :=
  done (match s.sched.run with
    | some r => if stepDone s r && s.dev.state != .halt then finishStep s r else s
    | none => s)

end Sys2Proof.Machine
end

