-- ==== Sys2Proof/Machine/Flags.lean ====
section
/-!
DEFINITION. The registers of BAR0 with their fields (R319, R322 to R324, R338, R340): what each reads as, and the presence
and interrupt bits that change them.
Choices of the model, by log entry: 9 DESIGN CHOICE, 51 DEDUCED, 56 DEDUCED, 60 DEDUCED, 68 DESIGN CHOICE, 69 DESIGN
CHOICE.
-/

namespace Sys2Proof.Machine

/-! ### Register values -/

/-- DEV_ID (R323). -/
def devIdReg (s : State) : Nat := 0x43 + field 16 0x2716 + field 32 s.board.position.toNat

/-- STATE (R324). -/
def stateReg (s : State) : Nat := s.dev.state.code + field 3 (bit (decide (s.link.width < 4))) + field 16 s.dev.lastFatal

/-- Whole seconds of the presence window that are left, rounded up (R322, R368). -/
def windowSeconds (s : State) : Nat := match s.board.window with
  | some t => ceilDiv (t - s.time) 1000000000
  | none => 0

/-- PRESENCE_STATE (R322). -/
def presenceReg (s : State) : Nat :=
  bit s.board.window.isSome + field 1 (bit s.board.serviceL) + field 8 (windowSeconds s)

/-- Whether class P commands are permitted (R346, R368). -/
def presenceOpen (s : State) : Bool := s.board.window.isSome || s.board.serviceL

/-- Whether the presence lamp is lit (R399): it blinks during the last 5 s of the window. -/
def presenceLamp (s : State) : Bool × Bool :=
  (s.board.pwrGood && presenceOpen s,
   match s.board.window with | some t => s.board.pwrGood && decide (t ≤ s.time + 5000000000) | none => false)

/-- The outputs of R393: SHDN_DONE, PWR_GOOD, and FAULT_L low on HALT or a power-stage fault; while PWR_GOOD is
deasserted every output but FAULT_L is released (R395). -/
def shdnDonePin (s : State) : Bool := s.board.pwrGood && s.board.shdnDone
def faultPin (s : State) : Bool := s.board.faultLatch || (s.board.pwrGood && s.dev.state == .halt)

/-- Whole batches complete in staging, from the oldest take not yet taken (R254). -/
def stagedBatches (x : Stream) : Nat :=
  let full (k : Nat) : Bool := (List.range x.cfg.batch).all fun j => (stagedAt x (k * x.cfg.batch + j)).isSome
  (((List.range x.cfg.ahead).map fun j => x.taken + j).takeWhile full).length

/-- A stream's four registers (R254, R322): producer index, consumer index, staged batches, errors. -/
def sluiceReg (s : State) (st k : Nat) : Nat :=
  let x := at' s.streams st {}
  match k with
  | 0 => x.pi
  | 1 => match x.stream with | some y => y.ci | none => 0
  | 2 => match x.stream with | some y => stagedBatches y | none => 0
  | _ => x.err.toNat

/-- The pending-bit array (R319). -/
def pendingReg (s : State) : Nat := (List.range 64).foldl (fun n v => n + field v (bit (at' s.link.pendingBits v false))) 0

/-- A table entry of MSI-X: address, data and the mask bit. -/
def MsixEntry.word (e : MsixEntry) (half : Nat) : Nat :=
  if half = 0 then e.address.toNat else e.data.toNat + field 32 (bit e.masked)

/-- The 64-bit register at a multiple of 8 (R322 Table 4); a reserved offset and a write-only register read as zero. -/
def reg64 (s : State) (o : Nat) : Nat :=
  if o = 0x0 then devIdReg s
  else if o = 0x8 then stateReg s
  else if o = 0x10 then s.time % 2 ^ 32 + field 32 s.regs.timeHi.toNat
  else if o = 0x18 then s.regs.aditBase.toNat
  else if o = 0x20 then s.regs.intStatus.toNat
  else if o = 0x28 then presenceReg s
  else if o = 0x30 then s.regs.hostDiscards
  else if 0x1000 ≤ o ∧ o < 0x1400 then MsixEntry.word (at' s.link.table ((o - 0x1000) / 16) {}) (o / 8 % 2)
  else if o = 0x1800 then pendingReg s
  else if 0x3000 ≤ o ∧ o < 0x3200 then sluiceReg s ((o - 0x3000) / 32) (o / 8 % 4)
  else 0

/-- The 512 bits of a response header (R340 Table 2). -/
def RespHeader.pack (h : RespHeader) : Nat :=
  h.opcode + field 16 h.status + field 32 h.seq.toNat + field 64 h.ctx + field 80 (bit h.busy) + field 81 (bit h.replay) +
  field 82 (bit h.valid) + field 96 h.length + field 128 h.detail + field 160 h.detail2 + field 192 h.doorbell + field 256 h.done

/-- A response payload as one number, its first field lowest. -/
def Resp.pack : Resp → Nat
  | [] => 0
  | (w, v) :: r => v % 2 ^ w + Resp.pack r * 2 ^ w

/-- The bytes of the response page. -/
def responsePage (b : Mailbox) : List Byte := leBytes 64 (RespHeader.pack b.header) ++ leBytes 4032 (Resp.pack b.payload)

/-- Mailbox and offset within its pair of pages, for an offset of BAR0 (R338). -/
def pageAtOffset (o : Nat) : Option (Nat × Nat) :=
  if 0x100000 ≤ o ∧ o < 0x100000 + 64 * 8192 then some ((o - 0x100000) / 8192, (o - 0x100000) % 8192) else none

/-- One byte of the mailbox pages, a request page below its response page (R338). -/
def pageByte (s : State) (o : Nat) : Byte :=
  match pageAtOffset o with
  | some (m, a) => if a < 4096 then Mem.get (mbxAt s m).request a else at' (responsePage (mbxAt s m)) (a - 4096) 0
  | none => 0

/-- What a read of BAR0 returns (R321, R322): the mailbox pages take any size and alignment, a register only a naturally
aligned access of 4 or 8 bytes. -/
def bar0Bytes (s : State) (o n : Nat) : List Byte :=
  match pageAtOffset o with
  | some _ => (List.range n).map fun i => pageByte s (o + i)
  | none =>
    if (n = 4 ∨ n = 8) ∧ o % n = 0 then (leBytes 8 (reg64 s (o / 8 * 8))).drop (o % 8) |>.take n
    else List.replicate n 0

/-! ### Which windows answer -/

/-- Whether requests of the host reach the device's memory windows: the link is up, the function is in D0, and BAR0 and the
mailboxes are enabled (R317, R374 step 7). -/
def hostReaches (s : State) : Bool := s.link.up && !s.link.d3hot && s.dev.state != .off && decide (3 ≤ s.dev.stage)

/-- BAR2 and BAR4 do not decode on a recovery link (R314). -/
def wideReaches (s : State) : Bool := hostReaches s && decide (4 ≤ s.link.width)

/-- Whether BAR2 and the full map show device addresses (R320, R325). -/
def deviceView (s : State) : Bool := s.dev.state == .start || s.dev.state == .test || s.dev.state == .recovery

/-- HOST_DISCARDS counts an access that had no effect in part or whole (R322, R326, R337). -/
def hostDiscard (s : State) (kind number offset : Nat) : State :=
  tally { s with regs := { s.regs with hostDiscards := capAt (2 ^ 64 - 1) (s.regs.hostDiscards + 1) } }
    0x02B4 islandPcie 1 kind number (lo32 offset) 0

/-! ### The stream rings' producer index -/

/-- Ring entries of a stream (R250, R253). -/
def ringSize (c : StreamCfg) : Nat := 2 ^ (c.ringLog2 + 6)

/-- Reads and discards the entries that have arrived for late positions (R257): SLUICE_CI passes them. -/
def readLate (pi : Nat) (y : Stream) : Stream := { y with ci := max y.ci (min pi y.next) }

/-- A write to SLUICE_PI (R254): one that would place it more than the ring size beyond SLUICE_CI is ignored. -/
def writePi (s : State) (st v : Nat) : State :=
  let x := at' s.streams st {}
  match x.stream with
  | some y =>
    if y.ci + ringSize y.cfg < v then { s with streams := s.streams.set st { x with err := x.err ||| 1#64 } }
    else { s with streams := s.streams.set st { x with pi := v, stream := some (readLate v y) } }
  | none => { s with streams := s.streams.set st { x with pi := v } }

end Sys2Proof.Machine
end

