-- ==== Sys2Proof/Machine/Stacks.lean ====
section
/-!
DEFINITION. Stacked memory below the objects: what a device address holds (R202, R203), patrol scrubbing (R210), margining (R212,
R213) and the stack status record (R224).
Choices of the model, by log entry: 16 DESIGN CHOICE, 17 DESIGN CHOICE, 19 DEDUCED, 47 DESIGN CHOICE, 52 DEDUCED.
-/

namespace Sys2Proof.Machine

/-! ### The frames of a stack (R203, R229, R145) -/

/-- What a run of frames on a stack is for: the system area and other bookings whose bytes the manual does not lay out, the body,
side and index frames of the page pool, the body and side frames of a slot of an object, a placement slot. -/
inductive FrameUse where
  | booked | poolBody | poolSide | poolIndex
  | objBody (ctx n slot : Nat) | objSide (ctx n slot : Nat) | placement (slot : Nat)
  deriving DecidableEq, Repr

/-- The frames of so many bytes that fall to stack k of sixteen. -/
def dealtFrames (bytes k : Nat) : Nat := tilesOn (ceilDiv bytes frameBytes) 16 k

/-- The frames of a persistent object in T1 on stack k: the current slot, the other slot, the bit maps (R229, R230). -/
def objRuns (c k : Nat) (o : Obj) : List (FrameUse × Nat) :=
  let e := o.entry
  let n := tilesOn e.tiles 16 k
  if !(Role.persistent e.role && o.inT1) then [] else
  ((List.range (slotsOf e)).map fun x =>
    [(.objBody c e.object x, bodyFrames e.format n), (.objSide c e.object x, sideFrames e n)]).flatten ++ [(.booked, ceilDiv n 32768)]

/-- The allocations of stack k in order: the system area, the lending, the page pool, the contexts' objects and images, placement
slots, staging areas, generation areas, and what the admitted steps book (R234). -/
def frameRuns (s : State) (k : Nat) : List (FrameUse × Nat) :=
  let units := stackUnits s k
  [(.booked, dealtFrames (2 ^ 32 + 7 * bits (committed s 3) 5 0 * 2 ^ 30) k),
   (.poolBody, units), (.poolSide, ceilDiv units 16), (.poolIndex, ceilDiv units 42)] ++
  (s.ctxs.map fun c => (c.objects.map (objRuns c.number k)).flatten ++ c.images.map fun i => (.booked, dealtFrames i.bytes k)).flatten ++
  (s.mem.placements.map fun p => (.placement p.slot, dealtFrames p.bytes k)) ++
  [(.booked, dealtFrames (s.streams.map fun x => match x.stream with | some y => streamBytes y | none => 0).sum k),
   (.booked, dealtFrames ((s.jobs.map fun j => j.areaBytes).sum + ((inHand s).map fun a => a.booked).sum +
     ((absentBooked s).map fun x => persistentBytes x.2).sum) k)]

/-- The run that holds the j-th frame, with the frame's number in it. -/
def findRun : List (FrameUse × Nat) → Nat → Option (FrameUse × Nat)
  | [], _ => none
  | x :: l, j => if j < x.2 then some (x.1, j) else findRun l (j - x.2)

/-- The number of a frame among a stack's frames, 22 bits. -/
def frameNumber (pch frame : Nat) : Nat := 65536 * pch + frame

/-- The place of a frame in the order of allocation: the Foreman's order, retired frames left out (R208). -/
def framePlace (s : State) (k pch frame : Nat) : Option Nat :=
  let order (n : Nat) : Nat := n ^^^ (Config.frameOrder s.mem.epoch k % 2 ^ 22)
  if s.flash.frames.contains (k, pch, frame) then none
  else
    let j := order (frameNumber pch frame)
    some (j - s.flash.frames.countP fun f => f.1 == k && decide (order (frameNumber f.2.1 f.2.2) < j))

/-- What a frame is allocated to. -/
def frameUse (s : State) (k pch frame : Nat) : Option (FrameUse × Nat) := (framePlace s k pch frame).bind (findRun (frameRuns s k))

/-- Whether any object, page pool or reservation holds a frame. -/
def frameHeld (s : State) (stack pch frame : Nat) : Bool := (frameUse s stack pch frame).isSome

/-! ### Device memory (R202) -/

/-- What holds a byte of device memory: a byte of an object's slot, of a page's key or value part, of a placement slot, or of an
allocation whose bytes the manual does not lay out. -/
inductive Holder where
  | obj (ctx n slot i : Nat)
  | page (number : Nat) (value : Bool) (i : Nat)
  | placement (slot i : Nat)
  | booked
  deriving DecidableEq, Repr

/-- A byte of the body piece of local tile x of an object on stack k, as a byte of the object (R20, R23, R229). -/
def bodyHolder (c n slot k : Nat) (e : ObjEntry) (x off : Nat) : Holder :=
  let t := 16 * x + k
  if e.tiles ≤ t then .booked
  else .obj c n slot (e.slotBase t + sideBytes e + off)

/-- A byte of the side record of local tile x. -/
def sideHolder (c n slot k : Nat) (e : ObjEntry) (x off : Nat) : Holder :=
  let t := 16 * x + k
  if e.tiles ≤ t || decide (sideBytes e ≤ off) then .booked else .obj c n slot (e.slotBase t + off)

/-- The page, and which of its units, that holds unit u of stack k. -/
def unitPage (s : State) (k u : Nat) : Option (Nat × Page × Nat) :=
  (s.kv.pages.zipIdx.findSome? fun p => ((p.1.hbm.zip p.1.units).findIdx? fun x => x == (k, u)).map fun j => (p.2, p.1, j))

/-- A byte of a unit's body or side slot (R145): tile j of its page, two to a BX8 unit and four to a BX4 one. -/
def unitHolder (s : State) (k u : Nat) (side : Bool) (off : Nat) : Holder :=
  match unitPage s k u with
  | none => .booked
  | some (number, p, unit) =>
    let f : Format := if p.bx4 then .bx4 else .bx8
    let piece := if side then 128 else bodyBytes f
    let j := off / piece
    let perUnit := if p.bx4 then 4 else 2
    if perUnit ≤ j then .booked
    else
      let tile := if p.bx4 then j else 2 * unit + j
      .page number (decide (2 ≤ tile)) (tile % 2 * f.tileBytes + (if side then 0 else 128) + off % piece)

/-- What holds the byte at a device address, none for a byte of a frame that nothing holds. -/
def holderOf (s : State) (a : Nat) : Option Holder :=
  let k := addrStack a
  let off := a % frameBytes
  (frameUse s k (addrPch a) (addrFrame a)).map fun x =>
    let entry (c n : Nat) : Option ObjEntry := (objAt s c n).map fun o => o.entry
    match x.1 with
    | .booked => .booked
    | .poolBody => unitHolder s k x.2 false off
    | .poolSide => unitHolder s k (16 * x.2 + off / 1024) true (off % 1024)
    | .poolIndex => .booked
    | .objBody c n slot => match entry c n with
      | none => .booked
      | some e =>
        if e.format = .f32 then bodyHolder c n slot k e (x.2 / 2) (x.2 % 2 * frameBytes + off)
        else
          let b := bodyBytes e.format
          bodyHolder c n slot k e (frameBytes / b * x.2 + off / b) (off % b)
    | .objSide c n slot => match entry c n with
      | none => .booked
      | some e => sideHolder c n slot k e (sidePer e * x.2 + off / sideBytes e) (off % sideBytes e)
    | .placement slot => .placement slot (frameBytes * (16 * x.2 + k) + off)

/-- A byte of device memory; one of an allocation that the manual does not lay out is a free value. -/
def devByte (s : State) (a : Nat) : Byte :=
  match holderOf s a with
  | none => Mem.get s.mem.dram a
  | some (.obj c n slot i) => match objAt s c n with | some o => Mem.get (if slot = 0 then o.data else o.prev) i | none => 0
  | some (.page j v i) => match s.kv.pages[j]? with | some p => Mem.get (if v then p.vals else p.keys) i | none => 0
  | some (.placement slot i) => match s.mem.placements.find? fun p => p.slot == slot with | some p => Mem.get p.data i | none => 0
  | some .booked => BitVec.ofNat 8 (Config.free 44 a)

/-- Writes a byte of device memory. -/
def devWrite (s : State) (a : Nat) (v : Byte) : State :=
  match holderOf s a with
  | none => { s with mem := { s.mem with dram := Mem.set s.mem.dram a v } }
  | some (.obj c n slot i) => setObj s c n fun o =>
      if slot = 0 then { o with data := Mem.set o.data i v } else { o with prev := Mem.set o.prev i v }
  | some (.page j val i) =>
    let put (p : Page) : Page := if val then { p with vals := Mem.set p.vals i v } else { p with keys := Mem.set p.keys i v }
    { s with kv := { s.kv with pages := s.kv.pages.modify j put } }
  | some (.placement slot i) =>
    let put (p : Placement) : Placement := { p with data := Mem.set p.data i v }
    { s with mem := { s.mem with placements := modifyWhere (fun p => p.slot == slot) put s.mem.placements } }
  | some .booked => s

/-- Whether a context, the page pool or a placement slot holds frames on a stack (R213, R230). -/
def stackHeld (s : State) (k : Nat) : Bool :=
  s.ctxs.any (fun c => (c.objects.any fun o => Role.persistent o.entry.role && o.inT1 && decide (k < o.entry.tiles)) ||
    c.images.any fun i => decide (0 < dealtFrames i.bytes k)) ||
  decide (0 < stackUnits s k) || (s.mem.placements.any fun p => decide (0 < dealtFrames p.bytes k))

/-- Zeroes what a stack holds (R380): tile t of a persistent object lies on stack t mod 16 (R230), a page's parts on its
units' stacks. -/
def wipeStack (s : State) (k : Nat) : State :=
  let wipe (o : Obj) : Obj :=
    if o.inT1 && Role.persistent o.entry.role then
      let gone (a : Nat) : Bool := a / o.entry.tileMax % 16 == k
      { o with data := o.data.filter fun c => !gone c.1, prev := o.prev.filter fun c => !gone c.1 }
    else o
  { s with
    ctxs := s.ctxs.map fun c => { c with objects := c.objects.map wipe },
    kv := { s.kv with pages := s.kv.pages.map fun p =>
      { p with keys := if p.hbm.head? == some k then [] else p.keys,
               vals := if p.hbm.getLast? == some k then [] else p.vals } },
    mem := { s.mem with
      dram := s.mem.dram.filter fun c => addrStack c.1 != k,
      placements := s.mem.placements.map fun p => { p with data := p.data.filter fun c => c.1 / frameBytes % 16 != k } } }

/-! ### Patrol scrubbing (R210) -/

/-- One error met by patrol (R208, R210): corrected and written back; an uncorrectable burst in a frame that nothing holds
retires the frame. For a frame in use the manual gives patrol no effect: the next read that serves an agent is fatal. -/
def patrolBurst (stack : Nat) (s : State) (e : BurstError) : State :=
  if s.dev.state = .halt || e.errors.isEmpty || addrStack e.address != stack then s
  else match decodedErrors s e with
  | some c => correctBurst s e (c.map fun x => x.1)
  | none =>
    let pch := addrPch e.address
    let frame := addrFrame e.address
    if frameHeld s stack pch frame then s
    else
      let s := { s with flash := { s.flash with frames := (stack, pch, frame) :: s.flash.frames.filter fun f => f != (stack, pch, frame) } }
      tally s 0x0264 (islandStack stack) 2 pch frame 0 0

/-- Whether a stack's controller runs: not in OFF, HALT, or before its interface is trained (R373, R374). -/
def stackRuns (s : State) : Bool := s.dev.state != .off && s.dev.state != .halt && decide (2 ≤ s.dev.stage)

/-- Whether a slice of a stack is due now (R210). -/
def sliceDue (s : State) (k : Nat) : Bool := sliceDueAt s k s.time

/-- Whether a stack is in self-refresh. -/
def stackAsleep (s : State) (k : Nat) : Bool := islandPower s (islandStack k) == .refresh

/-- PATROL_SCRUB_SLICE (R210): one slice of 16 MiB, the frames whose addresses it is the [35:24] of; the 4,096th ends a pass. -/
def execPatrolScrubSlice (stack : Fin 16) (errs : List BurstError) (s : State) : Host.Outcome State Fault Refusal :=
  done (
    if !stackRuns s || !sliceDue s stack || stackAsleep s stack then s else
    let slice := (at' s.hbm stack.val {}).slice
    let s := (errs.filter fun e => bits e.address 35 24 == slice).foldl (patrolBurst stack.val) s
    { s with hbm := s.hbm.modify stack.val fun x =>
        { x with lastSlice := some s.time, slice := if x.slice = 4095 then 0 else x.slice + 1,
                 passes := if x.slice = 4095 then capAt 65535 (x.passes + 1) else x.passes } })

/-! ### Stack status (R224) -/

/-- STATE of the stack status record: self-refresh, out of service where the stack is stopped, else in service. -/
def stackState (s : State) (k : Nat) : Nat :=
  if !stackRuns s then 3
  else if stackAsleep s k then 1 else 0

/-- The 128 bits of the record. -/
def stackRecord (s : State) (k : Nat) : Nat :=
  let x := at' s.hbm k {}
  stackState s k + field 8 (s.flash.erasures.countP fun e => e.1 == k) + field 16 (at' s.board.hbm k 0 % 256) +
  field 32 x.corrected + field 64 (s.flash.second.countP fun e => e.1 == k) +
  field 80 (s.flash.frames.countP fun f => f.1 == k) + field 96 x.passes

/-- STACK_STATUS (R224): the record and the erasure map. -/
def execStackStatus (m : Fin 64) (p : Pay Nat) (s : State) : Host.Outcome State Fault Refusal :=
  done (command s m 0x0103 p fun _ k =>
    if 15 < k then refuse s m St.invalidField (Config.payloadByte 0x0103 0) else
    respond s m St.ok ((128, stackRecord s k) :: (List.range 64).map fun pch => (8, (erasedAt s k pch).getD 0xFF)) 0 0)

/-! ### Margining (R212, R213) -/

/-- Safe and full limits of a parameter in steps (R212 Table 3). -/
def marginLimits (param : Nat) : Option (Int × Int) :=
  match param with
  | 1 => some (8, 32)
  | 2 => some (8, 32)
  | 3 => some (6, 18)
  | 4 => some (3, 9)
  | _ => none

def marginWithin (q : MarginReq) (limit : Int) : Bool := decide (-limit ≤ q.lo) && decide (q.hi ≤ limit)

/-- The 14 bits of a pin's window in the response; how an empty one is written the manual does not say. -/
def pinBits (s : State) (i : Nat) (w : PinWindow) : Nat :=
  match w with
  | some (a, b) => (a % 128).toNat + 128 * (b % 128).toNat
  | none => Config.free 43 (s.fresh + i) % 16384

/-- A class P command turned away (R346, R356). -/
def presenceRefused (s : State) (m : Nat) (w : Work) : State :=
  refuse (tally s 0x02C2 islandForeman 2 m w.opcode w.seq.toNat 0) m St.presenceRequired 0

/-- Counts a class P command that was executed (measurement 10 of R366). -/
def countClassP (s : State) : State := { s with dev := { s.dev with classP := s.dev.classP + 1 } }

/-- MARGIN (R212): beyond the safe limits it is class P. The stack's contents and its error counts by position are lost. -/
def execMargin (m : Fin 64) (p : Pay MarginReq) (windows : List PinWindow) (s : State) : Host.Outcome State Fault Refusal :=
  done (command s m 0x0A06 p fun w q =>
    match marginLimits q.param with
    | none => refuse s m St.invalidField (Config.payloadByte 0x0A06 0)
    | some (safe, full) =>
      let beyond := !marginWithin q safe
      if beyond && !w.present then presenceRefused s m w else
      let s := if beyond then countClassP s else s
      if 15 < q.stack ∨ q.hi < q.lo ∨ !marginWithin q full then refuse s m St.invalidField (Config.payloadByte 0x0A06 0)
      else if stackHeld s q.stack then refuse s m St.refusedResource 0
      else
        let ws := (List.range 2304).map fun i => at' windows i none
        let s := wipeStack s q.stack
        let s := { s with hbm := s.hbm.modify q.stack fun x => { x with marks := [] } }
        let s := tally s 0x0267 (islandStack q.stack) 1 q.param (q.hi - q.lo + 1).toNat (ws.countP fun x => x.isNone) 0
        let r : Resp := ws.zipIdx.map fun x => (14, pinBits s x.2 x.1)
        respond { s with fresh := s.fresh + 2304 } m St.ok r 0 0)

end Sys2Proof.Machine
end

