-- ==== Sys2Proof/Machine/Windows.lean ====
section
/-!
DEFINITION. The host's accesses: registers and mailbox pages (R321, R322), the Adit (R325 to R327), the full map (R320), placement
space (R328), configuration requests (R315, R374), and MSI-X (R319).
Choices of the model, by log entry: 48 PRESUMED, 51 DEDUCED.
-/

namespace Sys2Proof.Machine

/-- A request that completes as an Unsupported Request, which AER logs (R321). -/
def unsupported (s : State) : State := reply { s with link := { s.link with aer := true } } .unsupported

/-! ### BAR0 -/

/-- A ring of a mailbox's doorbell (R339): while the response header shows BUSY it is discarded and recorded; rings that reach a
latch already set count as one. -/
def ringMailbox (s : State) (m : Nat) : State :=
  let b := mbxAt s m
  if b.header.busy then
    tally s 0x02C0 islandForeman 1 m (Mem.le b.request 4 4) b.header.seq.toNat 0
  else setMbx s m fun b => { b with latch := true }

/-- Puts written bytes into a 64-bit value at a byte offset. -/
def mergeBytes (old : Nat) (at_ : Nat) (data : List Byte) : Nat :=
  leValue ((leBytes 8 old).zipIdx.map fun x => if at_ ≤ x.2 ∧ x.2 < at_ + data.length then at' data (x.2 - at_) 0 else x.1)

/-- A naturally aligned write of 4 or 8 bytes to a register (R5, R322): reserved bits are ignored, W1C bits clear. -/
def writeReg (s : State) (o : Nat) (data : List Byte) : State :=
  let base := o / 8 * 8
  let v := mergeBytes 0 (o % 8) data
  let merged (old : Nat) : Nat := mergeBytes old (o % 8) data
  if base = 0x18 then
    let w := merged s.regs.aditBase.toNat
    { s with regs := { s.regs with aditBase := BitVec.ofNat 64 (bits w 39 16 * 2 ^ 16) } }
  else if base = 0x20 then { s with regs := { s.regs with intStatus := s.regs.intStatus &&& ~~~(BitVec.ofNat 64 v) } }
  else if 0x1000 ≤ base ∧ base < 0x1400 then
    let k := (base - 0x1000) / 16
    let e := at' s.link.table k {}
    let w := merged (MsixEntry.word e (base / 8 % 2))
    let e' : MsixEntry := if base / 8 % 2 = 0 then { e with address := BitVec.ofNat 64 w }
      else { e with data := BitVec.ofNat 32 w, masked := bits w 32 32 == 1 }
    releaseHeld { s with link := { s.link with table := s.link.table.set k e' } }
  else if 0x2000 ≤ base ∧ base < 0x2200 then (if v % 2 = 1 then ringMailbox s ((base - 0x2000) / 8) else s)
  else if 0x3000 ≤ base ∧ base < 0x3200 then
    let st := (base - 0x3000) / 32
    if base / 8 % 4 = 0 then writePi s st (merged (at' s.streams st {}).pi)
    else if base / 8 % 4 = 3 then
      { s with streams := s.streams.modify st fun x => { x with err := x.err &&& ~~~(BitVec.ofNat 64 v) } }
    else s
  else s

/-- A write to mailbox m's pair of pages (R338): the response page takes nothing, and what lies beyond it falls into the next
mailbox's request page. -/
def writePage (s : State) (m a : Nat) (data : List Byte) : State :=
  let s := setMbx s m fun b => { b with request := Mem.store b.request a (data.take (4096 - a)) }
  setMbx s (m + 1) fun b => { b with request := Mem.store b.request 0 ((data.drop (8192 - a)).take 4096) }

/-- REGISTER_WRITE (R5, R321): a write to BAR0. Other than to a mailbox page, an access that is not naturally aligned or not of
4 or 8 bytes is discarded. -/
def execRegisterWrite (offset : Nat) (data : List Byte) (s : State) : Host.Outcome State Fault Refusal :=
  done (
    if !hostReaches s || decide (2 ^ 25 ≤ offset) then unsupported s
    else
      let s := reply s .written
      match pageAtOffset offset with
      | some (m, a) => writePage s m a data
      | none => if (data.length = 4 ∨ data.length = 8) ∧ offset % data.length = 0 then writeReg s offset data else s)

/-- TIME_LO_READ (R7): the read of TIME_LO latches the matching upper half into TIME_HI. -/
def execTimeLoRead (s : State) : Host.Outcome State Fault Refusal :=
  done (
    if !hostReaches s then unsupported s else
    reply { s with regs := { s.regs with timeHi := BitVec.ofNat 32 (s.time / 2 ^ 32) } } (.data (leBytes 4 s.time)))

/-- SLUICE_PI_WRITE (R254). -/
def execSluicePiWrite (st : Fin 16) (v : DWord) (s : State) : Host.Outcome State Fault Refusal :=
  done (if !hostReaches s then unsupported s else reply (writePi s st v.toNat) .written)

/-! ### Windows onto memory -/

/-- Answers a read whose bursts were checked: other bytes where one was miscorrected (R208). -/
def answerRead (s : State) (wrong : Bool) (bs : List Byte) : State :=
  if s.dev.state = .halt then reply s .none
  else if wrong then
    reply { s with fresh := s.fresh + 1 } (.data ((List.range bs.length).map fun i => Config.rsMiscorrect s.fresh i))
  else reply s (.data bs)

/-- An access to device addresses (R202, R325); of an out-of-service stack it is a Completer Abort. Device addresses wrap at
2^40. -/
def deviceAccess (s : State) (a : Nat) (acc : HostAccess) (errs : List BurstError) : State :=
  if stackState s (addrStack (a % 2 ^ 40)) = 3 then reply s .abort else
  match acc with
  | .read n =>
    let bs := (List.range n).map fun i => devByte s ((a + i) % 2 ^ 40)
    let p := readBursts s 4 errs false
    answerRead p.1 p.2 bs
  | .write data => reply (data.zipIdx.foldl (fun s x => devWrite s ((a + x.2) % 2 ^ 40) x.1) s) .written

/-- Counted bytes of a tile in the Adit's view (R229, R326). -/
def viewTile (e : ObjEntry) : Nat := e.tileMax

/-- Bytes of an object's linear view (R326). -/
def viewBytes (e : ObjEntry) : Nat := e.tiles * viewTile e

/-- A byte of the view: the dense tile, then zeros where the counted size is larger. -/
def viewByte (o : Obj) (i : Nat) : Byte :=
  let w := i % viewTile o.entry
  if w < o.entry.format.tileBytes then Mem.get o.dense.data (o.entry.tileBase (i / viewTile o.entry) + w) else 0

/-- Whether a queued or running step uses an object (R327). -/
def objectInHand (s : State) (ctx n : Nat) : Bool :=
  (inHand s).any fun a => a.ctx == ctx && usesObject a.image n

/-- Writes bytes into the view of a mapped object (R327): its current slot, with no change of VERSION, presence or scale. -/
def viewWrite (s : State) (ctx : Nat) (o : Obj) (i : Nat) (data : List Byte) : State :=
  let inside := data.take (viewBytes o.entry - i)
  setObj s ctx o.entry.object fun x => { x with data := Mem.store x.data i inside, t3Copy := false }

/-- The Adit in SERVICE (R326, R327). -/
def mappedAccess (s : State) (i : Nat) (acc : HostAccess) (errs : List BurstError) : State :=
  let found := match s.mem.adit with
    | some (c, n) => (objAt s c n).map fun o => (c, o)
    | none => none
  match found, acc with
  | none, .read n => hostDiscard (reply s (.data (List.replicate n 0))) 1 0xFFFFFFFF i
  | none, .write _ => hostDiscard (reply s .written) 1 0xFFFFFFFF i
  | some (_, o), .read n =>
    let size := viewBytes o.entry
    let bs := (List.range n).map fun j => if i + j < size then viewByte o (i + j) else 0
    let p := readBursts s 4 errs false
    let s := answerRead p.1 p.2 bs
    if size < i + n then hostDiscard s 1 o.entry.object i else s
  | some (c, o), .write data =>
    let s := reply s .written
    if o.entry.zeroRun || objectInHand s c o.entry.object then hostDiscard s 1 o.entry.object i
    else
      let s := viewWrite s c o i data
      if viewBytes o.entry < i + data.length then hostDiscard s 1 o.entry.object i else s

/-- ADIT_ACCESS (R320, R325, R326). -/
def execAditAccess (offset : Nat) (acc : HostAccess) (errs : List BurstError) (s : State) : Host.Outcome State Fault Refusal :=
  done (
    let a := s.regs.aditBase.toNat + offset
    if !wideReaches s || decide (2 ^ 28 ≤ offset) then unsupported s
    else if deviceView s then deviceAccess s a acc errs
    else if s.dev.state = .service then mappedAccess s a acc errs
    else unsupported s)

/-- FULL_MAP_ACCESS (R320): the lower half of BAR4 at 2 TiB. -/
def execFullMapAccess (offset : Nat) (acc : HostAccess) (errs : List BurstError) (s : State) : Host.Outcome State Fault Refusal :=
  done (
    if wideReaches s && s.link.bar4Two && deviceView s && decide (offset < 2 ^ 40) then deviceAccess s offset acc errs
    else unsupported s)

/-- A bound placement slot. -/
def placementAt (s : State) (j : Nat) : Option Placement := s.mem.placements.find? fun p => p.slot == j

/-- An access to placement space (R328), at an offset within a slot. -/
def placementDo (s : State) (j o : Nat) (acc : HostAccess) : State :=
  match placementAt s j, acc with
  | none, .read n => hostDiscard (reply s (.data (List.replicate n 0))) 2 j o
  | none, .write _ => hostDiscard (reply s .written) 2 j o
  | some p, .read n =>
    let bs := (List.range n).map fun i => if o + i < p.bytes then Mem.get p.data (o + i) else 0
    let s := reply s (.data bs)
    if p.bytes < o + n then hostDiscard s 2 j o else s
  | some p, .write data =>
    let put (q : Placement) : Placement := { q with data := Mem.store q.data o (data.take (p.bytes - o)) }
    let s := reply { s with mem := { s.mem with placements := modifyWhere (fun q => q.slot == j) put s.mem.placements } } .written
    if p.bytes < o + data.length then hostDiscard s 2 j o else s

/-- PLACEMENT_ACCESS (R320, R328): the offset within the placement space, of either size of BAR4. -/
def execPlacementAccess (offset : Nat) (acc : HostAccess) (s : State) : Host.Outcome State Fault Refusal :=
  done (
    if wideReaches s && s.dev.state == .service && decide (offset < 2 ^ 40) then
      placementDo s (offset / 2 ^ 30) (offset % 2 ^ 30) acc
    else unsupported s)

/-! ### Configuration space and MSI-X -/

/-- The part of a configuration request that acts in the device (R315, R318, R319, R321, R332). Link Status gives the speed's place in
the list of R314, from 1, and the width above it. -/
def configDo (s : State) : CfgRequest → State
  | .readIdentity => reply s (.data (leBytes 2 Config.vendorId.toNat ++ leBytes 2 0x2716 ++ leBytes 1 0x43 ++ leBytes 3 0x120000))
  | .writeMsix enable mask => reply (releaseHeld { s with link := { s.link with msixEnable := enable, funcMask := mask } }) .written
  | .writeBusMaster on => reply { s with link := { s.link with busMaster := on } } .written
  | .writeBar4 two => reply { s with link := { s.link with bar4Two := two } } .written
  | .writeSizes p r =>
    let okP := p == 128 || p == 256 || p == 512
    let okR := r == 128 || r == 256 || r == 512 || r == 1024 || r == 2048 || r == 4096
    reply { s with link := { s.link with maxPayload := if okP then p else s.link.maxPayload,
                                         maxRead := if okR then r else s.link.maxRead } } .written
  | .readLinkStatus =>
    let codes : List Nat := [2, 5, 8, 16, 32, 64, 128]
    reply s (.data (leBytes 2 ((codes.findIdx? fun x => x == s.link.speed).getD 0 + 1 + field 4 s.link.width)))
  | .readSerial => reply s (.data (leBytes 8 Config.certificateSerial.toNat))
  | .readUnsupported => reply s (.data [BitVec.ofNat 8 (bit s.link.aer)])
  | .clearUnsupported => reply { s with link := { s.link with aer := false } } .written
  | .readOther o => reply s (.data (leBytes 4 (Config.cfgRegister o).toNat))
  | .writeOther _ _ => reply s .written

/-- CONFIG_REQUEST (R374): Configuration Request Retry Status until configuration readiness. -/
def execConfigRequest (req : CfgRequest) (s : State) : Host.Outcome State Fault Refusal :=
  done (
    if !s.link.up || s.dev.state = .off then reply s .none
    else if s.dev.stage < 2 then reply s .retry
    else configDo s req)

/-- UNSUPPORTED_REQUEST (R316): a request addressed to an absent capability. -/
def execUnsupportedRequest (s : State) : Host.Outcome State Fault Refusal := done (unsupported s)

/-- D3HOT_ENTRY (R317): the BARs stop decoding and MSI-X messages are held. -/
def execD3hotEntry (s : State) : Host.Outcome State Fault Refusal :=
  done (if s.link.up && s.dev.state != .off && decide (2 ≤ s.dev.stage) then { s with link := { s.link with d3hot := true } } else s)

/-- D0_RETURN (R317). -/
def execD0Return (s : State) : Host.Outcome State Fault Refusal :=
  done (if s.link.up && s.dev.state != .off then releaseHeld { s with link := { s.link with d3hot := false } } else s)

/-- BUS_MASTER_DISABLE (R332): later requests of the device are host access errors. -/
def execBusMasterDisable (s : State) : Host.Outcome State Fault Refusal :=
  done (if s.link.up && s.dev.state != .off && decide (2 ≤ s.dev.stage) then { s with link := { s.link with busMaster := false } } else s)

/-- Ends a condition that held messages (R319). -/
def endHold (s : State) : HoldEnd → State
  | .unmask v => { s with link := { s.link with table := s.link.table.modify v fun e => { e with masked := false } } }
  | .functionUnmask => { s with link := { s.link with funcMask := false } }
  | .enable => { s with link := { s.link with msixEnable := true } }
  | .powered => s
  | .linked => s

/-- MSIX_HELD_RELEASE (R319): the condition ends, and each vector with a pending message that nothing else holds sends one. -/
def execMsixHeldRelease (cause : HoldEnd) (s : State) : Host.Outcome State Fault Refusal :=
  done (if s.link.up && s.dev.state != .off then releaseHeld (endHold s cause) else s)

/-- DOE_DISCOVERY (R315): the one Data Object Exchange instance lists Discovery and CMA/SPDM. Each data object is the vendor
ID of PCI-SIG, the type, and the next index. -/
def execDoeDiscovery (index : Nat) (s : State) : Host.Outcome State Fault Refusal :=
  done (
    if !s.link.up || s.dev.state = .off then reply s .none
    else if s.dev.stage < 2 then reply s .retry
    else match index with
      | 0 => reply s (.data (leBytes 4 (0x0001 + field 24 1)))
      | 1 => reply s (.data (leBytes 4 (0x0001 + field 16 1)))
      | _ => reply s (.data (leBytes 4 0xFFFF)))

end Sys2Proof.Machine
end

