-- ==== Sys2Proof/Machine/Mailbox.lean ====
section
/-!
DEFINITION. The mailbox protocol (R338 to R346): ringing, reading the latch, the header check, the classification of SEQ, replays,
and checks 3 to 5 of R341 with the command catalogue of R348.
Choices of the model, by log entry: 7 DESIGN CHOICE, 10 DEDUCED, 77 DEDUCED.
-/

namespace Sys2Proof.Machine

/-! ### The command catalogue (R348 Table 3) -/

/-- State sets: bit 0 START, 1 SERVICE, 2 TEST, 3 RECOVERY, 4 HALT. -/
def statesAll : Nat := 31
def statesS : Nat := 2
def statesST : Nat := 6
def statesSTR : Nat := 14
def statesTR : Nat := 12

/-- An opcode's states, none where Table 3 does not list it. -/
def commandStates (op : Nat) : Option Nat :=
  match op with
  | 0x0101 => some statesAll | 0x0102 => some statesAll | 0x0103 => some statesAll | 0x0104 => some 15
  | 0x0201 => some statesSTR | 0x0202 => some statesSTR | 0x0203 => some statesSTR | 0x0204 => some statesAll
  | 0x0301 => some statesSTR | 0x0302 => some statesSTR | 0x0303 => some statesS | 0x0304 => some statesS
  | 0x0305 => some statesS | 0x0306 => some statesS | 0x0307 => some statesS | 0x0308 => some statesS
  | 0x0309 => some statesS | 0x030A => some statesS | 0x030B => some statesS | 0x030C => some statesS
  | 0x0401 => some statesS | 0x0402 => some statesS
  | 0x0501 => some statesS | 0x0502 => some statesS | 0x0503 => some statesS | 0x0504 => some 30
  | 0x0505 => some statesS | 0x0506 => some statesAll
  | 0x0601 => some statesS | 0x0602 => some statesS | 0x0603 => some statesS | 0x0604 => some statesAll
  | 0x0605 => some statesST | 0x0606 => some statesST
  | 0x0701 => some statesS | 0x0702 => some statesS | 0x0703 => some statesS
  | 0x0801 => some statesS | 0x0802 => some statesS | 0x0803 => some statesS | 0x0804 => some statesS
  | 0x0901 => some statesAll
  | 0x0A01 => some statesST | 0x0A02 => some statesAll | 0x0A03 => some statesST | 0x0A04 => some statesTR
  | 0x0A05 => some statesTR | 0x0A06 => some 4
  | 0x0B01 => some statesAll | 0x0B02 => some statesSTR
  | 0x0C01 => some statesSTR | 0x0C02 => some statesSTR | 0x0C03 => some statesAll | 0x0C04 => some statesSTR
  | _ => none

/-- The bit of a state in a state set. -/
def stateBit : DevState → Nat
  | .start => 0 | .service => 1 | .test => 2 | .recovery => 3 | .halt => 4 | .off => 5

/-- The commands of the recovery monitor (R363). -/
def monitorOpcodes : List Nat := [0x0101, 0x0201, 0x0202, 0x0203, 0x0204, 0x0B01, 0x0104]

/-- Check 4 of R341. -/
def stateAllows (s : State) (op states : Nat) : Bool :=
  states.testBit (stateBit s.dev.state) && (!s.dev.monitor || monitorOpcodes.contains op) &&
  !(s.dev.shutStep != 0 && shutOpcodes.contains op)

/-- The commands that are class P whatever their payload (R369). -/
def classPOpcodes : List Nat := [0x0202, 0x0203, 0x0A04, 0x0A05, 0x0B02]

/-! ### Requests -/

/-- What the header of a request page says (R340 Table 1). -/
structure ReqHeader where
  opcode : Nat
  noIrq : Bool
  seq : Word
  ctx : Nat
  length : Nat
  deriving DecidableEq, Repr

/-- The fields of a request header. -/
def reqHeader (page : Mem) : ReqHeader :=
  let v := Mem.le page 0 64
  ⟨bits v 15 0, bits v 16 16 == 1, BitVec.ofNat 32 (bits v 63 32), bits v 79 64, bits v 107 96⟩

/-- Check 1 of R341: the byte offset of the first field that fails. -/
def headerFails (page : Mem) : Option Nat :=
  let v := Mem.le page 0 64
  if bits v 31 17 ≠ 0 then some 2
  else if bits v 95 80 ≠ 0 then some 10
  else if 4032 < bits v 107 96 then some 12
  else if bits v 511 108 ≠ 0 then some 13
  else none

/-- Kinds of SEQ (R343). -/
inductive SeqKind where
  | new | window | gap | old
  deriving DecidableEq, Repr

/-- classify of R343. -/
def classify (h : Option Word) (seq : Word) : SeqKind :=
  match h with
  | none => .new
  | some h =>
    let d := seq - h
    if d = 1#32 then .new
    else if d = 0#32 ∨ 0xFFFFFFC1 ≤ d.toNat then .window
    else if d.toNat ≤ 0x80000000 then .gap
    else .old

/-- Answers without executing or storing (R342): the response header, and the message unless NO_IRQ is set. `opcode` is 0 for
check 1, whose answer never has a payload (R65). -/
def answerOnly (s : State) (m : Nat) (q : ReqHeader) (opcode status detail : Nat) : State :=
  let s := setMbx s m fun b =>
    { b with header := { opcode := q.opcode, status, seq := q.seq, ctx := q.ctx, valid := true, detail, doorbell := s.time,
                         done := s.time, length := Resp.length (refusalPayload opcode s.time) },
             payload := refusalPayload opcode s.time }
  if q.noIrq then s else signal s (mailboxVector m)

/-- A stored response that a resent request matches (R344). -/
def storedMatches (x : Stored) (q : ReqHeader) (crc : Word) : Bool :=
  x.opcode == q.opcode && x.ctx == q.ctx && x.length == q.length && x.crc == crc

/-- A WINDOW request (R344): the stored response again, or DUPLICATE with the stored OPCODE in DETAIL. -/
def replay (s : State) (m : Nat) (q : ReqHeader) (crc : Word) : State :=
  match (mbxAt s m).stored.find? fun x => x.seq == q.seq with
  | none => answerOnly s m q q.opcode St.duplicate 0
  | some x =>
    if storedMatches x q crc then
      let s := setMbx s m fun b => { b with header := { x.header with replay := true }, payload := x.payload }
      if q.noIrq then s else signal s (mailboxVector m)
    else answerOnly s m q q.opcode St.duplicate x.opcode

/-- The start of an executed request: h, the work in progress, and the response header of R340. -/
def beginWork (s : State) (m : Nat) (w : Work) : State :=
  setMbx s m fun b =>
    { b with high := some w.seq, work := some w,
             header := { seq := w.seq, busy := true, valid := b.header.valid } }

/-- Checks 3 to 5 of R341, and the range of CONTEXT (R340); a command that passes stays in progress until its own event
executes it. -/
def checkWork (s : State) (m : Nat) (w : Work) : State :=
  match commandStates w.opcode with
  | none => refuse s m St.unknownCommand 0
  | some states =>
    if !stateAllows s w.opcode states then refuse s m St.wrongState 0
    else if classPOpcodes.contains w.opcode && !w.present then presenceRefused s m w
    else
      let s := if classPOpcodes.contains w.opcode then countClassP s else s
      if (if ctxOpcodes.contains w.opcode then decide (4095 < w.ctx) else w.ctx != 0) then refuse s m St.invalidField 8
      else s

/-- The Foreman reads and clears the latch, at T_D, and copies the whole request page (R339, R341). -/
def takeRequest (s : State) (m : Nat) : State :=
  let b := mbxAt s m
  let page := b.request
  let q := reqHeader page
  let s := setMbx s m fun b => { b with latch := false }
  match headerFails page with
  | some o => answerOnly s m q 0 St.invalidField o
  | none =>
    let crc := crc32c (Mem.bytes page 64 q.length)
    match classify b.high q.seq with
    | .window => replay s m q crc
    | .gap => answerOnly s m q q.opcode St.sequenceGap 0
    | .old => answerOnly s m q q.opcode St.duplicate 0
    | .new =>
      let w : Work := ⟨q.opcode, q.seq, q.ctx, q.noIrq, q.length, crc, s.time, presenceOpen s, page, s.cfg.map fun c => c.gen⟩
      checkWork (beginWork s m w) m w

/-- MBX_DOORBELL (R339): the host's ring of a mailbox, or the Foreman's reading of its latch. -/
def execMbxDoorbell (m : Fin 64) (part : DoorbellPart) (s : State) : Host.Outcome State Fault Refusal :=
  done (match part with
    | .ring => if hostReaches s then reply (ringMailbox s m) .written else unsupported s
    | .take =>
      if (mbxAt s m).latch && !s.dev.foremanDead && decide (3 ≤ s.dev.stage) && s.dev.state != .off then takeRequest s m else s)

end Sys2Proof.Machine
end

