-- ==== Sys2Proof/Machine/Memory.lean ====
section
/-!
DEFINITION. The DEVICE, MEMORY, CONTEXT and PROGRAM commands that answer at once (R348), and the events of host memory (R228,
R332).
Choices of the model, by log entry: 9 DESIGN CHOICE, 43 DEDUCED, 49 DESIGN CHOICE, 50 DESIGN CHOICE, 53 DEDUCED, 65
DESIGN CHOICE, 86 DESIGN CHOICE.
-/

namespace Sys2Proof.Machine

/-! ### DEVICE -/

/-- IDENTIFY (R348): DEV_ID, STATE, the firmware digest, n, node and position. -/
def execIdentify (m : Fin 64) (s : State) : Host.Outcome State Fault Refusal :=
  done (commandBare s m 0x0101 fun _ =>
    respond s m St.ok [(64, devIdReg s), (64, stateReg s), (256, (fwDigest s).toNat), (32, (inService s).length),
      (16, nodeOf s), (16, s.board.position.toNat)] 0 0)

def GroveRole.code : GroveRole → Nat | .inService => 0 | .spare => 1 | .suspect => 2 | .retired => 3
def PowerState.code : PowerState → Nat | .p0 => 0 | .c1 => 1 | .c2 => 2 | .c3 => 3 | .refresh => 0

/-- The 128 bits of a grove status record (R111 Table 6). -/
def groveRecord (s : State) (g : Nat) : Nat :=
  let x := groveAt s g
  GroveRole.code x.role + field 2 (bit x.warm) + field 3 (bit (bistFlag s g)) + field 4 (PowerState.code x.power) +
  field 6 (recentOf x) + field 16 x.mismatches + field 32 x.recomputes + field 64 (x.tiles % 2 ^ 48) + field 112 (capAt 65535 x.sec)

/-- GROVE_STATUS (R111): one grove, or all of them. -/
def execGroveStatus (m : Fin 64) (p : Pay Nat) (s : State) : Host.Outcome State Fault Refusal :=
  done (command s m 0x0102 p fun _ g =>
    if g = 0xFFFF then respond s m St.ok ((List.range 128).map fun k => (128, groveRecord s k)) 0 0
    else if g < 128 then respond s m St.ok [(128, groveRecord s g)] 0 0
    else refuse s m St.invalidField (Config.payloadByte 0x0102 0))

/-! ### Host regions (R331) -/

def regionAt (s : State) (k : Nat) : Option Region := s.mem.regions.find? fun r => r.number == k

/-- The region that holds a bus address. -/
def regionOf (s : State) (a : Nat) : Option Region :=
  s.mem.regions.find? fun r => decide (r.address ≤ a) && decide (a < r.address + r.bytes)

/-- Whether the range of a registered region has these bytes whole. -/
def insideRegions (s : State) (a n : Nat) : Bool :=
  s.mem.regions.any fun r => decide (r.address ≤ a) && decide (a + n ≤ r.address + r.bytes)

/-- REGISTER_HOST (R331). Which free number a region gets the manual leaves to the Foreman. -/
def execRegisterHost (m : Fin 64) (p : Pay HostRange) (s : State) : Host.Outcome State Fault Refusal :=
  done (command s m 0x0301 p fun _ x =>
    let overlap := s.mem.regions.any fun r => decide (r.address < x.address + x.bytes) && decide (x.address < r.address + r.bytes)
    if x.address % 4096 ≠ 0 then refuse s m St.invalidField (Config.payloadByte 0x0301 0)
    else if x.bytes < 4096 ∨ 2 ^ 40 < x.bytes ∨ 2 ^ 64 < x.address + x.bytes then refuse s m St.invalidField (Config.payloadByte 0x0301 2)
    else if overlap then refuse s m St.invalidField (Config.payloadByte 0x0301 0)
    else if 256 ≤ s.mem.regions.length then refuse s m St.refusedResource 0
    else
      let unused := (List.range 256).filter fun k => (regionAt s k).isNone
      let v := freshValue s 50
      let k := at' unused (v.1 % unused.length) 0
      let s := v.2
      respond { s with mem := { s.mem with regions := s.mem.regions ++ [⟨k, x.address, x.bytes⟩] } } m St.ok [(32, k)] 0 0)

/-- Whether an object's tiles in T3 use a region: the only region surely does; among several the Foreman chose. -/
def t3Uses (s : State) (k ctx object : Nat) : Bool :=
  s.mem.regions.length == 1 || Config.free 51 (k + 256 * (object + 2 ^ 32 * ctx)) % 2 == 1

/-- Whether anything uses a region (R331). -/
def regionBusy (s : State) (r : Region) : Bool :=
  (s.ctxs.any fun c => c.objects.any fun o =>
    (o.t3Copy || (Role.persistent o.entry.role && o.entry.tier == 2)) && t3Uses s r.number c.number o.entry.object) ||
  (s.streams.any fun x => match x.stream with
    | some y => decide (r.address ≤ y.cfg.ringAddr) && decide (y.cfg.ringAddr < r.address + r.bytes)
    | none => false) ||
  (s.kv.spills.any fun x => x.region == r.number) ||
  (s.jobs.any fun j => match j.shoring with | some c => c.hostCopy && c.hostRegion == r.number | none => false)

/-- UNREGISTER_HOST (R331). -/
def execUnregisterHost (m : Fin 64) (p : Pay Nat) (s : State) : Host.Outcome State Fault Refusal :=
  done (command s m 0x0302 p fun _ k =>
    match regionAt s k with
    | none => refuse s m St.invalidField (Config.payloadByte 0x0302 0)
    | some r =>
      if regionBusy s r then refuse s m St.regionBusy 0
      else respond { s with mem := { s.mem with regions := s.mem.regions.filter fun x => x.number != k } } m St.ok [] 0 0)

/-! ### The Adit's mapping (R326) -/

/-- Brings an evicted object back into T1, with evictions where room is needed (R234, R236); an object that the steps in hand use
has its room booked already (R74). -/
def bringBack (s : State) (ctx : Nat) (o : Obj) : Option State :=
  if o.inT1 then some s
  else (if (absentBooked s).any fun x => x.1 == ctx && x.2.object == o.entry.object then some s
    else room s (persistentBytes o.entry)).map fun s => setObj s ctx o.entry.object fun x => { x with inT1 := true }

/-- ADIT_MAP (R326): a later mapping replaces the earlier. -/
def execAditMap (m : Fin 64) (p : Pay Nat) (s : State) : Host.Outcome State Fault Refusal :=
  done (command s m 0x0303 p fun w n =>
    if (ctxAt s w.ctx).isNone then refuse s m St.noContext 0 else
    match objAt s w.ctx n with
    | none => refuse s m St.invalidField (Config.payloadByte 0x0303 0)
    | some o =>
      if !Role.persistent o.entry.role then refuse s m St.invalidField (Config.payloadByte 0x0303 0)
      else match bringBack s w.ctx o with
        | none => refuse s m St.refusedResource 0
        | some s =>
          respond { s with mem := { s.mem with adit := some (w.ctx, n) } } m St.ok [(64, viewBytes o.entry)] 0 0)

/-- ADIT_UNMAP (R326). -/
def execAditUnmap (m : Fin 64) (p : Pay Nat) (s : State) : Host.Outcome State Fault Refusal :=
  done (command s m 0x0304 p fun w n =>
    if (ctxAt s w.ctx).isNone then refuse s m St.noContext 0
    else if s.mem.adit ≠ some (w.ctx, n) then refuse s m St.invalidField (Config.payloadByte 0x0304 0)
    else
      let size := match objAt s w.ctx n with | some o => viewBytes o.entry | none => 0
      respond { s with mem := { s.mem with adit := none } } m St.ok [(64, size)] 0 0)

/-! ### Placement slots (R328, R330) -/

/-- PLACE_BIND (R328): slot and bytes. -/
def execPlaceBind (m : Fin 64) (p : Pay (Nat × Nat)) (s : State) : Host.Outcome State Fault Refusal :=
  done (command s m 0x0305 p fun _ x =>
    if 1023 < x.1 ∨ (placementAt s x.1).isSome then refuse s m St.invalidField (Config.payloadByte 0x0305 0)
    else if x.2 < 4096 ∨ 2 ^ 30 < x.2 ∨ x.2 % 4096 ≠ 0 then refuse s m St.invalidField (Config.payloadByte 0x0305 1)
    else match room s (ceilDiv x.2 frameBytes * frameBytes) with
      | none => refuse s m St.refusedResource 0
      | some s => respond { s with mem := { s.mem with placements := s.mem.placements ++ [⟨x.1, x.2, []⟩] } } m St.ok [] 0 0)

/-- Ring positions between SLUICE_CI and SLUICE_PI whose entries the device has not read. -/
def unreadEntries (s : State) : Nat :=
  (s.streams.map fun x => match x.stream with | some y => x.pi - y.ci | none => 0).sum

/-- PLACE_UNBIND (R330): refused while an unread ring entry of an open stream names the slot. Those entries stand in host
memory, which the device reads here. -/
def execPlaceUnbind (m : Fin 64) (p : Pay Nat) (s : State) : Host.Outcome State Fault Refusal :=
  done (command s m 0x0306 p fun _ j =>
    if (placementAt s j).isNone then refuse s m St.invalidField (Config.payloadByte 0x0306 0)
    else
      let v := freshValue s 52
      if 0 < unreadEntries s && v.1 % 2 == 1 then refuse v.2 m St.regionBusy 0
      else
        let s := v.2
        respond { s with mem := { s.mem with placements := s.mem.placements.filter fun q => q.slot != j } } m St.ok [] 0 0)

/-- T3_PROBE (R228): region and seconds; the rates are what the host's memory and root complex sustain. -/
def execT3Probe (m : Fin 64) (p : Pay (Nat × Nat)) (out back : Nat) (s : State) : Host.Outcome State Fault Refusal :=
  done (command s m 0x0307 p fun _ x =>
    if (regionAt s x.1).isNone then refuse s m St.invalidField (Config.payloadByte 0x0307 0)
    else if x.2 < 1 ∨ 3600 < x.2 then refuse s m St.invalidField (Config.payloadByte 0x0307 1)
    else respond s m St.ok [(32, out), (32, back)] 0 0)

/-- SCALE_READ (R24, R348): first entry and count. -/
def execScaleRead (m : Fin 64) (p : Pay (Nat × Nat)) (s : State) : Host.Outcome State Fault Refusal :=
  done (command s m 0x0308 p fun w x =>
    match ctxAt s w.ctx with
    | none => refuse s m St.noContext 0
    | some c =>
      if x.2 < 1 ∨ 125 < x.2 then refuse s m St.invalidField (Config.payloadByte 0x0308 1)
      else if c.scales.length < x.1 + x.2 then refuse s m St.invalidField (Config.payloadByte 0x0308 0)
      else respond s m St.ok (((c.scales.drop x.1).take x.2).map fun e => (256, ScaleEntry.pack e)) 0 0)

/-! ### Contexts (R246, R247) -/

/-- CONTEXT_CREATE (R246). -/
def execContextCreate (m : Fin 64) (s : State) : Host.Outcome State Fault Refusal :=
  done (commandBare s m 0x0401 fun w =>
    if (ctxAt s w.ctx).isSome then refuse s m St.contextExists 0
    else respond { s with ctxs := s.ctxs ++ [{ number := w.ctx }] } m St.ok [] 0 0)

/-- CONTEXT_RELEASE (R247): objects, sequences, spilled pages, images, cached schedules and an Adit mapping of the context go. -/
def execContextRelease (m : Fin 64) (s : State) : Host.Outcome State Fault Refusal :=
  done (commandBare s m 0x0402 fun w =>
    if (ctxAt s w.ctx).isNone then refuse s m St.noContext 0
    else if ctxBusy s w.ctx then refuse s m St.contextBusy 0
    else
      let s := closeContext s w.ctx
      let s := { s with kv := { s.kv with spills := s.kv.spills.filter fun x => x.ctx != w.ctx },
                        ctxs := s.ctxs.filter fun c => c.number != w.ctx,
                        mem := { s.mem with adit := match s.mem.adit with
                          | some (c, n) => if c = w.ctx then none else some (c, n)
                          | none => none } }
      let s := { s with sched := { s.sched with current := if s.sched.current == some w.ctx then none else s.sched.current } }
      respond s m St.ok [] 0 0)

/-! ### Images -/

/-- LOAD_IMAGE's payload (R415): REGION, OFFSET, IMAGE_BYTES. -/
def loadPayload (page : Mem) : Nat × Nat × Nat := (Mem.le page 64 4, Mem.le page 72 8, Mem.le page 80 4)

/-- Check 6 of LOAD_IMAGE (R415): the byte offset of the failing field. -/
def loadBad (s : State) (w : Work) : Option Nat :=
  let q := loadPayload w.page
  if w.length ≠ 24 then some 12
  else if Mem.le w.page 68 4 ≠ 0 then some 68
  else if Mem.le w.page 84 4 ≠ 0 then some 84
  else match regionAt s q.1 with
    | none => some 64
    | some r =>
      if r.bytes ≤ q.2.1 then some 72
      else if q.2.2 = 0 ∨ q.2.2 % 128 ≠ 0 ∨ 2 ^ 28 < q.2.2 ∨ r.bytes < q.2.1 + q.2.2 then some 80
      else none

/-- A host access error's record (R337); an address in no region is given as region 0xFFFFFFFF. -/
def accessError (s : State) (cause address : Nat) : State :=
  let region := match regionOf s address with | some r => r.number | none => 0xFFFFFFFF
  tally s 0x02B3 islandPcie 2 cause region (lo32 address) (hi32 address)

/-- The cause of an access error: with Bus Master Enable clear no request is issued (R332). -/
def errorCause (s : State) (cause : Nat) : Nat := if s.link.busMaster then cause else 5

/-- The image of the context's same job, which a new one replaces. -/
def withoutImage (s : State) (ctx job : Nat) : State :=
  setCtx s ctx fun c => { c with images := c.images.filter fun i => i.job != job }

/-- Validates and keeps a fetched image (R45, R231, R234). -/
def keepFetched (s : State) (m : Nat) (w : Work) (b : List Byte) (c : Context) : State :=
  let n := (inService s).length
  match imageBad n b w.ctx b.length c.objects with
  | some x => respond s m x.2.2 (imageWord n (parseImage b) x) (imgDetail x) 0
  | none =>
    let img := parseImage b
    match room (withoutImage s w.ctx img.job) (loadNeed c img) with
    | none => refuse s m St.refusedResource 0
    | some s => respond (publishPlan (keepImage s img) img) m St.ok [] 0 0

/-- LOAD_IMAGE (R415): the checks before the fetch, the fetch, which waits while the link is down, and R45. -/
def execLoadImage (m : Fin 64) (fetch : Fetch) (s : State) : Host.Outcome State Fault Refusal :=
  done (match workOf s m 0x0501 with
    | none => s
    | some w =>
      let q := loadPayload w.page
      match loadBad s w, ctxAt s w.ctx with
      | some o, _ => refuse s m St.invalidField o
      | none, none => refuse s m St.noContext 0
      | none, some c =>
        let address := match regionAt s q.1 with | some r => r.address + q.2.1 | none => 0
        if !s.link.busMaster then refuse (accessError s 5 address) m St.invalidField 64
        else if !s.link.up then s
        else match fetch with
          | .error cause => refuse (accessError s cause address) m St.invalidField 64
          | .bytes b => if b.length = q.2.2 then keepFetched s m w b c else s)

/-- UNLOAD_IMAGE (R348). -/
def execUnloadImage (m : Fin 64) (p : Pay Nat) (s : State) : Host.Outcome State Fault Refusal :=
  done (command s m 0x0502 p fun w job =>
    if (ctxAt s w.ctx).isNone then refuse s m St.noContext 0
    else if (imageOf s w.ctx job).isNone then refuse s m St.invalidField (Config.payloadByte 0x0502 0)
    else if (inHand s).any fun a => a.ctx == w.ctx && a.job == job then refuse s m St.contextBusy 0
    else
      let s := withoutImage s w.ctx job
      respond (setCtx s w.ctx fun c => { c with cache := c.cache.filter fun x => x.1 != job }) m St.ok [] 0 0)

/-! ### Steps and jobs -/

/-- The 512 bits of a step-status record (R349 Table 4). -/
def StepRec.pack (r : StepRec) : Nat :=
  r.step + field 64 r.job + field 96 r.ctx + field 112 r.state + field 128 r.status + field 144 (bit r.skipped) +
  field 145 r.skipCause + field 148 (bit r.readmitted) + field 149 (bit r.drill) + field 160 r.nC + field 192 r.dropped +
  field 224 r.residual.toNat + field 256 r.promise + field 320 r.completed + field 384 r.peerWait + field 448 r.effective

/-- STEP_STATUS (R349): job and step. -/
def execStepStatus (m : Fin 64) (p : Pay (Nat × Nat)) (s : State) : Host.Outcome State Fault Refusal :=
  done (command s m 0x0504 p fun _ x =>
    match s.sched.records.find? fun r => r.job == x.1 && r.step == x.2 with
    | some r => respond s m St.ok [(512, StepRec.pack r)] 0 0
    | none => refuse s m St.noRecord 0)

/-- Whether an entry names an UPDATE of the image and its values pass R194. -/
def paramEntryOk (img : Image) (e : ParamEntry) : Bool :=
  match img.descs[e.index]? with
  | some d => d.opcode == 8 && !updateParamsBad (d.param 0) e.lr e.coef1 e.coef2 e.decay e.tau
  | none => false

/-- An UPDATE descriptor with the values of an entry (R186 Table 1's parameter words). -/
def replaceParams (d : Desc) (e : ParamEntry) : Desc :=
  { d with params := d.params.zipIdx.map fun x => match x.2 with
      | 1 => e.lr.toNat | 2 => e.coef1.toNat | 3 => e.coef2.toNat | 4 => e.decay.toNat | 5 => e.tau.toNat | _ => x.1 }

/-- An image with the entries applied in order. -/
def replaceAll (img : Image) (es : List ParamEntry) : Image :=
  { img with descs := es.foldl (fun l e => l.modify e.index fun d => replaceParams d e) img.descs }

/-- UPDATE_PARAMS (R195): all of it or nothing; steps admitted earlier keep their values. -/
def execUpdateParams (m : Fin 64) (p : Pay (Nat × List ParamEntry)) (s : State) : Host.Outcome State Fault Refusal :=
  done (command s m 0x0505 p fun w x =>
    if (ctxAt s w.ctx).isNone then refuse s m St.noContext 0 else
    match imageOf s w.ctx x.1 with
    | none => refuse s m St.invalidField (Config.payloadByte 0x0505 0)
    | some img =>
      if 100 < x.2.length ∨ !x.2.all (paramEntryOk img) then refuse s m St.invalidField (Config.payloadByte 0x0505 1)
      else
        respond (setCtx s w.ctx fun c =>
          { c with images := modifyWhere (fun i => i.job == x.1) (fun i => replaceAll i x.2) c.images }) m St.ok [] 0 0)

/-- The ten counts of R348, in its order. -/
def Counters.resp (c : Counters) : Resp :=
  [(64, c.skip1), (64, c.skip2), (64, c.skip3), (64, c.skip4), (64, c.clamps), (64, c.vecFaults), (64, c.discards),
   (64, c.dropped), (64, c.mismatches), (64, c.late)]

/-- JOB_COUNTERS (R348). -/
def execJobCounters (m : Fin 64) (p : Pay Nat) (s : State) : Host.Outcome State Fault Refusal :=
  done (command s m 0x0506 p fun _ j =>
    respond s m St.ok (Counters.resp (((jobAt s j).map fun x => x.counters).getD {})) 0 0)

/-- Whether an item is what a shortfall names: an instance of a descriptor, or a move of an object that the Foreman derives. -/
def shortfallOf (index : Option Nat) (object : Nat) : Item → Bool
  | .inst i => index == some i.index
  | .fetch n | .writeBack n | .out n _ | .back n _ => index.isNone && n == object
  | _ => false

/-- How far a T3 transfer of the running step lags behind its scheduled end, which peer waits extend (R70): none where it is over
or not yet due. -/
def t3Lag (s : State) (index : Option Nat) (object : Nat) : Option Nat :=
  s.sched.run.bind fun r =>
    let late (p : Placed) : Nat := s.time - ((Frac.ofNat (r.adm.t0 + r.adm.wake + r.adm.extension + r.peerWait)).add p.fin).ceil
    (r.adm.plan.find? fun p => shortfallOf index object p.item && (p.paths.any fun x => x.1.tier == 3) &&
      !itemDone s r p.item && late p != 0).map late

/-- T3_SHORTFALL (R228): a T3 transfer that has not completed by its scheduled end, with the bytes outstanding. The lag is that of the
admitted timeline, which the operand only repeats. -/
def execT3Shortfall (bytes _lag : Nat) (index : Option Nat) (object : Nat) (s : State) : Host.Outcome State Fault Refusal :=
  done (match t3Lag s index object with
    | some lag => fatal s 0x0271 islandForeman bytes (lo32 lag) (index.getD 0xFFFFFFFF) object
    | none => s)

end Sys2Proof.Machine
end

