-- ==== Sys2Proof/Machine/Sluice.lean ====
section
/-!
DEFINITION. The Sluice input pipeline (R250 to R267): streams, sample checks, budgets, substitutes, augmentation and staging; and
host access errors (R332), one of which rejects a sample.
Choices of the model, by log entry: 5 DESIGN CHOICE, 53 DEDUCED, 60 DEDUCED.
-/

namespace Sys2Proof.Machine

/-! ### Opening (R250, R251, R262) -/

/-- A stream configuration record (R250 Table 1) at an offset of the request page, with its augmentation list. -/
def streamCfg (page : Mem) : StreamCfg :=
  let v := Mem.le page 64 128
  { kind := bits v 5 4, rawFormat := bits v 7 6, units := BitVec.ofNat 16 (bits v 23 8), outFormat := bits v 27 24,
    rawExp := (BitVec.ofNat 8 (bits v 35 28)).toInt, batch := bits v 51 36, ahead := bits v 55 52, ringLog2 := bits v 59 56,
    maxX := bits v 79 64, maxY := bits v 95 80, maxZ := bits v 111 96, minZ := bits v 127 112, outX := bits v 143 128,
    outY := bits v 159 144, outZ := bits v 175 160, outC := bits v 183 176, ratioMax := bits v 191 184,
    meanCost := bits v 223 192, budgetMult := bits v 231 224, seed := BitVec.ofNat 128 (bits v 383 256),
    ringAddr := bits v 447 384, startIndex := bits v 511 448,
    augment := (List.range 8).map fun j =>
      let e := Mem.le page (192 + 16 * j) 16
      ⟨bits e 7 0, BitVec.ofNat 32 (bits e 63 32), BitVec.ofNat 32 (bits e 95 64), BitVec.ofNat 32 (bits e 127 96)⟩ }

/-- The augmentation operations that act: those before the first END. -/
def activeOps (c : StreamCfg) : List AugOp := c.augment.takeWhile fun a => a.op != 0

/-- Byte offset in the page of a bit of the record. -/
def cfgByte (bit_ : Nat) : Nat := 64 + bit_ / 8

/-- The fields of a record that fail (R251), by byte offset, in the record's order. -/
def openChecks (page : Mem) (c : StreamCfg) : List (Nat × Bool) :=
  let v := Mem.le page 64 128
  let wrong := if c.kind = 0 then bits c.units.toNat 15 8 != 0 else bits c.units.toNat 7 0 != 0
  [(cfgByte 4, c.kind == 3), (cfgByte 6, c.rawFormat == 3), (cfgByte 8, c.units == 0 || wrong), (cfgByte 24, decide (5 < c.outFormat)),
   (cfgByte 36, c.batch == 0 || decide (4096 < c.batch)), (cfgByte 52, c.ahead == 0), (cfgByte 56, decide (10 < c.ringLog2)),
   (cfgByte 60, bits v 63 60 != 0), (cfgByte 64, c.maxX == 0 || decide (4096 < c.maxX)),
   (cfgByte 80, c.maxY == 0 || decide (4096 < c.maxY) || (c.kind == 0 && decide (2304 < c.maxY))), (cfgByte 96, c.maxZ == 0),
   (cfgByte 112, c.minZ == 0 || decide (c.maxZ < c.minZ)), (cfgByte 128, c.outX == 0 || decide (c.maxX < c.outX)),
   (cfgByte 144, c.outY == 0 || decide (c.maxY < c.outY)), (cfgByte 160, c.outZ == 0 || decide (c.maxZ < c.outZ)),
   (cfgByte 176, c.outC == 0 || (c.kind == 0 && c.outC != 1 && c.outC != 3)), (cfgByte 184, c.ratioMax == 0),
   (cfgByte 192, c.meanCost == 0 || decide (1000000 < c.meanCost)),
   (cfgByte 224, c.budgetMult == 0 || decide (64 < c.budgetMult)), (cfgByte 232, bits v 255 232 != 0),
   (cfgByte 384, c.ringAddr % 4096 != 0), (cfgByte 512, bits v 1023 512 != 0)]

/-- Whether the augmentation list breaks R262; reserved bits are tested in all eight entries (R4). -/
def augmentBad (page : Mem) (c : StreamCfg) : Bool :=
  let ops := activeOps c
  ((List.range 8).any fun j => bits (Mem.le page (192 + 16 * j) 16) 31 8 != 0) ||
  (ops.any fun a => decide (5 < a.op)) || ([1, 2, 3].any fun o => decide (1 < ops.countP fun a => a.op == o))

/-- OPEN (R250, R251). -/
def execSluiceOpen (m : Fin 64) (s : State) : Host.Outcome State Fault Refusal :=
  done (match workOf s m 0x0801 with
    | none => s
    | some w =>
      let c := streamCfg w.page
      let st := Mem.le w.page 64 1 % 16
      if w.length ≠ 256 then refuse s m St.invalidField 12
      else match (openChecks w.page c).find? fun x => x.2 with
        | some x => refuse s m St.invalidField x.1
        | none =>
          if augmentBad w.page c then refuse s m St.invalidField 192
          else if !insideRegions s c.ringAddr (32 * ringSize c) then refuse s m St.invalidField (cfgByte 384)
          else if (streamAt s st).isSome then refuse s m St.streamBusy 0
          else if s.streams.any (fun x => match x.stream with | some y => y.cfg.units &&& c.units != 0 | none => false) then
            refuse s m St.commitConflict 0
          else match room s (stagingBytes c) with
            | none => refuse s m St.refusedResource 0
            | some s => respond { s with streams := s.streams.set st { stream := some { cfg := c } } } m St.ok [] 0 0)

/-- Whether a queued or running step holds takes of a stream (R252, R263). -/
def streamTaken (s : State) (st : Nat) : Bool := (inHand s).any fun a => a.takes.any fun t => t.1 == st

/-- CLOSE (R252). -/
def execSluiceClose (m : Fin 64) (p : Pay Nat) (s : State) : Host.Outcome State Fault Refusal :=
  done (command s m 0x0802 p fun _ st =>
    if 15 < st then refuse s m St.invalidField (Config.payloadByte 0x0802 0)
    else if (streamAt s st).isNone then refuse s m St.streamClosed 0
    else if streamTaken s st then refuse s m St.streamBusy 0
    else respond { s with streams := s.streams.modify st fun x => { x with stream := none } } m St.ok [] 0 0)

/-! ### Checks of a sample (R253, R258 to R260) -/

/-- Whether the list crops. -/
def crops (c : StreamCfg) : Bool := (activeOps c).any fun a => a.op == 1

/-- Reason 5: SLOT unbound, or bytes outside the region (R260). -/
def sourceBad (s : State) (e : RingEntry) : Bool :=
  if e.source = 1 then
    match placementAt s e.slot with | some p => decide (p.bytes < e.address + e.length) | none => true
  else !insideRegions s e.address e.length

/-- Reason 1: dimensions. -/
def dimensionsBad (c : StreamCfg) (x y z ch : Nat) : Bool :=
  decide (c.maxX < x) || decide (c.maxY < y) || decide (c.maxZ < z) || decide (z < c.minZ) || ch != c.outC ||
  (if crops c then decide (x < c.outX) || decide (y < c.outY) else x != c.outX || y != c.outY)

/-- What an AV1 decoder supports (R258). -/
def pictureSupported (p : Picture) : Bool :=
  p.profile == 0 && (p.depth == 8 || p.depth == 10) && !p.monochrome && p.subsampled && p.point == 0

/-- The header of a raw or Seam sample as a number, and a field of it (R259). -/
def headField (bs : List Byte) (hi lo : Nat) : Nat := bits (leValue (bs.take 32)) hi lo

/-- Whether the header's magic, KIND, raw format and reserved fields are what the stream takes. -/
def headOk (c : StreamCfg) (bs : List Byte) : Bool :=
  headField bs 31 0 == 0x534C5331 && headField bs 33 32 == c.kind && headField bs 35 34 == c.rawFormat &&
  headField bs 63 44 == 0 && headField bs 255 128 == 0

/-- The tensor that a header declares; of a Seam sample its format is that of its first tile. -/
def sampleEntry (c : StreamCfg) (bs : List Byte) : ObjEntry :=
  { object := 0, format := if c.kind = 2 then Format.ofCode (bits (leValue ((bs.drop 32).take 2)) 10 8)
      else if c.rawFormat = 0 then .f32 else .f16,
    rank := 5, role := .other, zeroRun := false, tier := 0, compress := false, narrow := false, pin := false, readonly := false,
    recompute := false, age := 0, scale := 0,
    dims := [headField bs 79 64, headField bs 95 80, headField bs 111 96, headField bs 127 112, 1] }

/-- The dense size that a header declares (R260). -/
def denseSize (c : StreamCfg) (bs : List Byte) : Nat :=
  let e := sampleEntry c bs
  if c.kind = 2 then e.tiles * e.format.tileBytes else e.elements * (e.format.width / 8)

/-- What the first bytes say of the content: reason 3, 1 or 2. -/
def contentReason (c : StreamCfg) (e : RingEntry) : Content → Option Nat
  | .av1 p =>
    if c.kind != 0 || !pictureSupported p then some 3
    else if decide (c.maxX < p.maxWidth) || decide (c.maxY < p.maxHeight) then some 1
    else if 2 * c.ratioMax * e.length < 3 * p.maxWidth * p.maxHeight * c.minZ * (if p.depth = 10 then 2 else 1) then some 2
    else none
  | .coded bs =>
    if c.kind = 0 then some 4
    else if !headOk c bs then some 3
    else if dimensionsBad c (headField bs 79 64) (headField bs 95 80) (headField bs 111 96) (headField bs 127 112) then some 1
    else if c.ratioMax * e.length < denseSize c bs then some 2
    else none

/-- What a fetch brings: from a placement slot the bytes that the slot holds (R329), from host memory what the event brings. -/
def fetched (s : State) (e : RingEntry) (x : Sample) : Sample :=
  match placementAt s e.slot, x.content with
  | some p, .coded _ => if e.source = 1 then { x with content := .coded (Mem.bytes p.data e.address e.length) } else x
  | _, _ => x

/-- The reason for which the first bytes reject a sample (R260). -/
def headerReason (s : State) (c : StreamCfg) (e : RingEntry) (x : Sample) : Option Nat :=
  if 1 < e.source || e.reserved != 0 then some 3
  else if sourceBad s e || !x.fetched then some 5
  else match contentReason c e x.content with
    | some k => some k
    | none => if e.length < 32 then some 4 else none

/-! ### Decoding (R258, R259) -/

/-- The coded tiles that follow one another, each as long as its LENGTH32 says. -/
def splitTiles : Nat → List Byte → List (List Byte)
  | 0, _ => []
  | k + 1, bs =>
    let n := 32 * bits (leValue (bs.take 4)) 26 16
    bs.take n :: splitTiles k (bs.drop n)

/-- The dense bytes of tile t of a Seam sample, none where a header field, the CRC or the length is not what it must be. A sample is
no object: OBJECT and STEP are not held to a value. -/
def sampleTile (f : Format) (t : Nat) (bs : List Byte) : Option (List Byte) :=
  let h := leValue (bs.take 32)
  let block := bits h 7 0 == 2
  if (bits h 7 0 == 1 || (block && f.isBlock)) && bits h 10 8 == f.code && bits h 15 13 == 0 && bits h 31 27 == 0 &&
     bits h 255 192 == 0 && bits h 95 64 == t && 32 * bits h 26 16 == bs.length &&
     bits h 127 96 == (crc32c (bs.take 12 ++ bs.drop 16)).toNat && (block || bs.length == 32 + f.tileBytes)
  then seamOpen f block (bs.drop 32) else none

/-- The dense tiles of a Seam sample, none where one is corrupt or bytes are missing or left over. -/
def seamSample (c : StreamCfg) (bs : List Byte) : Option (List Byte) :=
  let e := sampleEntry c bs
  let tiles := splitTiles e.tiles (bs.drop 32)
  let dense := tiles.zipIdx.filterMap fun x => sampleTile e.format x.2 x.1
  if dense.length = e.tiles ∧ 32 + (tiles.map List.length).sum = bs.length then some dense.flatten else none

/-- A value as it enters (R35), as a binary32 pattern, and whether it was not finite. -/
def enterWord (v : FVal) : Word × Bool :=
  let d := finite maxF32 v
  (BitVec.ofNat 32 (quantIeee ieee32 maxF32 (.ofDy d.1)).1, d.2)

/-- The value of code k of a plane (R258). -/
def codeWord (depth k : Nat) : FVal := .ofDy ⟨k, -depth⟩

/-- Element i, in planar order, of a raw sample's payload (R259). -/
def rawValue (c : StreamCfg) (bs : List Byte) (i : Nat) : FVal :=
  let n := if c.rawFormat = 0 then 4 else 2
  let p := leValue ((bs.drop (32 + n * i)).take n)
  if c.rawFormat = 0 then ieee32.decode p else if c.rawFormat = 1 then ieee16.decode p
  else .ofDy ⟨(BitVec.ofNat 16 p).toInt, c.rawExp⟩

/-- Element i, in planar order, of dense Seam tiles, read at the header's E_T (R259). -/
def seamElement (e : ObjEntry) (eT : Int) (m : Mem) (i : Nat) : FVal :=
  let k := i % e.dim 0
  let n := i / e.dim 0 % e.dim 1
  if e.format.isTiled then
    (readElem e.format eT m (e.tileBase (e.tileAt (k / 64) (n / 128) (i / e.dim 0 / e.dim 1))) (k % 64) (n % 128)).1
  else .ofDy (.ofInt ({ entry := e, data := m : Obj }.int i))

/-- A tensor of so many elements from its values. -/
def decodedOf (x y z c : Nat) (val : Nat → FVal) : Decoded :=
  let vs := (List.range (x * y * z * c)).map fun i => enterWord (val i)
  ⟨x, y, z, c, vs.map fun v => v.1, vs.countP fun v => v.2⟩

/-- A sample as it is decoded: of a picture the luma plane, or luma and both chroma planes, each chroma sample at its 2 × 2
positions. -/
def decodeSample (c : StreamCfg) : Content → Decoded
  | .av1 p =>
    decodedOf p.x p.y p.z c.outC fun i =>
      let a := i % p.x
      let b := i / p.x % p.y
      let w := (p.x + 1) / 2
      let h := (p.y + 1) / 2
      let z := i / p.x / p.y % p.z
      let half := a / 2 + w * (b / 2 + h * z)
      codeWord p.depth (match i / (p.x * p.y * p.z) with
        | 0 => at' p.luma i 0
        | 1 => at' p.cb half 0
        | _ => at' p.cr half 0)
  | .coded bs =>
    let e := sampleEntry c bs
    decodedOf (e.dim 0) (e.dim 1) (e.dim 2) (e.dim 3) (if c.kind = 2 then
      seamElement e (BitVec.ofNat 8 (headField bs 43 36)).toInt (Mem.splice [] 0 ((seamSample c bs).getD []))
      else rawValue c bs)

/-- The reason for which a sample is rejected when it is decoded. -/
def bodyReason (c : StreamCfg) (x : Sample) : Option Nat :=
  if !x.fetched then some 5 else
  match x.content with
  | .av1 p => if c.kind != 0 || !p.valid then some 4 else if !p.oneSize || dimensionsBad c p.x p.y p.z c.outC then some 1 else none
  | .coded bs => if c.kind = 0 || (if c.kind = 2 then (seamSample c bs).isNone else bs.length != 32 + denseSize c bs) then some 4 else none

/-! ### Augmentation (R262, R268, R269) -/

/-- The draw of an element by operation j for a sample index. -/
def augDraw (c : StreamCfg) (index j element : Nat) : Word :=
  (counterGen (Quad.ofBits c.seed) ⟨BitVec.ofNat 32 element, BitVec.ofNat 32 j, BitVec.ofNat 32 index,
    BitVec.ofNat 32 (index / 2 ^ 32)⟩).w0

/-- What the coordinate operations choose: x0, y0, z0 and whether x is flipped. -/
structure Coords where
  x0 : Nat := 0
  y0 : Nat := 0
  z0 : Nat := 0
  flip : Bool := false
  deriving DecidableEq, Repr

/-- Operations 1 to 3. -/
def augCoords (c : StreamCfg) (index : Nat) (x : Decoded) : Coords :=
  (activeOps c).zipIdx.foldl (fun q a =>
    match a.1.op with
    | 1 => { q with x0 := drawInt (augDraw c index a.2 0) (x.x - c.outX + 1), y0 := drawInt (augDraw c index a.2 1) (x.y - c.outY + 1) }
    | 2 => { q with flip := decide ((augDraw c index a.2 0).toNat / 65536 < a.1.p0.toNat % 65536) }
    | 3 => { q with z0 := drawInt (augDraw c index a.2 0) (max (x.z + 1 - c.outZ) 1) }
    | _ => q) {}

/-- Operations 4 and 5 on one value. -/
def augValue (c : StreamCfg) (index ch element : Nat) (v : Word) : Word :=
  (activeOps c).zipIdx.foldl (fun v a =>
    match a.1.op with
    | 4 =>
      let u := drawUnit (augDraw c index a.2 ch)
      f32Add (f32Mul v (f32Add a.1.p0 (f32Mul (f32Sub a.1.p1 a.1.p0) u))) a.1.p2
    | 5 => f32Add v (f32Mul a.1.p0 (f32Sub (drawUnit (augDraw c index a.2 element)) 0x3F000000#32))
    | _ => v) v

/-- A value in the staging format, as a binary32 pattern (R262, R34). -/
def stageWord (c : StreamCfg) (v : Word) : Word :=
  if c.outFormat = 0 then BitVec.ofNat 32 (quantIeee ieee32 maxF32 (f32 v)).1
  else f32OfDy (ieee16.decode (quantIeee ieee16 maxF16 (f32 v)).1).dy false

/-- The staged form of a sample at a sample index. -/
def augmented (c : StreamCfg) (index position validity : Nat) (x : Decoded) : Staged :=
  let q := augCoords c index x
  let one (i : Nat) : Word :=
    let ox := i % c.outX
    let oy := i / c.outX % c.outY
    let oz := i / (c.outX * c.outY) % c.outZ
    let oc := i / (c.outX * c.outY * c.outZ)
    if x.z ≤ q.z0 + oz then 0
    else
      let ix := (if q.flip then c.outX - 1 - ox else ox) + q.x0
      let v := at' x.values (ix + x.x * (oy + q.y0 + x.y * (oz + q.z0 + x.z * oc))) 0
      stageWord c (augValue c index oc i v)
  ⟨position, validity, min (x.z - q.z0) c.outZ, (List.range (c.outX * c.outY * c.outZ * c.outC)).map one, x.nonfinite⟩

/-! ### Staging and replacement -/

/-- The source island of a unit's records (R267). -/
def unitIsland (u : Nat) : Nat := if u < 8 then islandDecoder u else islandSluice

/-- Frees a unit of a stream. -/
def freeUnit (y : Stream) (u : Nat) : Stream := { y with busy := y.busy.filter fun b => b.unit != u }

/-- Replaces a rejected or overrun sample (R263): substitute index mod n, or padding where there is none. Cause 1 overrun,
2 rejected. -/
def replaceSample (s : State) (st u position cause : Nat) : State :=
  match streamAt s st with
  | none => s
  | some y =>
    let index := y.cfg.startIndex + position
    match y.substitutes with
    | [] =>
      let s := setStream s st fun y => { y with staged := y.staged ++ [⟨position, 0, 0, [], 0⟩], nPadded := y.nPadded + 1 }
      tally s 0x0283 (unitIsland u) 2 st (lo32 index) cause 0
    | x :: xs =>
      let sub := at' (x :: xs) (index % (xs.length + 1)) x
      setStream s st fun y =>
        { y with staged := y.staged ++ [augmented y.cfg index position 2 sub], nSubstituted := y.nSubstituted + 1 }

/-- A rejected sample (R260, R267). -/
def rejectSample (s : State) (st u position reason : Nat) (tag : DWord) : State :=
  match streamAt s st with
  | none => s
  | some y =>
    let s := setStream s st fun y => { y with nRejected := y.nRejected.modify (reason - 1) (· + 1) }
    let s := tally s 0x0281 (unitIsland u) 2 st reason (lo32 (y.cfg.startIndex + position)) (lo32 tag.toNat)
    replaceSample s st u position 2

/-- Whether the Sluice runs. -/
def sluiceRuns (s : State) : Bool := s.dev.state != .off && s.dev.state != .halt

/-- The lowest-numbered unit of a stream that is free (R257). -/
def freeUnitOf (y : Stream) : Option Nat :=
  (List.range 16).find? fun u => y.cfg.units.getLsbD u && !y.busy.any fun b => b.unit == u

/-- A host fetch that cannot be issued with Bus Master Enable clear (R332). -/
def unfetchable (s : State) (e : RingEntry) : Bool := !s.link.busMaster && e.source == 0

/-- SAMPLE_START (R257, R260): the next position goes to the lowest-numbered free unit once its entry is present and its staging
slot is free. The device reads the entry here. A fetch from host memory waits while the link is down. -/
def execSampleStart (st : Fin 16) (unit : Nat) (entry : RingEntry) (sample : Sample) (s : State) :
    Host.Outcome State Fault Refusal :=
  done (match streamAt s st with
    | none => s
    | some y =>
      let p := y.next
      if !sluiceRuns s || freeUnitOf y != some unit || decide ((at' s.streams st {}).pi ≤ p) ||
         decide ((y.taken + y.cfg.ahead) * y.cfg.batch ≤ p) || (entry.source == 0 && !s.link.up) then s else
      let s := setStream s st fun y => { y with next := p + 1, ci := p + 1 }
      if unfetchable s entry then rejectSample (accessError s 5 entry.address) st unit p 5 entry.tag
      else match headerReason s y.cfg entry (fetched s entry sample) with
        | some r => rejectSample s st unit p r entry.tag
        | none => setStream s st fun y => { y with busy := y.busy ++ [⟨unit, p, entry, s.time⟩] })

/-- The sample on a unit. -/
def onUnit (s : State) (st u : Nat) : Option OnUnit := (streamAt s st).bind fun y => y.busy.find? fun b => b.unit == u

/-- A sample's budget in ns (R261). -/
def budgetNs (c : StreamCfg) : Nat := 1000 * c.meanCost * c.budgetMult

/-- SAMPLE_STAGED (R262): decoding ends within the budget; the sample is augmented and staged, or rejected. -/
def execSampleStaged (st : Fin 16) (unit : Nat) (sample : Sample) (s : State) : Host.Outcome State Fault Refusal :=
  done (match streamAt s st, onUnit s st unit with
    | some y, some b =>
      if !sluiceRuns s || decide (b.since + budgetNs y.cfg < s.time) then s else
      let s := setStream s st fun y => freeUnit y unit
      let sample := fetched s b.entry sample
      match bodyReason y.cfg sample with
      | some r => rejectSample s st unit b.position r b.entry.tag
      | none => setStream s st fun y =>
          { y with staged := y.staged ++ [augmented y.cfg (y.cfg.startIndex + b.position) b.position 1
              (decodeSample y.cfg sample.content)],
                   nStaged := y.nStaged + 1 }
    | _, _ => s)

/-- SAMPLE_OVERRUN (R261): the budget expires. -/
def execSampleOverrun (st : Fin 16) (unit : Nat) (s : State) : Host.Outcome State Fault Refusal :=
  done (match streamAt s st, onUnit s st unit with
    | some y, some b =>
      if !sluiceRuns s || decide (s.time < b.since + budgetNs y.cfg) then s else
      let s := setStream s st fun y => { freeUnit y unit with nOverrun := y.nOverrun + 1 }
      let s := tally s 0x0280 (unitIsland unit) 2 st (lo32 (y.cfg.startIndex + b.position)) (lo32 b.entry.tag.toNat)
        (y.cfg.meanCost * y.cfg.budgetMult)
      replaceSample s st unit b.position 1
    | _, _ => s)

/-- The step in hand whose take owns a position (R255). -/
def takeOwner (s : State) (st take : Nat) : Option Admitted :=
  (inHand s).find? fun a => a.takes.any fun t => t.1 == st && decide (t.2.1 ≤ take) && decide (take < t.2.1 + t.2.2)

/-- Whether a take of a step in hand is due: the time has reached its start on the admitted timeline, which peer waits extend (R257,
R70). -/
def takeDue (s : State) (a : Admitted) (st take : Nat) : Bool :=
  let rank := take - ((a.takes.find? fun t => t.1 == st).map fun t => t.2.1).getD 0
  let waited := match s.sched.run with | some r => if r.adm.same a then r.peerWait else 0 | none => 0
  a.plan.any fun p => match p.item with
    | .inst i => (takesOf a.image st).contains i && (takesOf a.image st).countP (fun j => precedes a.image j i && j != i) == rank &&
        decide (((Frac.ofNat (a.t0 + a.wake + a.extension + waited)).add p.start).ceil ≤ s.time)
    | _ => false

/-- SAMPLE_LATE (R257): the next position's entry is absent at its owning take's scheduled start; the position is skipped. -/
def execSampleLate (st : Fin 16) (position : Nat) (s : State) : Host.Outcome State Fault Refusal :=
  done (match streamAt s st with
    | none => s
    | some y =>
      let take := position / y.cfg.batch
      match takeOwner s st take with
      | none => s
      | some a =>
        if !sluiceRuns s || !takeDue s a st take || position != y.next || decide (position < (at' s.streams st {}).pi) then s else
        let index := y.cfg.startIndex + position
        let s := setStream s st fun y => { y with next := position + 1, late := y.late ++ [position], nLate := y.nLate + 1 }
        let s := count s a.job fun c => { c with late := c.late + 1 }
        tally s 0x0282 islandSluice 2 st (lo32 index) (hi32 index) (lo32 take))

/-- SUBSTITUTE (R263): decoded at registration under the checks of R260. -/
def execSubstitute (m : Fin 64) (p : Pay (Nat × RingEntry)) (sample : Sample) (s : State) : Host.Outcome State Fault Refusal :=
  done (command s m 0x0803 p fun _ x =>
    if 15 < x.1 then refuse s m St.invalidField (Config.payloadByte 0x0803 0) else
    match streamAt s x.1 with
    | none => refuse s m St.streamClosed 0
    | some y =>
      if streamTaken s x.1 then refuse s m St.streamBusy 0
      else if unfetchable s x.2 then refuse (accessError s 5 x.2.address) m St.sampleRejected 0
      else if (headerReason s y.cfg x.2 (fetched s x.2 sample)).isSome || (bodyReason y.cfg (fetched s x.2 sample)).isSome then refuse s m St.sampleRejected 0
      else if 256 ≤ y.substitutes.length then refuse s m St.refusedResource 0
      else
        let d := decodeSample y.cfg (fetched s x.2 sample).content
        match room s (planeBytes y.cfg d.x d.y (d.z * d.c)) with
        | none => refuse s m St.refusedResource 0
        | some s => respond (setStream s x.1 fun y => { y with substitutes := y.substitutes ++ [d] }) m St.ok [] 0 0)

/-- A stream's counts (R267): staged, overrun, rejected by each reason, late, substituted, padded. -/
def streamCounts (x : StreamSlot) : Resp :=
  match x.stream with
  | some y => (64, y.nStaged) :: (64, y.nOverrun) :: (y.nRejected.map fun n => (64, n)) ++
      [(64, y.nLate), (64, y.nSubstituted), (64, y.nPadded)]
  | none => List.replicate 10 (64, 0)

/-- STATS (R267). -/
def execStats (m : Fin 64) (s : State) : Host.Outcome State Fault Refusal :=
  done (commandBare s m 0x0804 fun _ => respond s m St.ok (s.streams.map streamCounts).flatten 0 0)

/-! ### Host access errors (R332) -/

/-- The effect of an error by the transfer it ends. -/
def accessEffect (s : State) (cause address : Nat) (tr : HostTransfer) : State :=
  let recorded := accessError s cause address
  let region := match regionOf s address with | some r => r.number | none => 0xFFFFFFFF
  let fatal' := fatalAs 2 s 0x02B3 islandPcie cause region (lo32 address) (hi32 address)
  match tr with
  | .sluice st p =>
    match (streamAt s st).bind fun y => y.busy.find? fun b => b.position == p with
    | some b => rejectSample (setStream recorded st fun y => freeUnit y b.unit) st b.unit p 5 b.entry.tag
    | none => s
  | .transientTile c o t =>
    match s.sched.run, objAt s c o with
    | some r, some x =>
      if r.adm.ctx = c && !Role.persistent x.entry.role then
        let s := tally recorded 0x0272 islandForeman 3 o t 3 1
        let s := setObj s c o fun x => { x with data := Mem.clear x.data (x.entry.slotBase t) x.entry.tileMax, lost := true }
        setRun s fun r => { r with tierLoss := true }
      else s
    | _, _ => s
  | .persistentTile c o _ => if (objAt s c o).isSome then fatal' else s
  | .t3Write c o => if (objAt s c o).isSome then fatal' else s
  | .spill c q g p =>
    if s.kv.spills.any fun x => x.ctx == c && x.sequence == q && x.group == g && x.position == p then
      let s := { recorded with kv := { s.kv with spills := s.kv.spills.filter fun x =>
        !(x.ctx == c && x.sequence == q && x.group == g && x.position == p) } }
      tally s 0x0233 islandForeman 2 q p g 0
    else s
  | .hostCopy j =>
    match jobAt s j with
    | some x => setJob recorded j fun _ => { x with hostGen := x.hostGen.set x.generation none }
    | none => s
  | .image m =>
    match workOf s m 0x0501 with
    | some _ => refuse recorded m St.invalidField 64
    | none => s

/-- HOST_ACCESS_ERROR (R332): a request of the device ended in a timeout, an abort, an unsupported request or poisoned data, or
was not issued because Bus Master Enable is clear. -/
def execHostAccessError (cause address : Nat) (tr : HostTransfer) (s : State) : Host.Outcome State Fault Refusal :=
  done (if !sluiceRuns s then s else accessEffect s (errorCause s cause) address tr)

end Sys2Proof.Machine
end

