-- ==== Sys2Proof/Machine/Life.lean ====
section
/-!
DEFINITION. Device states: resets and link loss (R334, R335, R398), start-up (R374 to R376), firmware trials (R363), ENTER_STATE
(R372, R416), fatal errors of the Foreman (R373), and link training (R318, R319).
Choices of the model, by log entry: 45 DEDUCED, 57 DEDUCED, 58 DEDUCED, 61 DEDUCED, 62 PRESUMED.
-/

namespace Sys2Proof.Machine

/-! ### Resets -/

/-- A reset of the function or the link runs steps 3 to 6 of R334 Table 7 at once (R335). -/
def resetNow (s : State) (cause : Nat) : State := if s.dev.state = .off then s else loseLink s cause

/-- FUNCTION_LEVEL_RESET (R335). -/
def execFunctionLevelReset (s : State) : Host.Outcome State Fault Refusal := done (if s.link.up then resetNow s 2 else s)
/-- HOT_RESET (R335). -/
def execHotReset (s : State) : Host.Outcome State Fault Refusal := done (if s.link.up then resetNow s 3 else s)
/-- LINK_DISABLE (R335): the link stays down until it is trained again. -/
def execLinkDisable (s : State) : Host.Outcome State Fault Refusal :=
  done (
    if !s.link.up || s.dev.state = .off then s else
    let s := resetNow s 4
    { s with link := { s.link with up := false, downAt := s.time } })

/-- Sets a reset input. -/
def setPin (s : State) (pin : ResetPin) (v : Bool) : State :=
  match pin with
  | .perst => { s with board := { s.board with perst := v } }
  | .resetL => { s with board := { s.board with resetL := v } }

/-- RESET_ASSERT (R335, R371, R398): the device goes to OFF by steps 4 to 6 of R334 Table 7, and the record is written only
where time is left. SHDN_DONE is released. -/
def execResetAssert (pin : ResetPin) (timeLeft : Bool) (s : State) : Host.Outcome State Fault Refusal :=
  done (
    let n := ((inHand s).filter fun a => !a.drill).length
    let s := setPin s pin true
    let s := if timeLeft && s.dev.state != .off && !startWaits s then tally s 0x02B1 islandPcie 3 n 5 (lo32 (runStep s)) 0 else s
    let s := if s.dev.state = .off then s else deviceReset (stopPorts s)
    { s with board := { s.board with shdnDone := false } })

/-- DL_DOWN (R334): step 1 of the link-loss sequence. -/
def execDlDown (ltssm : Nat) (s : State) : Host.Outcome State Fault Refusal :=
  done (
    if !s.link.up then s
    else if s.dev.state = .off then { s with link := { s.link with up := false, downAt := s.time } }
    else
      let s := { s with link := { s.link with up := false, downAt := s.time } }
      tally s 0x02B0 islandPcie 2 ltssm s.link.speed s.link.width 0)

/-- A link retraining (R319): the record, INT_STATUS bit 2 and vector 0. -/
def retrained (s : State) (speed width : Nat) : State :=
  let s := { s with link := { s.link with up := true, speed, width } }
  deviceEvent (tally s 0x02B2 islandPcie 1 speed width (hostRate s) 0) 2

/-- Speeds and widths that the endpoint trains at (R314). -/
def trains (speed width : Nat) : Bool :=
  [2, 5, 8, 16, 32, 64, 128].contains speed && [1, 2, 4, 8, 16].contains width

/-- DL_UP (R319): the link is back; held messages follow. -/
def execDlUp (speed width : Nat) (s : State) : Host.Outcome State Fault Refusal :=
  done (
    if s.link.up || !trains speed width then s
    else if s.dev.state = .off then { s with link := { s.link with up := true, speed, width } }
    else releaseHeld (retrained s speed width))

/-- LINK_RETRAINED (R318, R319): a change of speed or width without loss of the link. -/
def execLinkRetrained (speed width : Nat) (s : State) : Host.Outcome State Fault Refusal :=
  done (
    if !s.link.up || s.dev.state = .off || !trains speed width || (speed == s.link.speed && width == s.link.width) then s
    else retrained s speed width)

/-- HOLD_OFF_EXPIRY (R334): 100 ms without DL_Up run steps 3 to 6. -/
def execHoldOffExpiry (s : State) : Host.Outcome State Fault Refusal :=
  done (
    if !s.link.up && s.dev.state != .off && decide (s.link.downAt + 100000000 ≤ s.time) && decide (s.dev.startedAt ≤ s.link.downAt)
    then resetNow s 1 else s)

/-! ### Start-up (R374) -/

/-- The slot whose image boots: the trial where it verifies, else the active one; a failed trial is marked and recorded
(R363, R370). -/
def bootSlot (s : State) : State × Option Nat :=
  match bootChoice s with
  | none => (s, none)
  | some k =>
    let img := (fwSlot s k).image
    match fwVerify s.flash.minSecurity s.flash.revoked img with
    | none => (s, some k)
    | some step =>
      let s := rejected s step img 3
      if (fwSlot s k).state = .trial then
        let s := failTrial s k step
        match (List.range 2).find? fun j => (fwSlot s j).state == .active with
        | none => (s, none)
        | some j =>
          let img := (fwSlot s j).image
          match fwVerify s.flash.minSecurity s.flash.revoked img with
          | none => (s, some j)
          | some step => (rejected s step img 3, none)
      else (s, none)

/-- Configuration sets, repair map and self-test results at start-up (R354, R374 step 4, R376), with the record of a power-stage
fault that the power-fault area holds (R400). -/
def loadFlash (s : State) : State :=
  let cfg := s.cfg.zipIdx.map fun x =>
    match at' s.flash.configs x.2 none with
    | some (g, v) => { x.1 with value := v, gen := g, force := v, forceGen := g }
    | none =>
      let v := at' ConfigSet.resetValues x.2 0
      { x.1 with value := v, gen := 0, force := v, forceGen := 0 }
  let s := { s with cfg, flash := { s.flash with powerOn := s.flash.powerOn + 1 }, groves := loadGroves s.flash }
  let ports := s.fabric.ports.zipIdx.map fun x =>
    if s.flash.retired.contains (islandPort x.2) then { x.1 with state := .retired } else x.1
  let s := { s with fabric := { s.fabric with ports } }
  let stale := s.flash.bistDone != s.flash.powerOn - 1
  let s := { s with dev := { s.dev with stale } }
  let s := if stale then tally s 0x02E3 islandForeman 2 s.flash.bistDone 0 0 0 else s
  match s.flash.powerFault with
  | some (cause, mv) => { tally s 0x02F5 islandModule 3 cause mv 0 0 with
      flash := { (tally s 0x02F5 islandModule 3 cause mv 0 0).flash with powerFault := none } }
  | none => s

/-- Identity and the reference table (R365, R375, R374 step 3). -/
def bootTrust (s : State) (env : BootEnv) : State :=
  let s := { s with dev := { s.dev with identity := env.sealCause == 0, reference := env.referenceCause == 0,
                                        referenceCause := env.referenceCause } }
  let s := if env.sealCause = 0 then s else tally s 0x02D3 islandForeman 3 env.sealCause 0 0 0
  if env.referenceCause = 0 then s else tally s 0x02EB islandForeman 3 env.referenceCause 0 0 0

/-- The recovery monitor (R363, R371): no slot verifies. -/
def enterMonitor (s : State) : State :=
  let s := { s with dev := { s.dev with state := .recovery, monitor := true, stage := 4, trial := false } }
  tally s 0x02E0 islandForeman 1 4 1 3 0

/-- Steps 1 to 6 (R374): the image, trust, flash, clocks and stacks; configuration readiness follows. -/
def bootDo (s : State) (env : BootEnv) : State :=
  let s := { s with link := { s.link with up := decide (0 < env.linkWidth), speed := env.linkSpeed, width := env.linkWidth } }
  let p := bootSlot s
  match p.2 with
  | none => enterMonitor p.1
  | some k =>
    let s := bootTrust p.1 env
    let s := loadFlash s
    { s with dev := { s.dev with booted := k, trial := (fwSlot s k).state == .trial, stage := 2, bootMs := env.bootMs },
             mem := {} }

/-- Steps 7 and 8: BAR0 and the mailboxes answer, and the crosspoint's TARGET is open before the ports train (R410). -/
def readyDo (s : State) : State :=
  let s := { s with dev := { s.dev with stage := 3 }, board := { s.board with target := 0xFF, joined := false } }
  tally s 0x02E1 islandForeman 1 s.dev.bootMs s.dev.booted s.flash.powerOn (bit s.dev.stale)

/-- Answers an ENTER_STATE that waited for the end of start-up (R371). -/
def answerEnter (s : State) : State :=
  (List.range 64).foldl (fun s m => match (mbxAt s m).work with
    | some w => if w.opcode = 0x0104 && s.dev.target.isSome then respond s m St.ok [(32, s.dev.state.code)] 0 0 else s
    | none => s) s

/-- Step 9: SERVICE, or the state asked for; a trial image is promoted in SERVICE and TEST (R363). -/
def enterDo (s : State) : State :=
  let dst := s.dev.target.getD .service
  let s := idleIslands { s with dev := { s.dev with state := dst, stage := 4 } }
  let s := if dst = .service || dst = .test then promote s else s
  let s := answerEnter s
  tally { s with dev := { s.dev with target := none } } 0x02E0 islandForeman 1 dst.code 1 2 0

/-- PERST_RELEASE (R374, R398): the release of a reset input, and the parts of the start-up that follows it. Start-up begins at
the later of the two releases, with power good. -/
def execPerstRelease (part : StartPart) (s : State) : Host.Outcome State Fault Refusal :=
  done (match part with
    | .release pin =>
      let held := match pin with | .perst => s.board.perst | .resetL => s.board.resetL
      let s := setPin s pin false
      if held && !s.board.perst && !s.board.resetL && s.board.pwrGood && s.dev.state == .off then beginStart s else s
    | .boot env => if s.dev.state == .start && s.dev.stage == 1 && decide (s.dev.startedAt ≤ s.time) then bootDo s env else s
    | .ready => if s.dev.state == .start && s.dev.stage == 2 then readyDo s else s
    | .enter => if s.dev.state == .start && s.dev.stage == 3 && !s.dev.shutAsked then enterDo s else s)

/-- FW_TRIAL_TIMEOUT (R363): a trial that did not reach SERVICE or TEST within 2 s is FAILED, and start-up begins again with the
ACTIVE slot. -/
def execFwTrialTimeout (s : State) : Host.Outcome State Fault Refusal :=
  done (
    let reached := s.dev.state == .service || s.dev.state == .test
    if s.dev.trial && !reached && s.dev.state != .off && s.dev.state != .halt && decide (s.dev.startedAt + 2000000000 ≤ s.time) then
      let started := s.dev.startedAt
      let s := failTrial s s.dev.booted 9
      let t := s.tally
      let s := beginStart (deviceReset s)
      { s with tally := t, dev := { s.dev with startedAt := started } }
    else s)

/-! ### ENTER_STATE (R372, R377) -/

/-- The state of a target code. -/
def targetState (t : Nat) : Option DevState :=
  match t with | 0 => some .off | 2 => some .service | 3 => some .test | 4 => some .recovery | _ => none

/-- An orderly shut-down is asked for (R377, R398). -/
def askShutdown (s : State) (by_ : Option Nat) : State :=
  if s.dev.shutAsked then s
  else { s with dev := { s.dev with shutAsked := true, shutBy := by_, shutAt := s.time } }

/-- A change of state by command: the placement epoch changes with the host's view. -/
def changeState (s : State) (m : Nat) (dst : DevState) : State :=
  let was := s.dev.state
  let s := { s with dev := { s.dev with state := dst }, mem := { s.mem with epoch := s.mem.epoch + 1 } }
  let s := if dst = .service || dst = .test then promote s else s
  respond (tally s 0x02E0 islandForeman 1 dst.code was.code 1 0) m St.ok [(32, dst.code)] 0 0

/-- ENTER_STATE after its fields. -/
def enterTarget (s : State) (m : Nat) (w : Work) (dst : DevState) : State :=
  let toP := s.dev.state == .service && dst == .recovery
  if toP && !w.present then presenceRefused s m w
  else
    let s := if toP then countClassP s else s
    if s.dev.shutAsked || s.dev.target.isSome then (if s.dev.shutBy == some m || s.dev.target.isSome then s else refuse s m St.wrongState 0)
    else if dst = .off then askShutdown s (some m)
    else if s.dev.state == .start then { s with dev := { s.dev with target := some dst } }
    else if s.dev.monitor && dst == .service then refuse s m St.wrongState 0
    else if dst = s.dev.state then refuse s m St.wrongState 0
    else if s.dev.state == .service && (busy s || s.jobs.any fun j => j.joined) then refuse s m St.contextBusy 0
    else changeState s m dst

/-- ENTER_STATE (R372). In START a target takes effect at the end of start-up; target 0 begins an orderly shut-down, and is
answered when its step 7 ends (R377). In HALT and in OFF the command is not permitted (R348 Table 3). -/
def execEnterState (m : Fin 64) (p : Pay Nat) (s : State) : Host.Outcome State Fault Refusal :=
  done (command s m 0x0104 p fun w t =>
    match targetState t with
    | none => refuse s m St.invalidField (Config.payloadByte 0x0104 0)
    | some dst => if s.dev.state = .off || s.dev.state = .halt then s else enterTarget s m w dst)

/-! ### The Foreman's own fatal error -/

/-- FOREMAN_FATAL (R373): the I/O die stops the ports and islands; the Foreman answers nothing until reset, so its commands in
progress stay unanswered. -/
def execForemanFatal (s : State) : Host.Outcome State Fault Refusal :=
  done (
    if s.dev.state = .off || s.dev.state = .halt then s else
    let s := fatalWith false 4 s 0x02EA islandForeman 0 0 0 0
    { s with dev := { s.dev with foremanDead := true } })

end Sys2Proof.Machine
end

