-- ==== Sys2Proof/Machine/Service.lean ====
section
/-!
DEFINITION. The TEST and LOG commands (R382 to R385, R389), and the orderly shut-down with its self-test (R377 to R381).
Choices of the model, by log entry: 9 DESIGN CHOICE, 12 DEDUCED, 39 DESIGN CHOICE, 46 DESIGN CHOICE, 55 DEDUCED.
-/

namespace Sys2Proof.Machine

/-! ### Self-test (R379, R380) -/

/-- The signature of an island's test: what the hardware gave, or, where the event brings none, a free one. -/
def signatureOf (s : State) (sigs : Signatures) (i : Nat) : BitVec 128 :=
  match sigs.find? fun x => x.1 == i with
  | some x => x.2
  | none => BitVec.ofNat 128 (Config.free 60 (s.fresh + i))

/-- Reinitialises a tested island (R380): what its memories held does not survive. A port comes up again by itself. -/
def reinitialise (s : State) (i : Nat) : State :=
  if i < 128 then
    setGrove { s with vec := s.vec.filter fun x => x.1 != i } i fun g =>
      { g with arrays := List.replicate 4 {}, active := none, shadow := none }
  else if islandStack 0 ≤ i && i < islandStack 16 then wipeStack s (i - islandStack 0)
  else if islandSapling 0 ≤ i && i < islandSapling 4 then
    { s with islands := { s.islands with saplings := s.islands.saplings.set (i - islandSapling 0) {} } }
  else if islandPort 0 ≤ i && i < islandPort 20 then
    setPort s (i - islandPort 0) fun x => if x.state = .retired then x else {}
  else s

/-- One island's test (R379): the flag, the result record, and a mismatch's Tally record. Source 1 shut-down, 2 BIST_RUN. -/
def testIsland (sigs : Signatures) (source : Nat) (s : State) (i : Nat) : State :=
  let sig := signatureOf s sigs i
  let ref := Config.misrReference i
  let flag := sig != ref
  let s := reinitialise s i
  let r : BistRec := ⟨i, flag, source, s.flash.powerOn, s.time, sig⟩
  let s := { s with flash := { s.flash with bist := r :: s.flash.bist.filter fun x => x.island != i } }
  if flag then tally s 0x02E2 i 2 source (lo32 sig.toNat) (lo32 ref.toNat) 0 else s

/-- Whether a queued or running step uses an island (R382). -/
def islandUsed (s : State) (i : Nat) : Bool :=
  let images := (inHand s).map fun a => a.image
  let uses (op : Nat) : Bool := images.any fun g => g.descs.any fun d => d.opcode == op
  if i < 128 then busy s && groveWorks s i
  else if i < islandLode 0 then uses 2
  else if i < islandForeman then busy s
  else if i = islandCollective then images.any fun g => (g.descs.any isCollective)
  else if i = islandSluice then uses 12
  else if islandDecoder 0 ≤ i && i < islandTally then
    (List.range 16).any fun st => streamTaken s st &&
      (match streamAt s st with | some y => y.cfg.units.getLsbD (i - islandDecoder 0) | none => false)
  else if islandPort 0 ≤ i then images.any fun g => (portsUsed s g).contains (i - islandPort 0)
  else busy s

/-- Whether BIST_RUN may test an island (R379, R382). -/
def mayTest (s : State) (i : Nat) : Bool :=
  testedIslands.contains i && !islandUsed s i && !(decide (i < 128) && (groveAt s i).readying)

/-- BIST_RUN (R382): the whole list or nothing. -/
def execBistRun (m : Fin 64) (p : Pay (List Nat)) (sigs : Signatures) (s : State) : Host.Outcome State Fault Refusal :=
  done (command s m 0x0A01 p fun _ l =>
    if 256 < l.length ∨ l.any (fun i => !islandListed i) then refuse s m St.invalidField (Config.payloadByte 0x0A01 0)
    else if !s.dev.reference || !l.all (mayTest s) then refuse s m St.wrongState 0
    else
      let s := l.foldl (testIsland sigs 2) s
      respond { s with fresh := s.fresh + 0x124 } m St.ok [] 0 0)

/-- The 512 bits of a BIST result record (R383 Table 7). -/
def bistRecord (s : State) (i : Nat) : Nat :=
  let ref := field 256 (Config.misrReference i).toNat
  match s.flash.bist.find? fun b => b.island == i with
  | some b => i + field 12 (bit b.flag) + field 13 (bit s.dev.stale) + field 14 b.source + field 32 b.testedAt + field 64 b.time +
      field 128 b.signature.toNat + ref
  | none => i + field 13 (bit s.dev.stale) + ref

/-- BIST_RESULT (R383). -/
def execBistResult (m : Fin 64) (p : Pay Nat) (s : State) : Host.Outcome State Fault Refusal :=
  done (command s m 0x0A02 p fun _ i =>
    if testedIslands.contains i then respond s m St.ok [(512, bistRecord s i)] 0 0 else refuse s m St.invalidField (Config.payloadByte 0x0A02 0))

/-! ### Retirement and repair (R384, R385) -/

def isDecoder (i : Nat) : Bool := decide (islandDecoder 0 ≤ i) && decide (i < islandTally)
def isPort (i : Nat) : Bool := decide (islandPort 0 ≤ i) && decide (i < islandPort 20)

/-- Whether an open stream names a decoder. -/
def decoderOpen (s : State) (i : Nat) : Bool :=
  s.streams.any fun x => match x.stream with | some y => y.cfg.units.getLsbD (i - islandDecoder 0) | none => false

/-- Whether an island is retired. -/
def islandRetired (s : State) (i : Nat) : Bool :=
  if i < 128 then (groveAt s i).role == .retired else s.flash.retired.contains i

/-- Asks for a retirement at the next step boundary; an in-service grove has a spare readied for it (R107, R384). -/
def askRetire (s : State) (m i : Nat) : State :=
  let s := { s with islands := { s.islands with retireAsked := s.islands.retireAsked ++ [(i, m)] } }
  if i < 128 && (groveAt s i).role == .inService then
    (readySpare (needSpare (setGrove s i fun x => { x with retireAsked := true }) i) (i / 32)).1
  else s

/-- RETIRE (R384). On an idle device the boundary is now. -/
def execRetire (m : Fin 64) (p : Pay Nat) (s : State) : Host.Outcome State Fault Refusal :=
  done (command s m 0x0A03 p fun _ i =>
    if !(decide (i < 128) || isPort i || isDecoder i) then refuse s m St.invalidField (Config.payloadByte 0x0A03 0)
    else if isDecoder i && decoderOpen s i then refuse s m St.streamBusy 0
    else if s.islands.retireAsked.any fun x => x.2 == m.val then s
    else
      let s := askRetire s m i
      if busy s then s else retireOthers (groveBoundary s 0))

/-- UNRETIRE (R385). -/
def execUnretire (m : Fin 64) (p : Pay Nat) (s : State) : Host.Outcome State Fault Refusal :=
  done (command s m 0x0A04 p fun _ i =>
    if !(decide (i < 128) || isPort i || isDecoder i) || !islandRetired s i then refuse s m St.invalidField (Config.payloadByte 0x0A04 0)
    else if bistFlag s i then refuse s m St.wrongState 0
    else
      let s :=
        if i < 128 then
          mapGrove (setGrove s i fun x => { x with role := .spare, warm := false, readying := false, hist := [] }) i
            fun x => { x with role := .spare, hist := [], recent := 0 }
        else
          let s := { s with flash := { s.flash with retired := s.flash.retired.filter fun x => x != i } }
          if isPort i then setPort s (i - islandPort 0) fun _ => {} else s
      respond (tally s 0x02E5 islandForeman 2 i (if i < 128 then 1 else 0) 0 0) m St.ok [] 0 0)

/-- Whether an edit names a stack, pseudo-channel, position and frame that exist. -/
def editInRange : RepairEdit → Bool
  | .setErasure k c p => decide (k < 16) && decide (c < 64) && decide (p < 36)
  | .clearErasure k c => decide (k < 16) && decide (c < 64)
  | .retireFrame k c f => decide (k < 16) && decide (c < 64) && decide (f < 65536)
  | .restoreFrame k c f => decide (k < 16) && decide (c < 64) && decide (f < 65536)

/-- Whether an edit would change a frame on which an object is booked (R385). -/
def editBooked (s : State) : RepairEdit → Bool
  | .retireFrame k c f => frameHeld s k c f
  | .restoreFrame k c f => frameHeld s k c f
  | _ => false

/-- One edit with its record (R385, R390). -/
def applyEdit (s : State) : RepairEdit → State
  | .setErasure k c p =>
    let es := s.flash.erasures.filter fun e => !(e.1 == k && e.2.1 == c)
    tally { s with flash := { s.flash with erasures := (k, c, p) :: es } } 0x02E6 islandForeman 2 1 k c 0
  | .clearErasure k c =>
    let es := s.flash.erasures.filter fun e => !(e.1 == k && e.2.1 == c)
    tally { s with flash := { s.flash with erasures := es } } 0x02E6 islandForeman 2 2 k c 0
  | .retireFrame k c f =>
    let fs := s.flash.frames.filter fun x => x != (k, c, f)
    tally { s with flash := { s.flash with frames := (k, c, f) :: fs } } 0x02E6 islandForeman 2 3 k c f
  | .restoreFrame k c f =>
    let fs := s.flash.frames.filter fun x => x != (k, c, f)
    tally { s with flash := { s.flash with frames := fs } } 0x02E6 islandForeman 2 4 k c f

/-- REPAIR_EDIT (R385): every edit or none. -/
def execRepairEdit (m : Fin 64) (p : Pay (List RepairEdit)) (s : State) : Host.Outcome State Fault Refusal :=
  done (command s m 0x0A05 p fun _ es =>
    if !es.all editInRange then refuse s m St.invalidField (Config.payloadByte 0x0A05 0)
    else if es.any (editBooked s) then refuse s m St.refusedResource 0
    else respond (es.foldl applyEdit s) m St.ok [] 0 0)

/-! ### The Tally (R386 to R389) -/

/-- The 256 bits of a record (R386 Table 8). -/
def TallyRec.pack (r : TallyRec) : Nat :=
  r.code + field 16 r.source + field 28 r.severity + field 32 r.time + field 96 r.repeats + field 112 r.seq + field 128 r.p0 +
  field 160 r.p1 + field 192 r.p2 + field 224 r.p3

/-- The records of an area from FIRST on (R389). -/
def areaFrom (s : State) (area first : Nat) : List TallyRec :=
  match area with
  | 0 => s.tally.boot.drop first
  | 1 => s.tally.ring.dropWhile fun r => !decide ((r.seq + 65536 - first) % 65536 < 32768)
  | _ => s.flash.lifetime.drop first

/-- TALLY_READ (R389). -/
def execTallyRead (m : Fin 64) (p : Pay TallyReq) (s : State) : Host.Outcome State Fault Refusal :=
  done (command s m 0x0B01 p fun _ q =>
    let limit := match q.area with | 0 => 1023 | 1 => 65535 | _ => 511
    if 2 < q.area then refuse s m St.invalidField (Config.payloadByte 0x0B01 0)
    else if limit < q.first then refuse s m St.invalidField (Config.payloadByte 0x0B01 1)
    else if q.count = 0 ∨ 124 < q.count then refuse s m St.invalidField (Config.payloadByte 0x0B01 2)
    else respond s m St.ok (((areaFrom s q.area q.first).take q.count).map fun r => (256, TallyRec.pack r)) 0 0)

/-- TALLY_CLEAR (R389): its own record becomes record 0 of the new area. -/
def execTallyClear (m : Fin 64) (s : State) : Host.Outcome State Fault Refusal :=
  done (commandBare s m 0x0B02 fun _ =>
    let n := s.flash.lifetime.length
    let s := { s with flash := { s.flash with lifetime := [] } }
    respond (tally s 0x02E7 islandForeman 3 n 0 0 0) m St.ok [(32, n)] 0 0)

/-! ### Orderly shut-down (R377, R398) -/

/-- SHDN_REQ (R398): in a working state it starts the shut-down; in HALT, or in OFF with power, SHDN_DONE follows. -/
def execShdnReq (asserted : Bool) (s : State) : Host.Outcome State Fault Refusal :=
  done (
    let edge := asserted && !s.board.shdnReq
    let s := { s with board := { s.board with shdnReq := asserted } }
    if !edge then s
    else if startWaits s then { s with board := { s.board with shdnDone := true } }
    else match s.dev.state with
      | .halt => { s with board := { s.board with shdnDone := true } }
      | .off => if s.board.pwrGood then { s with board := { s.board with shdnDone := true } } else s
      | _ => askShutdown s none)

/-- Whether every command but the shut-down's own has completed (R416). -/
def othersDone (s : State) : Bool :=
  s.mbx.zipIdx.all fun x => match x.1.work with
    | none => true
    | some w => some x.2 == s.dev.shutBy ||
        (match s.dev.shutBy with
         | none => decide (s.dev.shutAt ≤ w.tD)
         | some m => match (mbxAt s m).work with
           | some w' => earlierWork m w' x.2 w
           | none => true)

/-- From step 1 on, SUBMIT, OPEN, JOB_OPEN, JOIN and BIST_RUN are answered WRONG_STATE (R377): those that waited for it too. -/
def shutRefuse (s : State) : State :=
  (List.range 64).foldl (fun s m => match (mbxAt s m).work with
    | some w => if shutOpcodes.contains w.opcode then refuse s m St.wrongState 0 else s
    | none => s) s

/-- SHUTDOWN_BEGIN (R377): step 1, once every other command in progress has completed; step 2 follows. -/
def execShutdownBegin (s : State) : Host.Outcome State Fault Refusal :=
  done (if s.dev.shutAsked && s.dev.shutStep == 0 && othersDone s then shutRefuse { s with dev := { s.dev with shutStep := 2 } } else s)

/-- Step 3: LEAVE for every joined job; the ports stop. -/
def leaveAll (s : State) : State :=
  stopPorts ((s.jobs.filter fun j => j.joined).foldl (fun s j => leaveJob s j.number) s)

/-- Step 4: every stream is closed. -/
def closeStreams (s : State) : State := { s with streams := s.streams.map fun x => { x with stream := none } }

/-- Step 5: tile counts and mismatch records go to the repair map (R106, R377). -/
def saveGroves (s : State) : State :=
  (List.range 128).foldl (fun s g =>
    let x := groveAt s g
    mapGrove s g fun y => { y with tiles := x.tiles, hist := keepLast 2 x.hist, recent := recentOf x, mismatches := x.mismatches }) s

/-- Step 6: the waves of R381, and BIST_DONE of step 7; skipped with an invalid reference table (R375). -/
def shutTests (s : State) (sigs : Signatures) : State :=
  if !s.dev.reference then s
  else
    let s := testedIslands.foldl (testIsland sigs 1) s
    { s with fresh := s.fresh + 0x124, flash := { s.flash with bistDone := s.flash.powerOn } }

/-- Steps 3 to 8 (R377). -/
def shutDown (s : State) (sigs : Signatures) (ms : Nat) : State :=
  let s := saveGroves (closeStreams (leaveAll s))
  let tested := s.dev.reference
  let s := shutTests s sigs
  let flagged := testedIslands.countP (bistFlag s)
  let s := tally s 0x02E9 islandForeman 1 ms flagged (if tested then testedIslands.length else 0) 0
  let s := match s.dev.shutBy with | some m => respond s m St.ok [(32, 0)] 0 0 | none => s
  let s := deviceReset s
  { s with board := { s.board with shdnDone := true } }

/-- SHUTDOWN_AFTER_STEPS (R377): step 2 has completed. -/
def execShutdownAfterSteps (sigs : Signatures) (ms : Nat) (s : State) : Host.Outcome State Fault Refusal :=
  done (if s.dev.shutStep == 2 && !busy s && s.dev.state != .off && s.dev.state != .halt then shutDown s sigs ms else s)

end Sys2Proof.Machine
end

