-- ==== Sys2Proof/Machine/Module.lean ====
section
/-!
DEFINITION. The module: physical presence (R368, R397), input power (R400 to R403), temperatures (R406), the management bus (R396),
and POWER_STATUS (R403).
Choices of the model, by log entry: 5 DESIGN CHOICE, 15 DESIGN CHOICE, 54 DESIGN CHOICE, 56 DEDUCED, 57 DEDUCED.
-/

namespace Sys2Proof.Machine

/-- Whether the device runs at all. -/
def deviceRuns (s : State) : Bool := s.dev.state != .off

/-! ### Presence (R368) -/

/-- PRESENCE_BUTTON_PRESS (R368): held for 100 ms, and released for 100 ms before; it opens the window for 30 s or starts the
30 s again. -/
def execPresenceButtonPress (heldNs : Nat) (s : State) : Host.Outcome State Fault Refusal :=
  done (
    if !deviceRuns s || !s.board.armed || decide (heldNs < 100000000) then s else
    let opened := s.board.window.isNone
    let s := { s with board := { s.board with armed := false, window := some (s.time + 30000000000) } }
    if opened then presenceEvent (tally s 0x02D4 islandForeman 1 1 0 0 0) else s)

/-- PRESENCE_BUTTON_RELEASE (R368): released for at least 100 ms, a further press can be recognised. -/
def execPresenceButtonRelease (heldNs : Nat) (s : State) : Host.Outcome State Fault Refusal :=
  done (if heldNs < 100000000 then s else { s with board := { s.board with armed := true } })

/-- PRESENCE_WINDOW_EXPIRY (R368). -/
def execPresenceWindowExpiry (s : State) : Host.Outcome State Fault Refusal :=
  done (match s.board.window with
    | some t => if t ≤ s.time && deviceRuns s then presenceEvent { s with board := { s.board with window := none } } else s
    | none => s)

/-- SERVICE_L_CHANGE (R368, R397). -/
def execServiceLChange (held : Bool) (s : State) : Host.Outcome State Fault Refusal :=
  done (
    if held = s.board.serviceL then s else
    let s := { s with board := { s.board with serviceL := held } }
    if deviceRuns s then presenceEvent (tally s 0x02D4 islandForeman 1 (if held then 2 else 3) 0 0 0) else s)

/-! ### Input power (R400 to R402) -/

/-- The operating range and the voltages at which the power stage acts, in mV. -/
def inOperating (mv : Nat) : Bool := decide (46000 ≤ mv) && decide (mv ≤ 56000)

/-- Power is gone: the device is in OFF without shut-down, and all it holds but the module flash is lost. -/
def powerDown (s : State) : State :=
  let r := deviceReset s
  { r with dev := { r.dev with lastFatal := 0, classP := 0 }, regs := {},
           board := { r.board with pwrGood := false, shdnDone := false },
           link := { r.link with up := false } }

/-- The power stage shuts down (R400): the fault latch, and the cause and voltage in the power-fault area. -/
def stageDown (s : State) (cause : StageFault) (mv : Nat) : State :=
  let s := powerDown s
  { s with board := { s.board with faultLatch := true, vinMv := mv },
           flash := { s.flash with powerFault := some (cause.code, mv) } }

/-- POWER_APPLIED (R402): from 44 V, with VIN_PRESENT made and no fault latched, the rails come up and device time is zero.
Where the reset inputs stand released, the release is taken to occur 100 ms after PWR_GOOD. -/
def execPowerApplied (mv : Nat) (s : State) : Host.Outcome State Fault Refusal :=
  done (
    if s.board.pwrGood then s else
    let s := { s with board := { s.board with vinPresent := true, vinMv := mv } }
    if s.board.faultLatch || decide (mv < 44000) || decide (58000 < mv) then s else
    let s := { s with time := 0, board := { s.board with pwrGood := true, inRange := inOperating mv, outSince := 0 },
                      link := { s.link with up := true } }
    if s.board.perst || s.board.resetL then s else beginStart s)

/-- VIN_PRESENT_LOST (R402): a power removal, recorded as a power-stage fault (R411). -/
def execVinPresentLost (mv : Nat) (s : State) : Host.Outcome State Fault Refusal :=
  done (
    let s := { s with board := { s.board with vinPresent := false } }
    if s.board.pwrGood then stageDown s .vinPresentLost mv else s)

/-- Whether a voltage and its time meet a row of R400 Table 5 outside the operating range. -/
def outOfRange (mv heldNs : Nat) : Bool :=
  !inOperating mv && decide (42000 ≤ mv) && decide (mv ≤ 58000) && decide (10000 < heldNs)

/-- INPUT_OUT_OF_RANGE (R400): every promise is void; work goes on. -/
def execInputOutOfRange (mv heldNs : Nat) (s : State) : Host.Outcome State Fault Refusal :=
  done (
    if !s.board.pwrGood || !outOfRange mv heldNs then s
    else if !s.board.inRange then { s with board := { s.board with vinMv := mv } }
    else
      let s := { s with board := { s.board with vinMv := mv, inRange := false, outSince := s.time } }
      if !deviceRuns s then s else
      let n := (voided (fun _ => true) (inHand s) false).length
      let s := voidSteps s 5 fun _ => true
      tally s 0x02F0 islandModule 3 mv (if mv < 46000 then 1 else 2) n 0)

/-- INPUT_IN_RANGE (R400): back within the range for 100 ms. -/
def execInputInRange (mv heldNs : Nat) (s : State) : Host.Outcome State Fault Refusal :=
  done (
    if !s.board.pwrGood || s.board.inRange || !inOperating mv || decide (heldNs < 100000000) then s else
    let s := { s with board := { s.board with vinMv := mv, inRange := true } }
    if !deviceRuns s then s
    else tally s 0x02F1 islandModule 1 mv ((s.time - s.board.outSince) / 1000000) 0 0)

/-- Whether a cause and a voltage agree (R400, R401). -/
def stageCause (cause : StageFault) (mv : Nat) : Bool :=
  match cause with
  | .undervoltage => decide (mv < 42000)
  | .overvoltage => decide (58000 < mv)
  | .overcurrent => true
  | .thermalTrip => true
  | .vinPresentLost => false

/-- POWER_STAGE_SHUTDOWN (R400). -/
def execPowerStageShutdown (cause : StageFault) (mv : Nat) (s : State) : Host.Outcome State Fault Refusal :=
  done (if s.board.pwrGood && stageCause cause mv then stageDown s cause mv else s)

/-- FAULT_LATCH_CLEAR (R400): the input has been below 5 V for 1 s. -/
def execFaultLatchClear (belowNs : Nat) (s : State) : Host.Outcome State Fault Refusal :=
  done (if !s.board.pwrGood && decide (1000000000 ≤ belowNs) then { s with board := { s.board with faultLatch := false } } else s)

/-- POWER_LIMIT (R403): measured input power beyond its limit. -/
def execPowerLimit (overSecond : Bool) (watts : Nat) (s : State) : Host.Outcome State Fault Refusal :=
  done (
    let s' := if overSecond then { s with board := { s.board with watts1s := watts } }
      else { s with board := { s.board with watts20ms := watts } }
    if !s.board.pwrGood then s
    else if watts ≤ (if overSecond then 3150 else 3450) then s'
    else fatal s' 0x02F4 islandModule (if overSecond then 2 else 1) watts 0 0)

/-! ### Temperatures (R406) -/

/-- Warning, limit and trip of a sensor (R406 Table 8). -/
def thresholds : Sensor → Nat × Nat × Option Nat
  | .compute _ => (100, 105, some 115)
  | .io => (100, 105, some 115)
  | .hbm _ => (90, 95, some 105)
  | .stage => (110, 120, some 130)
  | .inlet => (40, 45, none)

def sensorValue (b : Board) : Sensor → Nat
  | .compute d => at' b.compute d.val 0
  | .io => b.io
  | .hbm k => at' b.hbm k.val 0
  | .stage => b.stage
  | .inlet => b.inlet

def setSensor (s : State) (x : Sensor) (c : Nat) : State :=
  match x with
  | .compute d => { s with board := { s.board with compute := s.board.compute.set d.val c } }
  | .io => { s with board := { s.board with io := c } }
  | .hbm k => { s with board := { s.board with hbm := s.board.hbm.set k.val c } }
  | .stage => { s with board := { s.board with stage := c } }
  | .inlet => { s with board := { s.board with inlet := c } }

/-- THERMAL_WARNING (R406): once each time the value rises through the threshold. -/
def execThermalWarning (sensor : Sensor) (celsius : Nat) (s : State) : Host.Outcome State Fault Refusal :=
  done (
    let before := sensorValue s.board sensor
    let w := (thresholds sensor).1
    let s := setSensor s sensor celsius
    if deviceRuns s && decide (before < w) && decide (w ≤ celsius) then
      tally s 0x02F2 islandModule 2 sensor.code sensor.index celsius 0
    else s)

/-- THERMAL_LIMIT (R406): a fatal error. -/
def execThermalLimit (sensor : Sensor) (celsius : Nat) (s : State) : Host.Outcome State Fault Refusal :=
  done (
    let s := setSensor s sensor celsius
    if (thresholds sensor).2.1 ≤ celsius then fatal s 0x02F3 islandModule sensor.code sensor.index celsius 0 else s)

/-- THERMAL_TRIP (R406): hardware shuts the power stage down. -/
def execThermalTrip (sensor : Sensor) (celsius : Nat) (s : State) : Host.Outcome State Fault Refusal :=
  done (
    let s := setSensor s sensor celsius
    match (thresholds sensor).2.2 with
    | some t => if t ≤ celsius && s.board.pwrGood then stageDown s .thermalTrip s.board.vinMv else s
    | none => s)

/-- DYNAMIC_ADDRESS_ASSIGNMENT (R396): the management bus gives the module its address. -/
def execDynamicAddressAssignment (address : BitVec 7) (s : State) : Host.Outcome State Fault Refusal :=
  done (if deviceRuns s then { s with board := { s.board with i3c := some address } } else s)

/-- What the power governor measures of current and power at this moment (R403): free values. -/
def measured (s : State) : Board :=
  { s.board with currentMa := Config.free 71 s.fresh, watts1s := Config.free 72 s.fresh, watts20ms := Config.free 73 s.fresh }

/-- POWER_STATUS (R377, R403, R406): voltage, current, power over 1 s and 20 ms, governor state, the shut-down step in progress
and the temperatures. What the governor's states are the manual does not say. -/
def execPowerStatus (m : Fin 64) (s : State) : Host.Outcome State Fault Refusal :=
  done (commandBare s m 0x0901 fun _ =>
    let b := measured s
    let v := freshValue { s with board := b } 70
    let temps := b.compute ++ [b.io] ++ b.hbm ++ [b.stage, b.inlet]
    respond v.2 m St.ok ([(32, b.vinMv), (32, b.currentMa), (32, b.watts1s), (32, b.watts20ms), (8, v.1), (8, s.dev.shutStep)] ++
      temps.map fun t => (8, t)) 0 0)

end Sys2Proof.Machine
end

