-- ==== Sys2Proof/Machine/Spdm.lean ====
section
/-!
DEFINITION. The SPDM responder (R365 to R367): version, capabilities, algorithms, certificates, challenge, measurements, and the two
class P requests.
Choices of the model, by log entry: 48 PRESUMED, 58 DEDUCED, 59 DEDUCED, 64 DESIGN CHOICE.
-/

namespace Sys2Proof.Machine

/-- Response and error codes of the SPDM specification, which this manual names and does not number. -/
def Spdm.errorCode : Nat := 0x7F
def Spdm.invalidRequest : Nat := 0x01
def Spdm.unexpectedRequest : Nat := 0x04
def Spdm.unspecified : Nat := 0x05
def Spdm.unsupportedRequest : Nat := 0x07

/-- Whether the responder answers over a transport (R366): the Foreman runs its firmware, in a state in which it answers more
than Table 3 of R348, and DOE needs the link. -/
def spdmReaches (s : State) (tr : Transport) : Bool :=
  decide (3 ≤ s.dev.stage) && s.dev.state != .off && s.dev.state != .halt && !s.dev.monitor && !s.dev.foremanDead &&
  (match tr with | .doe => s.link.up | .mctp => s.board.pwrGood)

/-- Gives a response. -/
def spdmAnswer (s : State) (code : Nat) (body : List Byte) : State :=
  { s with spdm := { s.spdm with code, body, transcript := s.spdm.transcript ++ body } }

/-- Gives an ERROR. -/
def spdmError (s : State) (code : Nat) : State := spdmAnswer s Spdm.errorCode (leBytes 1 code)

/-- A request after NEGOTIATE_ALGORITHMS has agreed. -/
def onSession (s : State) (tr : Transport) (go : State → State) : State :=
  if !spdmReaches s tr then s else if s.spdm.negotiated then go s else spdmError s Spdm.unexpectedRequest

/-- GET_VERSION (R366): version 1.4; it starts anew. -/
def execGetVersion (tr : Transport) (s : State) : Host.Outcome State Fault Refusal :=
  done (if spdmReaches s tr then spdmAnswer { s with spdm := {} } 0x04 (Config.spdmBody 0x04 (leBytes 1 0x14)) else s)

/-- GET_CAPABILITIES (R366): no secure sessions. -/
def execGetCapabilities (tr : Transport) (s : State) : Host.Outcome State Fault Refusal :=
  done (if spdmReaches s tr then spdmAnswer s 0x61 (Config.spdmBody 0x61 []) else s)

/-- NEGOTIATE_ALGORITHMS (R366): ML-DSA-44 and SHA3-256, or ERROR UnsupportedRequest. -/
def execNegotiateAlgorithms (tr : Transport) (mlDsa44 sha3 : Bool) (s : State) : Host.Outcome State Fault Refusal :=
  done (
    if !spdmReaches s tr then s
    else if mlDsa44 && sha3 then
      spdmAnswer { s with spdm := { s.spdm with negotiated := true } } 0x63 (Config.spdmBody 0x63 [])
    else spdmError s Spdm.unsupportedRequest)

/-- A certificate slot's chain. -/
def certAt (s : State) (k : Nat) : List Byte := at' s.flash.certs k []

/-- GET_DIGESTS (R366): SHA3-256 of each slot that holds a chain. -/
def execGetDigests (tr : Transport) (s : State) : Host.Outcome State Fault Refusal :=
  done (onSession s tr fun s =>
    let held := (List.range 8).filter fun k => !(certAt s k).isEmpty
    let mask := (held.map fun k => 2 ^ k).sum
    spdmAnswer s 0x01 (Config.spdmBody 0x01 (leBytes 1 mask ++ (held.map fun k => leBytes 32 (Config.sha3 (certAt s k)).toNat).flatten)))

/-- GET_CERTIFICATE (R366): a portion of a slot's chain. -/
def execGetCertificate (tr : Transport) (slot offset length : Nat) (s : State) : Host.Outcome State Fault Refusal :=
  done (onSession s tr fun s =>
    if 7 < slot || (certAt s slot).isEmpty || decide ((certAt s slot).length ≤ offset) then spdmError s Spdm.invalidRequest
    else spdmAnswer s 0x02 (Config.spdmBody 0x02 (((certAt s slot).drop offset).take length)))

/-- A request that signs with the identity key (R365): without it, ERROR Unspecified. -/
def withKey (s : State) (go : State → State) : State := if s.dev.identity then go s else spdmError s Spdm.unspecified

/-- A signed answer: the body and the signature over the transcript, the nonce and the body. -/
def signedAnswer (s : State) (code : Nat) (nonce body : List Byte) : State :=
  spdmAnswer s code (body ++ Config.mlDsaSign (s.spdm.transcript ++ nonce ++ body))

/-- CHALLENGE (R366). -/
def execChallenge (tr : Transport) (slot : Nat) (nonce : List Byte) (s : State) : Host.Outcome State Fault Refusal :=
  done (onSession s tr fun s =>
    if 7 < slot || (certAt s slot).isEmpty then spdmError s Spdm.invalidRequest
    else withKey s fun s => signedAnswer s 0x03 nonce (Config.spdmBody 0x03 (leBytes 32 (Config.sha3 (certAt s slot)).toNat)))

/-! ### Measurements (R366 Table 5) -/

/-- The committed configuration sets, concatenated in increasing set ID. -/
def setsBytes (s : State) : List Byte := ((List.range 6).map fun k => leBytes (setBytes (k + 1)) (committed s (k + 1))).flatten

/-- What the repair map holds, for the digest of its flash bytes, whose layout the manual does not give. -/
def repairContent (s : State) : List Byte :=
  (s.flash.groves.map fun g => leBytes 1 (GroveRole.code g.role) ++ leBytes 2 g.mismatches ++ leBytes 8 g.tiles ++
    (g.hist.map fun t => leBytes 8 t).flatten).flatten ++
  (s.flash.erasures.map fun e => leBytes 1 e.1 ++ leBytes 1 e.2.1 ++ leBytes 1 e.2.2).flatten ++
  (s.flash.second.map fun e => leBytes 1 e.1 ++ leBytes 1 e.2).flatten ++
  (s.flash.frames.map fun e => leBytes 1 e.1 ++ leBytes 1 e.2.1 ++ leBytes 2 e.2.2).flatten ++
  (s.flash.retired.map fun i => leBytes 2 i).flatten ++
  (s.flash.bist.map fun b => leBytes 64 (bistRecord s b.island)).flatten ++ leBytes 8 s.flash.powerOn ++ leBytes 8 s.flash.bistDone

/-- A measurement's digest. D and the fabric manifest are digests themselves. -/
def measurement (s : State) (i : Nat) : BitVec 256 :=
  match i with
  | 1 => Config.romDigest
  | 2 => Config.sha3 ((List.range 4).map fun k => leBytes 32 (Config.romKeyHash k).toNat).flatten
  | 3 => fwDigest s
  | 4 =>
    let x := fwSlot s (1 - s.dev.booted)
    Config.sha3 (leBytes 32 (fwDigestOf x.image).toNat ++ leBytes 1 (SlotState.code x.state))
  | 5 => Config.sha3 (leBytes 4 s.flash.minSecurity ++ leBytes 1 s.flash.revoked.toNat)
  | 6 => Config.sha3 (setsBytes s)
  | 7 => Config.sha3 (Config.spdmBody 0x107 (repairContent s))
  | 8 => Config.sha3 (Config.spdmBody 0x108 (leBytes 4 s.dev.referenceCause ++
      (testedIslands.map fun i => leBytes 16 (Config.misrReference i).toNat).flatten))
  | 9 => manifest s
  | _ => Config.sha3 (leBytes 1 s.dev.state.code ++ leBytes 8 s.dev.classP)

/-- GET_MEASUREMENTS (R366): index 0 gives their number, 1 to 10 one of them, 0xFF all. -/
def execGetMeasurements (tr : Transport) (index : Nat) (nonce : List Byte) (s : State) : Host.Outcome State Fault Refusal :=
  done (onSession s tr fun s =>
    let one (i : Nat) : List Byte := leBytes 1 i ++ leBytes 32 (measurement s i).toNat
    if index ≠ 0xFF ∧ 10 < index then spdmError s Spdm.invalidRequest
    else withKey s fun s => signedAnswer s 0x60 nonce (Config.spdmBody 0x60
      (if index = 0 then leBytes 1 10 else if index = 0xFF then ((List.range 10).map fun i => one (i + 1)).flatten else one index)))

/-- A class P request (R367): outside the window with SERVICE_L released, ERROR Unspecified and a PRESENCE_REFUSED record. -/
def withPresence (s : State) (code : Nat) (go : State → State) : State :=
  if presenceOpen s then go (countClassP s)
  else spdmError (tally s 0x02C2 islandForeman 2 0 code 0 0) Spdm.unspecified

/-- GET_CSR (R367). -/
def execGetCsr (tr : Transport) (s : State) : Host.Outcome State Fault Refusal :=
  done (onSession s tr fun s => withPresence s 0xED fun s => withKey s fun s => signedAnswer s 0x6D [] (Config.spdmBody 0x6D []))

/-- SET_CERTIFICATE (R367): slots 1 to 7, of 64 KiB each. -/
def execSetCertificate (tr : Transport) (slot : Nat) (chain : List Byte) (s : State) : Host.Outcome State Fault Refusal :=
  done (onSession s tr fun s => withPresence s 0xEE fun s =>
    if slot = 0 || decide (7 < slot) || decide (65536 < chain.length) then spdmError s Spdm.invalidRequest
    else
      let s := { s with flash := { s.flash with certs := s.flash.certs.set slot chain } }
      let s := tally s 0x02D5 islandForeman 2 slot chain.length 0 0
      spdmAnswer s 0x6E (Config.spdmBody 0x6E (leBytes 1 slot)))

end Sys2Proof.Machine
end

