-- ==== Sys2Proof/Machine/Dispatch.lean ====
section
/-!
DEFINITION. One arm for each command: a direct call of its meaning.
Choices of the model, by log entry: 6 DESIGN CHOICE.
-/

namespace Sys2Proof.Machine

def exec (i : Instr) (s : State) : Host.Outcome State Fault Refusal :=
  match i with
  | .mbxDoorbell m part => Sys2Proof.Machine.execMbxDoorbell m part s
  | .timeLoRead => Sys2Proof.Machine.execTimeLoRead s
  | .sluicePiWrite st v => Sys2Proof.Machine.execSluicePiWrite st v s
  | .registerWrite offset data => Sys2Proof.Machine.execRegisterWrite offset data s
  | .aditAccess offset acc errs => Sys2Proof.Machine.execAditAccess offset acc errs s
  | .fullMapAccess offset acc errs => Sys2Proof.Machine.execFullMapAccess offset acc errs s
  | .placementAccess offset acc => Sys2Proof.Machine.execPlacementAccess offset acc s
  | .configRequest req => Sys2Proof.Machine.execConfigRequest req s
  | .unsupportedRequest => Sys2Proof.Machine.execUnsupportedRequest s
  | .d3hotEntry => Sys2Proof.Machine.execD3hotEntry s
  | .d0Return => Sys2Proof.Machine.execD0Return s
  | .busMasterDisable => Sys2Proof.Machine.execBusMasterDisable s
  | .msixHeldRelease cause => Sys2Proof.Machine.execMsixHeldRelease cause s
  | .functionLevelReset => Sys2Proof.Machine.execFunctionLevelReset s
  | .hotReset => Sys2Proof.Machine.execHotReset s
  | .linkDisable => Sys2Proof.Machine.execLinkDisable s
  | .resetAssert pin timeLeft => Sys2Proof.Machine.execResetAssert pin timeLeft s
  | .perstRelease part => Sys2Proof.Machine.execPerstRelease part s
  | .fwTrialTimeout => Sys2Proof.Machine.execFwTrialTimeout s
  | .dlDown ltssm => Sys2Proof.Machine.execDlDown ltssm s
  | .dlUp speed width => Sys2Proof.Machine.execDlUp speed width s
  | .holdOffExpiry => Sys2Proof.Machine.execHoldOffExpiry s
  | .linkRetrained speed width => Sys2Proof.Machine.execLinkRetrained speed width s
  | .hostAccessError cause address tr => Sys2Proof.Machine.execHostAccessError cause address tr s
  | .t3Shortfall bytes lag index object => Sys2Proof.Machine.execT3Shortfall bytes lag index object s
  | .identify m => Sys2Proof.Machine.execIdentify m s
  | .groveStatus m p => Sys2Proof.Machine.execGroveStatus m p s
  | .stackStatus m p => Sys2Proof.Machine.execStackStatus m p s
  | .enterState m p => Sys2Proof.Machine.execEnterState m p s
  | .fwStage m p => Sys2Proof.Machine.execFwStage m p s
  | .fwInstall m p => Sys2Proof.Machine.execFwInstall m p s
  | .fwActivate m p => Sys2Proof.Machine.execFwActivate m p s
  | .fwQuery m => Sys2Proof.Machine.execFwQuery m s
  | .registerHost m p => Sys2Proof.Machine.execRegisterHost m p s
  | .unregisterHost m p => Sys2Proof.Machine.execUnregisterHost m p s
  | .aditMap m p => Sys2Proof.Machine.execAditMap m p s
  | .aditUnmap m p => Sys2Proof.Machine.execAditUnmap m p s
  | .placeBind m p => Sys2Proof.Machine.execPlaceBind m p s
  | .placeUnbind m p => Sys2Proof.Machine.execPlaceUnbind m p s
  | .t3Probe m p out back => Sys2Proof.Machine.execT3Probe m p out back s
  | .scaleRead m p => Sys2Proof.Machine.execScaleRead m p s
  | .kvClose m p => Sys2Proof.Machine.execKvClose m p s
  | .kvPin m p => Sys2Proof.Machine.execKvPin m p s
  | .kvUnpin m p => Sys2Proof.Machine.execKvUnpin m p s
  | .spillRead m p => Sys2Proof.Machine.execSpillRead m p s
  | .contextCreate m => Sys2Proof.Machine.execContextCreate m s
  | .contextRelease m => Sys2Proof.Machine.execContextRelease m s
  | .loadImage m fetch => Sys2Proof.Machine.execLoadImage m fetch s
  | .unloadImage m p => Sys2Proof.Machine.execUnloadImage m p s
  | .submit m => Sys2Proof.Machine.execSubmit m s
  | .stepStatus m p => Sys2Proof.Machine.execStepStatus m p s
  | .updateParams m p => Sys2Proof.Machine.execUpdateParams m p s
  | .jobCounters m p => Sys2Proof.Machine.execJobCounters m p s
  | .jobOpen m p => Sys2Proof.Machine.execJobOpen m p s
  | .join m p peers => Sys2Proof.Machine.execJoin m p peers s
  | .leave m p => Sys2Proof.Machine.execLeave m p s
  | .portStatus m p => Sys2Proof.Machine.execPortStatus m p s
  | .drillStart m => Sys2Proof.Machine.execDrillStart m s
  | .drillStop m => Sys2Proof.Machine.execDrillStop m s
  | .configure m agree => Sys2Proof.Machine.execConfigure m agree s
  | .restore m p copy => Sys2Proof.Machine.execRestore m p copy s
  | .shoringStatus m p => Sys2Proof.Machine.execShoringStatus m p s
  | .sluiceOpen m => Sys2Proof.Machine.execSluiceOpen m s
  | .sluiceClose m p => Sys2Proof.Machine.execSluiceClose m p s
  | .substitute m p sample => Sys2Proof.Machine.execSubstitute m p sample s
  | .stats m => Sys2Proof.Machine.execStats m s
  | .powerStatus m => Sys2Proof.Machine.execPowerStatus m s
  | .bistRun m p sigs => Sys2Proof.Machine.execBistRun m p sigs s
  | .bistResult m p => Sys2Proof.Machine.execBistResult m p s
  | .retire m p => Sys2Proof.Machine.execRetire m p s
  | .unretire m p => Sys2Proof.Machine.execUnretire m p s
  | .repairEdit m p => Sys2Proof.Machine.execRepairEdit m p s
  | .margin m p windows => Sys2Proof.Machine.execMargin m p windows s
  | .tallyRead m p => Sys2Proof.Machine.execTallyRead m p s
  | .tallyClear m => Sys2Proof.Machine.execTallyClear m s
  | .configStage m p => Sys2Proof.Machine.execConfigStage m p s
  | .configCommit m p => Sys2Proof.Machine.execConfigCommit m p s
  | .configRead m p => Sys2Proof.Machine.execConfigRead m p s
  | .configDiscard m p => Sys2Proof.Machine.execConfigDiscard m p s
  | .getVersion tr => Sys2Proof.Machine.execGetVersion tr s
  | .getCapabilities tr => Sys2Proof.Machine.execGetCapabilities tr s
  | .negotiateAlgorithms tr mlDsa44 sha3 => Sys2Proof.Machine.execNegotiateAlgorithms tr mlDsa44 sha3 s
  | .getDigests tr => Sys2Proof.Machine.execGetDigests tr s
  | .getCertificate tr slot offset length => Sys2Proof.Machine.execGetCertificate tr slot offset length s
  | .challenge tr slot nonce => Sys2Proof.Machine.execChallenge tr slot nonce s
  | .getMeasurements tr index nonce => Sys2Proof.Machine.execGetMeasurements tr index nonce s
  | .getCsr tr => Sys2Proof.Machine.execGetCsr tr s
  | .setCertificate tr slot chain => Sys2Proof.Machine.execSetCertificate tr slot chain s
  | .presenceButtonPress heldNs => Sys2Proof.Machine.execPresenceButtonPress heldNs s
  | .presenceWindowExpiry => Sys2Proof.Machine.execPresenceWindowExpiry s
  | .serviceLChange held => Sys2Proof.Machine.execServiceLChange held s
  | .shdnReq asserted => Sys2Proof.Machine.execShdnReq asserted s
  | .shutdownBegin => Sys2Proof.Machine.execShutdownBegin s
  | .shutdownAfterSteps sigs ms => Sys2Proof.Machine.execShutdownAfterSteps sigs ms s
  | .powerApplied mv => Sys2Proof.Machine.execPowerApplied mv s
  | .vinPresentLost mv => Sys2Proof.Machine.execVinPresentLost mv s
  | .inputOutOfRange mv heldNs => Sys2Proof.Machine.execInputOutOfRange mv heldNs s
  | .inputInRange mv heldNs => Sys2Proof.Machine.execInputInRange mv heldNs s
  | .powerStageShutdown cause mv => Sys2Proof.Machine.execPowerStageShutdown cause mv s
  | .faultLatchClear belowNs => Sys2Proof.Machine.execFaultLatchClear belowNs s
  | .powerLimit overSecond watts => Sys2Proof.Machine.execPowerLimit overSecond watts s
  | .thermalWarning sensor celsius => Sys2Proof.Machine.execThermalWarning sensor celsius s
  | .thermalLimit sensor celsius => Sys2Proof.Machine.execThermalLimit sensor celsius s
  | .thermalTrip sensor celsius => Sys2Proof.Machine.execThermalTrip sensor celsius s
  | .stepStart => Sys2Proof.Machine.execStepStart s
  | .contextSwitch => Sys2Proof.Machine.execContextSwitch s
  | .stepComplete => Sys2Proof.Machine.execStepComplete s
  | .readmission => Sys2Proof.Machine.execReadmission s
  | .instanceComplete k => Sys2Proof.Machine.execInstanceComplete k s
  | .matmul k => Sys2Proof.Machine.execMatmul k s
  | .conv k => Sys2Proof.Machine.execConv k s
  | .filterLoad k => Sys2Proof.Machine.execFilterLoad k s
  | .attnScore k => Sys2Proof.Machine.execAttnScore k s
  | .attnApply k => Sys2Proof.Machine.execAttnApply k s
  | .kvAppend k => Sys2Proof.Machine.execKvAppend k s
  | .kvSelect k => Sys2Proof.Machine.execKvSelect k s
  | .vec k => Sys2Proof.Machine.execVec k s
  | .vecRun g k q part => Sys2Proof.Machine.execVecRun g k q part s
  | .update k => Sys2Proof.Machine.execUpdate k s
  | .reduce k => Sys2Proof.Machine.execReduce k s
  | .gather k => Sys2Proof.Machine.execGather k s
  | .move k => Sys2Proof.Machine.execMove k s
  | .derivedMove kind object arrival => Sys2Proof.Machine.execDerivedMove kind object arrival s
  | .sluiceTake k => Sys2Proof.Machine.execSluiceTake k s
  | .recompute k => Sys2Proof.Machine.execRecompute k s
  | .scaleSync k parts => Sys2Proof.Machine.execScaleSync k parts s
  | .barrier k => Sys2Proof.Machine.execBarrier k s
  | .normCollective others => Sys2Proof.Machine.execNormCollective others s
  | .versionConfirm mb answers => Sys2Proof.Machine.execVersionConfirm mb answers s
  | .islandSleep island gap sramNeeded busyInGap => Sys2Proof.Machine.execIslandSleep island gap sramNeeded busyInGap s
  | .islandWake island => Sys2Proof.Machine.execIslandWake island s
  | .arrayMismatch g where_ row error => Sys2Proof.Machine.execArrayMismatch g where_ row error s
  | .spareWarm g => Sys2Proof.Machine.execSpareWarm g s
  | .saplingMismatch die position group index error => Sys2Proof.Machine.execSaplingMismatch die position group index error s
  | .patrolScrubSlice stack errs => Sys2Proof.Machine.execPatrolScrubSlice stack errs s
  | .sampleStart st unit entry sample => Sys2Proof.Machine.execSampleStart st unit entry sample s
  | .sampleStaged st unit sample => Sys2Proof.Machine.execSampleStaged st unit sample s
  | .sampleOverrun st unit => Sys2Proof.Machine.execSampleOverrun st unit s
  | .sampleLate st position => Sys2Proof.Machine.execSampleLate st position s
  | .portLinkUp port credits => Sys2Proof.Machine.execPortLinkUp port credits s
  | .manifestReceive port far lendGib => Sys2Proof.Machine.execManifestReceive port far lendGib s
  | .flitSend port cls last payload => Sys2Proof.Machine.execFlitSend port cls last payload s
  | .flitReceive port flit fecOk => Sys2Proof.Machine.execFlitReceive port flit fecOk s
  | .retryRequest port seq => Sys2Proof.Machine.execRetryRequest port seq s
  | .portSilence port => Sys2Proof.Machine.execPortSilence port s
  | .portFailed port env => Sys2Proof.Machine.execPortFailed port env s
  | .drillPortDownEnd port => Sys2Proof.Machine.execDrillPortDownEnd port s
  | .chunkReceive h data => Sys2Proof.Machine.execChunkReceive h data s
  | .chunkAck h => Sys2Proof.Machine.execChunkAck h s
  | .entryRoundMessage job step parts waitNs => Sys2Proof.Machine.execEntryRoundMessage job step parts waitNs s
  | .jobOpenCompare device box shoring => Sys2Proof.Machine.execJobOpenCompare device box shoring s
  | .stagePlanPublish job stage times => Sys2Proof.Machine.execStagePlanPublish job stage times s
  | .securingAnnounce job step => Sys2Proof.Machine.execSecuringAnnounce job step s
  | .securing job arrival hostOk => Sys2Proof.Machine.execSecuring job arrival hostOk s
  | .memberFailed job device answered => Sys2Proof.Machine.execMemberFailed job device answered s
  | .failureAnnounce job device fetched us => Sys2Proof.Machine.execFailureAnnounce job device fetched us s
  | .reencodingAnnounce job step => Sys2Proof.Machine.execReencodingAnnounce job step s
  | .hdr g w => Sys2Proof.Machine.execHdr g w s
  | .vloop g f => Sys2Proof.Machine.execVloop g f s
  | .vendloop g f => Sys2Proof.Machine.execVendloop g f s
  | .vnop g f => Sys2Proof.Machine.execVnop g f s
  | .iadd g f => Sys2Proof.Machine.execIadd g f s
  | .isub g f => Sys2Proof.Machine.execIsub g f s
  | .imul g f => Sys2Proof.Machine.execImul g f s
  | .imin g f => Sys2Proof.Machine.execImin g f s
  | .imax g f => Sys2Proof.Machine.execImax g f s
  | .vand g f => Sys2Proof.Machine.execVand g f s
  | .vor g f => Sys2Proof.Machine.execVor g f s
  | .vxor g f => Sys2Proof.Machine.execVxor g f s
  | .shl g f => Sys2Proof.Machine.execShl g f s
  | .shr g f => Sys2Proof.Machine.execShr g f s
  | .sra g f => Sys2Proof.Machine.execSra g f s
  | .iaddi g f => Sys2Proof.Machine.execIaddi g f s
  | .movi g f => Sys2Proof.Machine.execMovi g f s
  | .movs g f => Sys2Proof.Machine.execMovs g f s
  | .laneid g f => Sys2Proof.Machine.execLaneid g f s
  | .vmov g f => Sys2Proof.Machine.execVmov g f s
  | .smovi g f => Sys2Proof.Machine.execSmovi g f s
  | .sadd g f => Sys2Proof.Machine.execSadd g f s
  | .saddi g f => Sys2Proof.Machine.execSaddi g f s
  | .ssub g f => Sys2Proof.Machine.execSsub g f s
  | .smul g f => Sys2Proof.Machine.execSmul g f s
  | .sshli g f => Sys2Proof.Machine.execSshli g f s
  | .sshri g f => Sys2Proof.Machine.execSshri g f s
  | .sand g f => Sys2Proof.Machine.execSand g f s
  | .sor g f => Sys2Proof.Machine.execSor g f s
  | .fadd g f => Sys2Proof.Machine.execFadd g f s
  | .fsub g f => Sys2Proof.Machine.execFsub g f s
  | .fmul g f => Sys2Proof.Machine.execFmul g f s
  | .fma g f => Sys2Proof.Machine.execFma g f s
  | .fmin g f => Sys2Proof.Machine.execFmin g f s
  | .fmax g f => Sys2Proof.Machine.execFmax g f s
  | .fabs g f => Sys2Proof.Machine.execFabs g f s
  | .fneg g f => Sys2Proof.Machine.execFneg g f s
  | .fsqrt g f => Sys2Proof.Machine.execFsqrt g f s
  | .frcp g f => Sys2Proof.Machine.execFrcp g f s
  | .frsqrt g f => Sys2Proof.Machine.execFrsqrt g f s
  | .fmuli g f => Sys2Proof.Machine.execFmuli g f s
  | .fexp g f => Sys2Proof.Machine.execFexp g f s
  | .fexp2 g f => Sys2Proof.Machine.execFexp2 g f s
  | .flog g f => Sys2Proof.Machine.execFlog g f s
  | .flog2 g f => Sys2Proof.Machine.execFlog2 g f s
  | .fsin g f => Sys2Proof.Machine.execFsin g f s
  | .fcos g f => Sys2Proof.Machine.execFcos g f s
  | .ftanh g f => Sys2Proof.Machine.execFtanh g f s
  | .fsig g f => Sys2Proof.Machine.execFsig g f s
  | .ferf g f => Sys2Proof.Machine.execFerf g f s
  | .fcmp g f => Sys2Proof.Machine.execFcmp g f s
  | .icmp g f => Sys2Proof.Machine.execIcmp g f s
  | .ucmp g f => Sys2Proof.Machine.execUcmp g f s
  | .sel g f => Sys2Proof.Machine.execSel g f s
  | .pand g f => Sys2Proof.Machine.execPand g f s
  | .por g f => Sys2Proof.Machine.execPor g f s
  | .pnot g f => Sys2Proof.Machine.execPnot g f s
  | .plt g f => Sys2Proof.Machine.execPlt g f s
  | .pcnt g f => Sys2Proof.Machine.execPcnt g f s
  | .cvtif g f => Sys2Proof.Machine.execCvtif g f s
  | .cvtfi g f => Sys2Proof.Machine.execCvtfi g f s
  | .vscale g f => Sys2Proof.Machine.execVscale g f s
  | .cvtfh g f => Sys2Proof.Machine.execCvtfh g f s
  | .cvthf g f => Sys2Proof.Machine.execCvthf g f s
  | .qblk g f => Sys2Proof.Machine.execQblk g f s
  | .dqblk g f => Sys2Proof.Machine.execDqblk g f s
  | .pack g f => Sys2Proof.Machine.execPack g f s
  | .unpack g f => Sys2Proof.Machine.execUnpack g f s
  | .rsum g f => Sys2Proof.Machine.execRsum g f s
  | .rmax g f => Sys2Proof.Machine.execRmax g f s
  | .riadd g f => Sys2Proof.Machine.execRiadd g f s
  | .rimax g f => Sys2Proof.Machine.execRimax g f s
  | .scan g f => Sys2Proof.Machine.execScan g f s
  | .shuf g f => Sys2Proof.Machine.execShuf g f s
  | .rot g f => Sys2Proof.Machine.execRot g f s
  | .lane g f => Sys2Proof.Machine.execLane g f s
  | .vins g f => Sys2Proof.Machine.execVins g f s
  | .vld g f => Sys2Proof.Machine.execVld g f s
  | .vst g f => Sys2Proof.Machine.execVst g f s
  | .ldq g f => Sys2Proof.Machine.execLdq g f s
  | .stq g f => Sys2Proof.Machine.execStq g f s
  | .lds g f => Sys2Proof.Machine.execLds g f s
  | .sts g f => Sys2Proof.Machine.execSts g f s
  | .ldx g f => Sys2Proof.Machine.execLdx g f s
  | .stx g f => Sys2Proof.Machine.execStx g f s
  | .ctr g f => Sys2Proof.Machine.execCtr g f s
  | .ctr4 g f => Sys2Proof.Machine.execCtr4 g f s
  | .unif g f => Sys2Proof.Machine.execUnif g f s
  | .presenceButtonRelease heldNs => Sys2Proof.Machine.execPresenceButtonRelease heldNs s
  | .foremanFatal => Sys2Proof.Machine.execForemanFatal s
  | .tierLending port op => Sys2Proof.Machine.execTierLending port op s
  | .versionConfirmRequest device ctx mb object version => Sys2Proof.Machine.execVersionConfirmRequest device ctx mb object version s
  | .leaveNotice job device => Sys2Proof.Machine.execLeaveNotice job device s
  | .jobStepQuery job device box => Sys2Proof.Machine.execJobStepQuery job device box s
  | .memberQuery job device => Sys2Proof.Machine.execMemberQuery job device s
  | .failoverExchange port device env => Sys2Proof.Machine.execFailoverExchange port device env s
  | .doeDiscovery index => Sys2Proof.Machine.execDoeDiscovery index s
  | .dynamicAddressAssignment address => Sys2Proof.Machine.execDynamicAddressAssignment address s

end Sys2Proof.Machine
end

