-- ==== Sys2Proof/Machine/Step.lean ====
section
/-!
DEFINITION. One step: the command at the front of the queue, or one tick of device time.
Choices of the model, by log entry: 2 DESIGN CHOICE, 4 DESIGN CHOICE.
-/

namespace Sys2Proof.Machine

/-- Takes the command at the front of the queue and answers exec on the state with the queue's rest.
On an empty queue the block idles for one nanosecond of device time (R6). -/
def step (s : State) : Host.Outcome State Fault Refusal :=
  match s.pending with
  | [] => .next (idle s)
  | c :: rest => exec c { s with pending := rest }

/-- The state with the command that a table word spells at the front of its queue. No row of the table gives
bits, so no word spells a command. -/
def State.withFetchWord (s : State) (nbits w : Nat) : State :=
  match decodeTableWord nbits w with
  | some c => { s with pending := c :: s.pending }
  | none => s

end Sys2Proof.Machine
end

