-- ==== Sys2Proof/Safety.lean ====
section
/-!
DEFINITION. What the statements speak of: the shape that registers and tables keep, the canonical form of the byte
memories, the changes of device state that R371 gives, and what it means that a command in progress is answered.
-/

namespace Sys2Proof

/-- The events of R371 Table 2 that take a device of any state but OFF to OFF and on to START: PERST# or RESET_L, Function
Level Reset, Hot Reset, link disable, and the host link lost past its hold-off. -/
def Instr.resets : Instr → Bool
  | .resetAssert _ _ => true
  | .functionLevelReset => true
  | .hotReset => true
  | .linkDisable => true
  | .holdOffExpiry => true
  | _ => false

/-- The events of R371 Table 2 that remove power: the input, or the power stage's own shut-down (R400, R402, R406). -/
def Instr.cutsPower : Instr → Bool
  | .vinPresentLost _ => true
  | .powerStageShutdown _ _ => true
  | .thermalTrip _ _ => true
  | _ => false

/-- The states in which firmware serves commands and start-up is over. -/
def DevState.served : DevState → Bool
  | .service => true
  | .test => true
  | .recovery => true
  | _ => false

/-- The changes of device state that R371 Table 2 gives a command, together with the failed trial of R363, which
starts again. -/
def Instr.mayChange (c : Instr) (a b : DevState) : Prop :=
  a = b ∨
  (b = .halt ∧ a ≠ .off) ∨
  (c.resets = true ∧ a ≠ .off ∧ (b = .off ∨ b = .start)) ∨
  (c.cutsPower = true ∧ b = .off) ∨
  (∃ mv, c = .powerApplied mv ∧ b = .start) ∨
  (∃ p, c = .perstRelease p ∧ ((a = .off ∧ b = .start) ∨ a = .start)) ∨
  (∃ m p, c = .enterState m p ∧ a.served = true ∧ b.served = true) ∨
  (∃ x n, c = .shutdownAfterSteps x n ∧ a ≠ .off ∧ a ≠ .halt ∧ b = .off) ∨
  (c = .fwTrialTimeout ∧ a ≠ .off ∧ a ≠ .halt ∧ b = .start)

end Sys2Proof

namespace Sys2Proof.Machine

/-- Every table has the number of entries that the manual gives it: 64 mailboxes (R338), 6 configuration sets (R354), 128
groves (R11), 16 stacks (R11), 16 streams (R250), 20 fabric ports (R270), 64 MSI-X entries with their pending bits (R319),
two firmware slots (R362), and the repair map's 128 groves (R111). -/
def State.shaped (s : State) : Prop :=
  s.mbx.length = 64 ∧ s.cfg.length = 6 ∧ s.groves.length = 128 ∧ s.hbm.length = 16 ∧ s.streams.length = 16 ∧
  s.fabric.ports.length = 20 ∧ s.link.table.length = 64 ∧ s.link.pendingBits.length = 64 ∧ s.flash.slots.length = 2 ∧
  s.flash.groves.length = 128

/-- The byte memories that the host reaches hold their canonical form: stacked memory (R202), the firmware staging buffer
and slots (R362, R363), bound placement slots (R328) and the mailbox request pages (R338). -/
def State.memoryOk (s : State) : Prop :=
  Mem.wf s.mem.dram = true ∧ Mem.wf s.mem.fwBuffer = true ∧
  (∀ x ∈ s.flash.slots, Mem.wf x.image = true) ∧ (∀ p ∈ s.mem.placements, Mem.wf p.data = true) ∧
  (∀ b ∈ s.mbx, Mem.wf b.request = true)

/-- The response header that ends command `w` in state `s` (R340 Table 2). -/
def answerHeader (s : State) (w : Work) (status : Nat) (payload : Resp) (detail detail2 : Nat) : RespHeader :=
  { opcode := w.opcode, status, seq := w.seq, ctx := w.ctx, busy := false, replay := false, valid := true,
    length := Resp.length payload, detail, detail2, doorbell := w.tD, done := s.time }

/-- The message on a mailbox's vector: none with NO_IRQ, kept pending while the vector is held, else sent (R319, R340). -/
def signalled (s : State) (m : Nat) (w : Work) : Link :=
  if w.noIrq then s.link
  else if s.link.holds (mailboxVector m) then { s.link with pendingBits := s.link.pendingBits.set (mailboxVector m) true }
  else { s.link with sent := s.link.sent ++ [mailboxVector m] }

/-- `s` with command `w` of mailbox m ended: the header, the payload, no command in progress, the response first of those kept
(R342), and the message. Nothing else differs from `s`. -/
def finished (s : State) (m : Nat) (w : Work) (status : Nat) (payload : Resp) (detail detail2 : Nat) : State :=
  let h := answerHeader s w status payload detail detail2
  { s with
    mbx := s.mbx.modify m fun b =>
      { b with header := h, payload,
               stored := (⟨w.seq, w.opcode, w.ctx, w.length, w.crc, h, payload⟩ :: b.stored).take 64, work := none }
    link := signalled s m w }

/-- A request whose latch the Foreman may read now: it answers, the mailboxes are enabled (R373, R374), the latch is set. -/
def takes (s : State) (m : Nat) : Prop :=
  (mbxAt s m).latch = true ∧ s.dev.foremanDead = false ∧ 3 ≤ s.dev.stage ∧ s.dev.state ≠ .off

/-- The request on mailbox m's page as the Foreman copies it at T_D (R339). -/
def requestOf (s : State) (m : Nat) : Work :=
  let page := (mbxAt s m).request
  let q := reqHeader page
  ⟨q.opcode, q.seq, q.ctx, q.noIrq, q.length, crc32c (Mem.bytes page 64 q.length), s.time, presenceOpen s, page,
    s.cfg.map fun c => c.gen⟩

/-- `s` with the request of mailbox m begun: latch read, h advanced, BUSY shown (R340, R342). -/
def begun (s : State) (m : Nat) : State :=
  { s with mbx := s.mbx.modify m fun b =>
      { b with latch := false, high := some (requestOf s m).seq, work := some (requestOf s m),
               header := { seq := (requestOf s m).seq, busy := true, valid := b.header.valid } } }

/-- Checks 1 to 5 of R341 and the range of CONTEXT pass for the request of mailbox m. -/
def passes (s : State) (m : Nat) : Prop :=
  let w := requestOf s m
  headerFails (mbxAt s m).request = none ∧ classify (mbxAt s m).high w.seq = .new ∧
  (∃ states, commandStates w.opcode = some states ∧ stateAllows s w.opcode states = true) ∧
  (classPOpcodes.contains w.opcode = true → presenceOpen s = true) ∧
  (if ctxOpcodes.contains w.opcode then w.ctx ≤ 4095 else w.ctx = 0)

/-! ### Instances of the running step (R55) -/

/-- Instance i may start: the context switch is over (R246), the instance exists, has not started, and its micro-batch is not
dropped (R56, R59); an UPDATE has the norm and the securing before it, and no retained version in its way (R185, R197, R303);
every predecessor is complete (R55, R57), the accumulating writes before its own are made (R58), the versions that it needs are
confirmed (R197), its operands are in T1 (R241), and the schedule lets it start (R73). -/
def startable (s : State) (r : Run) (i : InstId) (d : Desc) : Prop :=
  r.switched = true ∧ validInst r.adm.image i = true ∧ i ∉ r.executed ∧
  ¬ ((mbLoopOf r.adm.image d).isSome ∧ i.mb ∈ r.dropped) ∧
  (d.opcode = 8 → r.norm.isSome ∧ (r.adm.securing = true → r.secured = true) ∧
    retainedBlocks s r.adm.ctx (d.opr 0).object = false) ∧
  (∀ j ∈ predsOf r.adm.image i, instDone r j = true) ∧ accumulateWaits r i d = false ∧ confirmWaits r i d = false ∧
  operandsPresent s r i d = true ∧ planFree s r (.inst i) = true

/-- `t` is `s` with instance i executed, whole and once, by the effect `go` on its length table as it is read now (R55, R61): the
instance is among the executed ones of the same step, and none is complete that was not. -/
def executes (s : State) (r : Run) (i : InstId) (d : Desc) (go : Run → Desc → State → State) (t : State) : Prop :=
  t = startInstance s r i d go ∧
  ∃ x, t.sched.run = some x ∧ x.executed = i :: r.executed ∧ x.complete = r.complete ∧ x.adm = r.adm

/-! ### Vector engines (R113, R123) -/

/-- The shape of a vector engine: 32 vector registers of 256 lanes, 16 scalar registers, 8 predicates, and scratch words in
rising order. -/
def VecEngine.shaped (e : VecEngine) : Prop :=
  e.v.length = 32 ∧ (∀ l ∈ e.v, l.length = 256) ∧ e.s.length = 16 ∧ e.p.length = 8 ∧
    e.scratch.Pairwise fun x y => x.1 < y.1

/-- Lane l of vector register r. -/
def VecEngine.lane (e : VecEngine) (r : BitVec 5) (l : Nat) : Word := at' (e.vreg r) l 0

/-- Vector register r under R123: an active lane takes its result, an inactive one keeps its value or becomes zero with ZM. -/
def VecEngine.lanes (e : VecEngine) (f : VFields) (r : Nat) (op : Nat → Word) : VecEngine :=
  { e with v := e.v.set r ((List.range 256).map fun l =>
      if (e.active f).testBit l then op l else if f.zm then 0 else at' (at' e.v r zeroLanes) l 0) }

/-- Predicate r takes a truth value in each lane; p0 stays as it is. -/
def VecEngine.truths (e : VecEngine) (r : Nat) (op : Nat → Bool) : VecEngine :=
  if r = 0 then e else { e with p := e.p.set r (BitVec.ofNat 256 (predOf ((List.range 256).map op))) }

/-- `s` with the engine of grove g replaced by `e` and its next word reached. -/
def vecNext (s : State) (g : Nat) (e : VecEngine) : State := setVec s g { e with pc := e.pc + 1 }

end Sys2Proof.Machine
end

