-- ==== Sys2Proof/Certificates/Slice0/Obligations.lean ====
section
/-!
DEFINITION. What the provers are asked to prove of the model, by the rules of the manual.
-/

open Sys2Proof Sys2Proof.Machine

/-! ### The block as a whole -/

/-- A step takes the command at the front of the queue and answers exec on the state with the queue's rest.
On an empty queue one nanosecond of device time passes while PWR_GOOD stands, and nothing else happens (the model's
choice, log entry 2). -/
def Obligations.StepRunsFrontCommand : Prop :=
  (∀ (s : State) (c : Instr) (rest : List Instr), s.pending = c :: rest → step s = exec c { s with pending := rest }) ∧
  (∀ s : State, s.pending = [] → step s = .next (if s.board.pwrGood then { s with time := s.time + 1 } else s))

/-- The state right after reset has an empty queue, and the shape, the canonical memories, the engines and the generations of
the invariants. -/
def Obligations.ResetHoldsInvariants : Prop :=
  State.reset.pending = [] ∧ State.reset.shaped ∧ State.reset.memoryOk ∧ (∀ x ∈ State.reset.vec, x.2.shaped) ∧
    ∀ c ∈ State.reset.cfg, c.forceGen ≤ c.gen

/-- Every command answers a next state in every state: no command and no data end a run.
No command touches the queue of waiting commands. -/
def Obligations.EveryCommandAnswersNext : Prop :=
  (∀ (c : Instr) (s : State), ∃ t, exec c s = .next t) ∧
  (∀ (c : Instr) (s t : State), exec c s = .next t → t.pending = s.pending)

/-- Every step keeps the number of mailboxes, configuration sets, groves, stacks, streams, ports, MSI-X entries, firmware
slots and repair-map groves.
Every vector engine keeps its 32 registers of 256 lanes, 16 scalars, 8 predicates and scratch words in rising order, whatever step the device takes. -/
def Obligations.StepKeepsShape : Prop :=
  (∀ s t : State, s.shaped → step s = .next t → t.shaped) ∧
  (∀ s t : State, (∀ x ∈ s.vec, x.2.shaped) → step s = .next t → ∀ x ∈ t.vec, x.2.shaped)

/-- Every step keeps stacked memory, the firmware staging buffer and slots, the placement slots and the request pages in
canonical form. -/
def Obligations.StepKeepsMemoryCanonical : Prop := ∀ s t : State, s.memoryOk → step s = .next t → t.memoryOk

/-- No set's generation in force is ahead of its committed one, in whatever state a step starts (R353). -/
def Obligations.StepKeepsForceBehindCommit : Prop :=
  ∀ s t : State, (∀ c ∈ s.cfg, c.forceGen ≤ c.gen) → step s = .next t → ∀ c ∈ t.cfg, c.forceGen ≤ c.gen

/-- Table 2 of R371: what each command may do to the device state, in every state. HALT is left only by a reset or a loss of
power, and OFF only for START. -/
def Obligations.DeviceStateFollowsTable2 : Prop :=
  ∀ (c : Instr) (s t : State), exec c s = .next t → c.mayChange s.dev.state t.dev.state

/-! ### The mailbox protocol -/

/-- Ringing a mailbox (R339): the latch is set, unless the response header shows BUSY, where the ring is recorded (0x02C0)
and the latch and every mailbox stay as they are.
Reading the latch (R339, R340, R342): a request that passes checks 1 to 5 is copied, BUSY is shown with its SEQ and VALID
as before, h advances, and the request stays in progress. Class P requests count towards measurement 10. -/
def Obligations.RingsAndTakesBeginCommands : Prop :=
  (∀ (m : Fin 64) (s : State), hostReaches s = true →
    ((mbxAt s m).header.busy = false →
      exec (.mbxDoorbell m .ring) s = .next { s with
        mbx := s.mbx.modify m fun b => { b with latch := true }
        regs := { s.regs with reply := .written } }) ∧
    ((mbxAt s m).header.busy = true →
      ∃ t, exec (.mbxDoorbell m .ring) s = .next t ∧ t.mbx = s.mbx ∧ t.regs = { s.regs with reply := .written } ∧
        t.tally = s.tally.event ⟨0x02C0, islandForeman, 1, s.time, 0, 0, m, Mem.le (mbxAt s m).request 4 4 % 2 ^ 32,
          (mbxAt s m).header.seq.toNat, 0⟩)) ∧
  (∀ (m : Fin 64) (s : State), takes s m → passes s m →
    exec (.mbxDoorbell m .take) s = .next
      (if classPOpcodes.contains (requestOf s m).opcode then
        { begun s m with dev := { s.dev with classP := s.dev.classP + 1 } } else begun s m))

/-- Checks 1, 3 and 4 of R341: a bad header is answered INVALID_FIELD without being executed or stored, with h unchanged;
an unlisted opcode is answered UNKNOWN_COMMAND and one that the state does not permit WRONG_STATE, both stored.
A class P request without presence at T_D is answered PRESENCE_REQUIRED (R346) and recorded (0x02C2). -/
def Obligations.TakeRefusesInOrder : Prop :=
  (∀ (m : Fin 64) (s : State), takes s m →
    (∀ o, headerFails (mbxAt s m).request = some o →
      ∃ t, exec (.mbxDoorbell m .take) s = .next t ∧ (mbxAt t m).header.status = St.invalidField ∧
        (mbxAt t m).header.detail = o ∧ (mbxAt t m).header.valid = true ∧ (mbxAt t m).header.busy = false ∧
        (mbxAt t m).high = (mbxAt s m).high ∧ (mbxAt t m).stored = (mbxAt s m).stored ∧
        (mbxAt t m).work = (mbxAt s m).work) ∧
    (headerFails (mbxAt s m).request = none → classify (mbxAt s m).high (requestOf s m).seq = .new →
      (commandStates (requestOf s m).opcode = none →
        exec (.mbxDoorbell m .take) s = .next (finished (begun s m) m (requestOf s m) St.unknownCommand [] 0 0)) ∧
      (∀ states, commandStates (requestOf s m).opcode = some states →
        stateAllows s (requestOf s m).opcode states = false →
        exec (.mbxDoorbell m .take) s = .next (finished (begun s m) m (requestOf s m) St.wrongState
          (refusalPayload (requestOf s m).opcode s.time) 0 0)))) ∧
  (∀ (m : Fin 64) (s : State) (states : Nat), takes s m → headerFails (mbxAt s m).request = none →
    classify (mbxAt s m).high (requestOf s m).seq = .new → commandStates (requestOf s m).opcode = some states →
    stateAllows s (requestOf s m).opcode states = true → classPOpcodes.contains (requestOf s m).opcode = true →
    s.board.window = none → s.board.serviceL = false →
    ∃ t, exec (.mbxDoorbell m .take) s = .next t ∧ (mbxAt t m).header.status = St.presenceRequired ∧
      (mbxAt t m).work = none ∧ t.dev = s.dev ∧
      t.tally = s.tally.event ⟨0x02C2, islandForeman, 2, s.time, 0, 0, m, (requestOf s m).opcode % 2 ^ 32,
        (requestOf s m).seq.toNat % 2 ^ 32, 0⟩)

/-- classify of R343, modulo 2^32. -/
def Obligations.SequenceClasses : Prop :=
  (∀ q : Word, classify none q = .new) ∧
  ∀ h q : Word,
    (q = h + 1 → classify (some h) q = .new) ∧
    (∀ k : Nat, k ≤ 63 → q = h - BitVec.ofNat 32 k → classify (some h) q = .window) ∧
    (∀ k : Nat, 2 ≤ k → k ≤ 2 ^ 31 → q = h + BitVec.ofNat 32 k → classify (some h) q = .gap) ∧
    (∀ k : Nat, 2 ^ 31 < k → k < 2 ^ 32 - 63 → q = h + BitVec.ofNat 32 k → classify (some h) q = .old)

/-- R344: a WINDOW request that matches the stored one gets the stored response again with REPLAY set and its original
DONE_TIME; one that differs, or whose response is not stored, gets DUPLICATE; nothing is executed and h stays. A gap is
answered SEQUENCE_GAP. -/
def Obligations.WindowRequestsReplay : Prop :=
  ∀ (m : Fin 64) (s : State), takes s m → headerFails (mbxAt s m).request = none →
    (∀ x, classify (mbxAt s m).high (requestOf s m).seq = .window →
      ((mbxAt s m).stored.find? fun x => x.seq == (requestOf s m).seq) = some x →
      (x.opcode = (requestOf s m).opcode ∧ x.ctx = (requestOf s m).ctx ∧ x.length = (requestOf s m).length ∧
        x.crc = (requestOf s m).crc →
        ∃ t, exec (.mbxDoorbell m .take) s = .next t ∧ (mbxAt t m).header = { x.header with replay := true } ∧
          (mbxAt t m).payload = x.payload ∧ (mbxAt t m).high = (mbxAt s m).high ∧ (mbxAt t m).stored = (mbxAt s m).stored) ∧
      (x.opcode ≠ (requestOf s m).opcode →
        ∃ t, exec (.mbxDoorbell m .take) s = .next t ∧ (mbxAt t m).header.status = St.duplicate ∧
          (mbxAt t m).header.detail = x.opcode ∧ (mbxAt t m).high = (mbxAt s m).high ∧
          (mbxAt t m).stored = (mbxAt s m).stored)) ∧
    (classify (mbxAt s m).high (requestOf s m).seq = .gap →
      ∃ t, exec (.mbxDoorbell m .take) s = .next t ∧ (mbxAt t m).header.status = St.sequenceGap ∧
        (mbxAt t m).high = (mbxAt s m).high ∧ (mbxAt t m).stored = (mbxAt s m).stored)

/-! ### Reports -/

/-- IDENTIFY (R348), FW_QUERY (R360, R362), STATS (R267) and POWER_STATUS (R403): each ends with status OK and the fields of
its row, and changes nothing else. The governor's state is a free value. A payload where the row has none is refused
with byte offset 12, LENGTH.
GROVE_STATUS (R111), STACK_STATUS (R224), PORT_STATUS (R348) and BIST_RESULT (R383): the record of the unit named, or of all
of them; a number that names none is refused. Nothing else changes.
STEP_STATUS (R349), JOB_COUNTERS, CONFIG_READ (R353), SCALE_READ (R24), SPILL_READ (R154), T3_PROBE (R228) and
SHORING_STATUS (R348): what is held is answered; a step without a record gives NO_RECORD. Nothing else changes. -/
def Obligations.ReportsComplete : Prop :=
  (∀ (m : Fin 64) (s : State) (w : Work),
    (workOf s m 0x0101 = some w → w.length = 0 →
      exec (.identify m) s = .next (finished s m w St.ok
        [(64, devIdReg s), (64, stateReg s), (256, (fwDigest s).toNat), (32, (inService s).length), (16, nodeOf s),
          (16, s.board.position.toNat)] 0 0)) ∧
    (workOf s m 0x0204 = some w → w.length = 0 →
      exec (.fwQuery m) s = .next (finished s m w St.ok
        (([0, 1].map fun k => [(32, fwVersion (fwSlot s k).image), (32, fwSecurity (fwSlot s k).image),
            (256, (fwDigestOf (fwSlot s k).image).toNat), (32, SlotState.code (fwSlot s k).state)]).flatten ++
          (List.range 4).map fun i => (256, (Config.romKeyHash i).toNat)) 0 0)) ∧
    (workOf s m 0x0804 = some w → w.length = 0 →
      exec (.stats m) s = .next (finished s m w St.ok (s.streams.map streamCounts).flatten 0 0)) ∧
    (workOf s m 0x0901 = some w → w.length = 0 →
      exec (.powerStatus m) s = .next (finished { s with fresh := s.fresh + 1, board := measured s } m w St.ok
        ([(32, s.board.vinMv), (32, Config.free 71 s.fresh), (32, Config.free 72 s.fresh), (32, Config.free 73 s.fresh),
          (8, Config.free 70 s.fresh), (8, s.dev.shutStep)] ++
          (s.board.compute ++ [s.board.io] ++ s.board.hbm ++ [s.board.stage, s.board.inlet]).map fun t => (8, t)) 0 0)) ∧
    (∀ (op : Nat) (c : Instr), (op, c) ∈ [(0x0101, Instr.identify m), (0x0204, .fwQuery m), (0x0804, .stats m),
        (0x0901, .powerStatus m)] → workOf s m op = some w → w.length ≠ 0 →
      exec c s = .next (finished s m w St.invalidField [] 12 0))) ∧
  (∀ (m : Fin 64) (s : State) (w : Work) (k : Nat),
    (workOf s m 0x0102 = some w →
      (k < 128 → exec (.groveStatus m (.fields k)) s = .next (finished s m w St.ok [(128, groveRecord s k)] 0 0)) ∧
      exec (.groveStatus m (.fields 0xFFFF)) s =
        .next (finished s m w St.ok ((List.range 128).map fun g => (128, groveRecord s g)) 0 0) ∧
      (128 ≤ k → k ≠ 0xFFFF →
        exec (.groveStatus m (.fields k)) s = .next (finished s m w St.invalidField [] (Config.payloadByte 0x0102 0) 0))) ∧
    (workOf s m 0x0103 = some w →
      (k < 16 → exec (.stackStatus m (.fields k)) s = .next (finished s m w St.ok
        ((128, stackRecord s k) :: (List.range 64).map fun pch => (8, (erasedAt s k pch).getD 0xFF)) 0 0)) ∧
      (16 ≤ k → exec (.stackStatus m (.fields k)) s =
        .next (finished s m w St.invalidField [] (Config.payloadByte 0x0103 0) 0))) ∧
    (workOf s m 0x0604 = some w →
      (k < 20 → exec (.portStatus m (.fields k)) s = .next (finished s m w St.ok (portRecord s k) 0 0)) ∧
      exec (.portStatus m (.fields 0xFF)) s =
        .next (finished s m w St.ok ((List.range 20).map (portRecord s)).flatten 0 0) ∧
      (20 ≤ k → k ≠ 0xFF → exec (.portStatus m (.fields k)) s =
        .next (finished s m w St.invalidField [] (Config.payloadByte 0x0604 0) 0))) ∧
    (workOf s m 0x0A02 = some w →
      (k ∈ testedIslands → exec (.bistResult m (.fields k)) s = .next (finished s m w St.ok [(512, bistRecord s k)] 0 0)) ∧
      (k ∉ testedIslands → exec (.bistResult m (.fields k)) s =
        .next (finished s m w St.invalidField [] (Config.payloadByte 0x0A02 0) 0)))) ∧
  (∀ (m : Fin 64) (s : State) (w : Work),
    (∀ job step, workOf s m 0x0504 = some w →
      (∀ r, (s.sched.records.find? fun r => r.job == job && r.step == step) = some r →
        exec (.stepStatus m (.fields (job, step))) s = .next (finished s m w St.ok [(512, StepRec.pack r)] 0 0)) ∧
      ((∀ r ∈ s.sched.records, r.job ≠ job ∨ r.step ≠ step) →
        exec (.stepStatus m (.fields (job, step))) s = .next (finished s m w St.noRecord [] 0 0))) ∧
    (∀ job, workOf s m 0x0506 = some w →
      exec (.jobCounters m (.fields job)) s = .next (finished s m w St.ok
        (Counters.resp (((jobAt s job).map fun x => x.counters).getD {})) 0 0)) ∧
    (∀ i c, workOf s m 0x0C03 = some w → 1 ≤ i → i ≤ 6 → s.cfg[i - 1]? = some c →
      exec (.configRead m (.fields i)) s =
        .next (finished s m w St.ok [(8 * setBytes i, c.value), (32, c.gen), (32, c.forceGen)] 0 0)) ∧
    (∀ first n c, workOf s m 0x0308 = some w → ctxAt s w.ctx = some c → 1 ≤ n → n ≤ 125 → first + n ≤ c.scales.length →
      exec (.scaleRead m (.fields (first, n))) s = .next (finished s m w St.ok
        (((c.scales.drop first).take n).map fun e => (256, ScaleEntry.pack e)) 0 0)) ∧
    (∀ (k : SpillName) x, workOf s m 0x030C = some w → (ctxAt s w.ctx).isSome →
      (s.kv.spills.find? fun x => x.ctx == w.ctx && x.sequence == k.sequence && x.group == k.group &&
        x.position / 128 == k.position / 128) = some x →
      exec (.spillRead m (.fields k)) s = .next (finished s m w St.ok [(32, x.region), (64, x.offset)] 0 0)) ∧
    (∀ region seconds out back, workOf s m 0x0307 = some w → (regionAt s region).isSome → 1 ≤ seconds → seconds ≤ 3600 →
      exec (.t3Probe m (.fields (region, seconds)) out back) s =
        .next (finished s m w St.ok [(32, out), (32, back)] 0 0)) ∧
    (∀ job j, workOf s m 0x0703 = some w → jobAt s job = some j →
      exec (.shoringStatus m (.fields job)) s = .next (finished s m w St.ok
        [(32, ((groupOf s job).map fun g => g.number).getD 0), (32, ((groupOf s job).map fun g => g.own).getD 0),
          (64, j.secured.getD 0), (64, jobInterval s j)] 0 0)))

/-- TALLY_READ (R389): up to 124 records of an area, from FIRST on; an AREA, FIRST or COUNT out of range is refused. The read
changes no area. TALLY_CLEAR erases the lifetime area alone, and its own record, which never merges, becomes record 0 of the
new area with the count of records cleared. -/
def Obligations.TallyAreasReadAndClear : Prop :=
  ∀ (m : Fin 64) (s : State) (w : Work),
    (∀ first n, workOf s m 0x0B01 = some w → 1 ≤ n → n ≤ 124 →
      (first ≤ 1023 → exec (.tallyRead m (.fields ⟨0, first, n⟩)) s = .next (finished s m w St.ok
        (((s.tally.boot.drop first).take n).map fun r => (256, TallyRec.pack r)) 0 0)) ∧
      (first ≤ 65535 → exec (.tallyRead m (.fields ⟨1, first, n⟩)) s = .next (finished s m w St.ok
        (((areaFrom s 1 first).take n).map fun r => (256, TallyRec.pack r)) 0 0)) ∧
      (first ≤ 511 → exec (.tallyRead m (.fields ⟨2, first, n⟩)) s = .next (finished s m w St.ok
        (((s.flash.lifetime.drop first).take n).map fun r => (256, TallyRec.pack r)) 0 0))) ∧
    (∀ q : TallyReq, workOf s m 0x0B01 = some w → (2 < q.area ∨ (q.area = 0 ∧ 1023 < q.first) ∨
        (q.area = 1 ∧ 65535 < q.first) ∨ (q.area = 2 ∧ 511 < q.first) ∨ q.count = 0 ∨ 124 < q.count) →
      ∃ k, exec (.tallyRead m (.fields q)) s = .next (finished s m w St.invalidField [] (Config.payloadByte 0x0B01 k) 0)) ∧
    (workOf s m 0x0B02 = some w → w.length = 0 →
      exec (.tallyClear m) s = .next (finished
        { s with
          tally := s.tally.event ⟨0x02E7, islandForeman, 3, s.time, 0, 0, s.flash.lifetime.length % 2 ^ 32, 0, 0, 0⟩
          flash := { s.flash with lifetime :=
            [⟨0x02E7, islandForeman, 3, s.time, 0, s.flash.powerOn % 65536, s.flash.lifetime.length % 2 ^ 32, 0, 0, 0⟩] } }
        m w St.ok [(32, s.flash.lifetime.length)] 0 0))

/-! ### Contexts, images and steps -/

/-- CONTEXT_CREATE and CONTEXT_RELEASE (R246, R247): a context that does not exist is made empty; one that exists and has no
step queued or running goes with its pages, spilled pages and Adit mapping. CONTEXT_EXISTS, NO_CONTEXT and CONTEXT_BUSY
change no context.
UNLOAD_IMAGE and UPDATE_PARAMS (R195, R348): the image of the job leaves its context with its cached schedules; the
entries replace the parameters of the UPDATE descriptors that they name, all of them or none. -/
def Obligations.ContextsAndImagesComeAndGo : Prop :=
  (∀ (m : Fin 64) (s : State) (w : Work), w.length = 0 →
    (workOf s m 0x0401 = some w →
      (ctxAt s w.ctx = none → exec (.contextCreate m) s =
        .next (finished { s with ctxs := s.ctxs ++ [{ number := w.ctx }] } m w St.ok [] 0 0)) ∧
      (ctxAt s w.ctx ≠ none → exec (.contextCreate m) s = .next (finished s m w St.contextExists [] 0 0))) ∧
    (workOf s m 0x0402 = some w →
      (ctxAt s w.ctx = none → exec (.contextRelease m) s = .next (finished s m w St.noContext [] 0 0)) ∧
      (ctxAt s w.ctx ≠ none → ctxBusy s w.ctx = true →
        exec (.contextRelease m) s = .next (finished s m w St.contextBusy [] 0 0)) ∧
      (ctxAt s w.ctx ≠ none → ctxBusy s w.ctx = false →
        exec (.contextRelease m) s = .next (finished
          { s with
            ctxs := s.ctxs.filter fun c => c.number != w.ctx
            kv := { s.kv with
              pages := s.kv.pages.filter fun p => p.ctx != w.ctx
              booked := s.kv.booked.filter fun b => b.1 != w.ctx
              spills := s.kv.spills.filter fun x => x.ctx != w.ctx }
            mem := { s.mem with adit := s.mem.adit.filter fun x => x.1 != w.ctx }
            sched := { s.sched with current := s.sched.current.filter fun c => c != w.ctx } } m w St.ok [] 0 0)))) ∧
  (∀ (m : Fin 64) (s : State) (w : Work) (job : Nat), ctxAt s w.ctx ≠ none →
    (workOf s m 0x0502 = some w →
      ((imageOf s w.ctx job).isSome → (∀ a ∈ inHand s, a.ctx ≠ w.ctx ∨ a.job ≠ job) →
        exec (.unloadImage m (.fields job)) s = .next (finished
          { s with
            ctxs := modifyWhere (fun c => c.number == w.ctx)
              (fun c => { c with images := c.images.filter fun i => i.job != job,
                                 cache := c.cache.filter fun x => x.1 != job }) s.ctxs } m w St.ok [] 0 0)) ∧
      ((imageOf s w.ctx job).isSome → (∃ a ∈ inHand s, a.ctx = w.ctx ∧ a.job = job) →
        exec (.unloadImage m (.fields job)) s = .next (finished s m w St.contextBusy [] 0 0))) ∧
    (workOf s m 0x0505 = some w →
      ∀ (img : Image) (es : List ParamEntry), imageOf s w.ctx job = some img →
        (es.length ≤ 100 → (∀ e ∈ es, paramEntryOk img e = true) →
          exec (.updateParams m (.fields (job, es))) s = .next (finished
            { s with
              ctxs := modifyWhere (fun c => c.number == w.ctx)
                (fun c => { c with images := modifyWhere (fun i => i.job == job) (fun i => replaceAll i es) c.images })
                s.ctxs } m w St.ok [] 0 0)) ∧
        ((100 < es.length ∨ ∃ e ∈ es, paramEntryOk img e = false) →
          exec (.updateParams m (.fields (job, es))) s =
            .next (finished s m w St.invalidField [] (Config.payloadByte 0x0505 1) 0))))

/-- LOAD_IMAGE (R45, R231, R415): with the link up, Bus Master set and the fetch complete, an image that passes every check and
fits the free bytes of the pool is loaded: it replaces the job's image of the context, every object there keeps its contents,
and each persistent object that the context lacks is made, reading as zero. An image that fails is refused with the place of its
first failure, and nothing is kept; so is one for which no eviction makes room. A fetch that ends in a host access error is refused with
DETAIL 64. -/
def Obligations.LoadedImageIsKept : Prop :=
  ∀ (m : Fin 64) (s : State) (w : Work) (c : Context), workOf s m 0x0501 = some w → loadBad s w = none →
    ctxAt s w.ctx = some c → s.link.busMaster = true → s.link.up = true →
    (∀ b : List Byte, b.length = (loadPayload w.page).2.2 →
      let bad := imageBad (inService s).length b w.ctx b.length c.objects
      let img := parseImage b
      let lighter := withoutImage s w.ctx img.job
      (bad = none → loadNeed c img ≤ poolFree lighter →
        ∃ t x, exec (.loadImage m (.bytes b)) s = .next t ∧ (mbxAt t m).header.status = St.ok ∧ (mbxAt t m).work = none ∧
          imageOf t w.ctx img.job = some img ∧ ctxAt t w.ctx = some x ∧
          (∀ o ∈ c.objects, o ∈ x.objects) ∧
          (∀ e ∈ newObjects c img, ({ entry := e, inT1 := e.tier != 2 } : Obj) ∈ x.objects) ∧
          (∀ k, k ≠ w.ctx → ctxAt t k = ctxAt s k) ∧ t.sched = s.sched ∧ t.kv = s.kv ∧ t.mem = s.mem) ∧
      (bad = none → ∀ u, room lighter (loadNeed c img) = some u →
        exec (.loadImage m (.bytes b)) s = .next (finished (publishPlan (keepImage u img) img) m w St.ok [] 0 0)) ∧
      (bad = none → room lighter (loadNeed c img) = none →
        exec (.loadImage m (.bytes b)) s = .next (finished s m w St.refusedResource [] 0 0)) ∧
      (∀ x, bad = some x →
        exec (.loadImage m (.bytes b)) s =
          .next (finished s m w x.2.2 (imageWord (inService s).length img x) (imgDetail x) 0))) ∧
    (∀ cause r, regionAt s (loadPayload w.page).1 = some r →
      exec (.loadImage m (.error cause)) s = .next (finished
        (accessError s cause (r.address + (loadPayload w.page).2.1)) m w St.invalidField [] 64 0))

/-- SUBMIT (R65, R68, R69, R193): a step that meets every condition and whose deadline is 0 or not passed is appended to the queue
with its bound, its promise is the start that its schedule assumed plus the bound, and its record is QUEUED; one whose deadline
is too short is refused with REFUSED_BOUND and nothing is queued. Every other refusal ends with its status and queues nothing; a
refusal for RULE_P_SPAN keeps nothing of the image either. That a deadline is tested before DRILL_OK takes the promise away is
the model's choice (log entry 73). -/
def Obligations.SubmitAdmitsOrRefuses : Prop :=
  ∀ (m : Fin 64) (s : State) (w : Work), workOf s m 0x0503 = some w →
    let q := submissionOf w.page
    (∀ (img : Image) (b : Bound) (room : State) (peak : Nat) (rests : Bool) (t0 : Nat), submitBad s w q = none →
      submitImage s q = some img →
      seek s (inHand s) img q.step (takeRanges s img) = .found b room peak rests t0 →
      ((q.deadline = 0 ∨ t0 + b.total - w.tD ≤ q.deadline) → s.board.inRange = true →
        ∃ t, exec (.submit m) s = .next t ∧ (mbxAt t m).header.status = St.ok ∧ (mbxAt t m).work = none ∧
          t.sched.run = s.sched.run ∧
          (∃ a, t.sched.queue = s.sched.queue ++ [a] ∧ a.job = q.job ∧ a.ctx = img.ctx ∧ a.step = q.step ∧ a.image = img ∧
            a.bound = b.total ∧ a.promise = t0 + b.total ∧ a.drill = drillHits s img ∧ a.void = false) ∧
          (∃ r, t.sched.records.getLast? = some r ∧ r.job = q.job ∧ r.step = q.step ∧ r.state = 0 ∧
            r.promise = if drillHits s img then 0 else t0 + b.total)) ∧
      (q.deadline ≠ 0 → q.deadline < t0 + b.total - w.tD →
        ∃ t, exec (.submit m) s = .next t ∧ (mbxAt t m).header.status = St.refusedBound ∧ t.sched = s.sched)) ∧
    (∀ x, submitBad s w q = some x →
      ∃ t, exec (.submit m) s = .next t ∧ (mbxAt t m).header.status = x.1 ∧ (mbxAt t m).header.detail = x.2 ∧
        (mbxAt t m).work = none ∧ t.sched = s.sched ∧ (x.1 ≠ St.rulePSpan → t.ctxs = s.ctxs) ∧
        (x.1 = St.rulePSpan → imageOf t q.ctx q.job = none))

/-! ### Regions, windows and configuration -/

/-- REGISTER_HOST and UNREGISTER_HOST (R331): a free, aligned range of 4 KiB to 1 TiB becomes a region under a number from 0 to
255 that no region has; which of them is left free. A region leaves the list unless something uses it. An overlapping,
misaligned or oversized range and the 257th region change nothing.
ADIT_MAP, ADIT_UNMAP (R326), PLACE_BIND and PLACE_UNBIND (R328, R330): a persistent object becomes the mapped
one, brought back into T1 where it was evicted and there is room; the mapping named goes; a free slot is bound to 4 KiB to 1 GiB that read as zero; a bound slot goes while no stream
has unread ring entries. Whether an unread entry names the slot stands in host memory: a free value decides.
KV_CLOSE, KV_PIN and KV_UNPIN (R150, R348): on an idle device each takes effect at once, and while a step is queued or
running it waits for the boundary, in progress. A name that names nothing is refused. -/
def Obligations.RegionsWindowsAndPagesAct : Prop :=
  (∀ (m : Fin 64) (s : State) (w : Work),
    (∀ x : HostRange, workOf s m 0x0301 = some w → x.address % 4096 = 0 → 4096 ≤ x.bytes → x.bytes ≤ 2 ^ 40 →
      x.address + x.bytes ≤ 2 ^ 64 →
      ((∀ r ∈ s.mem.regions, r.address + r.bytes ≤ x.address ∨ x.address + x.bytes ≤ r.address) →
        s.mem.regions.length < 256 →
        ∃ k, k < 256 ∧ regionAt s k = none ∧
          exec (.registerHost m (.fields x)) s = .next (finished
            { s with fresh := s.fresh + 1, mem := { s.mem with regions := s.mem.regions ++ [⟨k, x.address, x.bytes⟩] } }
            m w St.ok [(32, k)] 0 0)) ∧
      ((∃ r ∈ s.mem.regions, r.address < x.address + x.bytes ∧ x.address < r.address + r.bytes) →
        exec (.registerHost m (.fields x)) s =
          .next (finished s m w St.invalidField [] (Config.payloadByte 0x0301 0) 0))) ∧
    (∀ k r, workOf s m 0x0302 = some w → regionAt s k = some r →
      (regionBusy s r = false → exec (.unregisterHost m (.fields k)) s = .next (finished
        { s with mem := { s.mem with regions := s.mem.regions.filter fun x => x.number != k } } m w St.ok [] 0 0)) ∧
      (regionBusy s r = true → exec (.unregisterHost m (.fields k)) s = .next (finished s m w St.regionBusy [] 0 0)))) ∧
  (∀ (m : Fin 64) (s : State) (w : Work),
    (∀ n o, workOf s m 0x0303 = some w → objAt s w.ctx n = some o →
      (Role.persistent o.entry.role = true → o.inT1 = true →
        exec (.aditMap m (.fields n)) s = .next (finished
          { s with mem := { s.mem with adit := some (w.ctx, n) } } m w St.ok [(64, viewBytes o.entry)] 0 0)) ∧
      (Role.persistent o.entry.role = true → o.inT1 = false →
        (∀ u, bringBack s w.ctx o = some u → exec (.aditMap m (.fields n)) s = .next (finished
          { u with mem := { u.mem with adit := some (w.ctx, n) } } m w St.ok [(64, viewBytes o.entry)] 0 0)) ∧
        (bringBack s w.ctx o = none →
          exec (.aditMap m (.fields n)) s = .next (finished s m w St.refusedResource [] 0 0))) ∧
      (Role.persistent o.entry.role = false → exec (.aditMap m (.fields n)) s =
        .next (finished s m w St.invalidField [] (Config.payloadByte 0x0303 0) 0))) ∧
    (∀ n o, workOf s m 0x0304 = some w → s.mem.adit = some (w.ctx, n) → objAt s w.ctx n = some o →
      exec (.aditUnmap m (.fields n)) s = .next (finished
        { s with mem := { s.mem with adit := none } } m w St.ok [(64, viewBytes o.entry)] 0 0)) ∧
    (∀ j bytes, workOf s m 0x0305 = some w → j < 1024 → 4096 ≤ bytes → bytes ≤ 2 ^ 30 → bytes % 4096 = 0 →
      (placementAt s j = none → ∀ u, room s (ceilDiv bytes frameBytes * frameBytes) = some u →
        exec (.placeBind m (.fields (j, bytes))) s = .next (finished
          { u with mem := { u.mem with placements := u.mem.placements ++ [⟨j, bytes, []⟩] } } m w St.ok [] 0 0)) ∧
      (placementAt s j ≠ none → exec (.placeBind m (.fields (j, bytes))) s =
        .next (finished s m w St.invalidField [] (Config.payloadByte 0x0305 0) 0))) ∧
    (∀ j, workOf s m 0x0306 = some w → placementAt s j ≠ none →
      (unreadEntries s = 0 ∨ Config.free 52 s.fresh % 2 = 0 →
        exec (.placeUnbind m (.fields j)) s = .next (finished
          { s with fresh := s.fresh + 1, mem := { s.mem with placements := s.mem.placements.filter fun q => q.slot != j } }
          m w St.ok [] 0 0)) ∧
      (0 < unreadEntries s → Config.free 52 s.fresh % 2 = 1 →
        exec (.placeUnbind m (.fields j)) s = .next (finished { s with fresh := s.fresh + 1 } m w St.regionBusy [] 0 0)))) ∧
  (∀ (m : Fin 64) (s : State) (w : Work) (k : KvName) (op : Nat) (c : Instr),
    (op, c) ∈ [(0x0309, Instr.kvClose m (.fields k)), (0x030A, .kvPin m (.fields k)), (0x030B, .kvUnpin m (.fields k))] →
    workOf s m op = some w → ctxAt s w.ctx ≠ none →
    (kvNamed s w.ctx op k = true → busy s = false → s.kv.waiting = [] →
      exec c s = .next (finished (match op with
        | 0x0309 => closeSequence s w.ctx k.table k.entry
        | 0x030A => pinPage s w.ctx k true
        | _ => pinPage s w.ctx k false) m w St.ok [] 0 0)) ∧
    (kvNamed s w.ctx op k = true → busy s = true →
      exec c s = .next { s with kv := { s.kv with waiting := s.kv.waiting ++ [((m : Nat), w.ctx, k, op)] } }) ∧
    (kvNamed s w.ctx op k = false →
      exec c s = .next (finished s m w St.invalidField [] (Config.payloadByte op 0) 0)))

/-- CONFIG_STAGE, CONFIG_COMMIT and CONFIG_DISCARD (R351, R352): a value in range fills the mailbox's slot for its set with
the generation in force at T_D; a value out of range empties it. A commit empties the slot; where the slot's generation is
the committed one and no cause of Table 7 stands, the value is committed under the next generation and kept in the flash,
and is in force at once on an idle device; otherwise COMMIT_CONFLICT names the cause and nothing is committed. -/
def Obligations.ConfigurationStagesAndCommits : Prop :=
  ∀ (m : Fin 64) (s : State) (w : Work) (i : Nat), 1 ≤ i → i ≤ 6 →
    (workOf s m 0x0C01 = some w → ∀ v,
      (setBad i v = none → exec (.configStage m (.fields (i, v))) s = .next (finished
        (setStage s m i (some ⟨at' w.gens (i - 1) 0, v⟩)) m w St.ok [(32, at' w.gens (i - 1) 0)] 0 0)) ∧
      (∀ o, setBad i v = some o → exec (.configStage m (.fields (i, v))) s = .next (finished
        (setStage s m i none) m w St.invalidField [] (Config.payloadByte 0x0C01 1 + o) 0))) ∧
    (workOf s m 0x0C02 = some w → ∀ x, stageSlot s m i = some x →
      (x.gen = setGen s i → commitCause (setStage s m i none) i x.value = none → s.cfg.length = 6 →
        (∀ c ∈ s.cfg, c.forceGen ≤ c.gen) →
        ∃ t, exec (.configCommit m (.fields i)) s = .next t ∧ committed t i = x.value ∧ setGen t i = x.gen + 1 ∧
          (∀ k, 1 ≤ k → k ≤ 6 → k ≠ i → committed t k = committed s k ∧ setGen t k = setGen s k) ∧
          stageSlot t m i = none ∧ (mbxAt t m).header.status = St.ok ∧
          (busy s = false → inForce t i = x.value) ∧ (busy s = true → inForce t i = inForce s i)) ∧
      (x.gen ≠ setGen s i →
        exec (.configCommit m (.fields i)) s = .next (finished
          (tally (setStage s m i none) 0x02C3 islandForeman 1 i 1 m (setGen s i)) m w St.commitConflict [] (setGen s i) 1)) ∧
      (x.gen = setGen s i → ∀ c, commitCause (setStage s m i none) i x.value = some c →
        exec (.configCommit m (.fields i)) s = .next (finished
          (tally (setStage s m i none) 0x02C3 islandForeman 1 i c m (setGen s i)) m w St.commitConflict [] (setGen s i) c))) ∧
    (workOf s m 0x0C04 = some w →
      exec (.configDiscard m (.fields i)) s = .next (finished (setStage s m i none) m w St.ok [] 0 0))

/-! ### Jobs, shoring, drills and streams -/

/-- JOB_OPEN, JOIN and LEAVE (R282, R292, R348): a box inside the torus becomes the job's, with an earlier mismatch and degraded
layout ended; a join with quiet ports, equal payloads and the peers' own step joins; a device that is behind is told the
peers' step and does not join; payloads that differ leave JOB_MISMATCH. LEAVE closes the box of a joined job.
CONFIGURE (R301): with every field in range and every participant's payload the same, the job's shoring becomes the
payload's, with no failure counted; payloads that differ leave JOB_MISMATCH and the job's shoring as it was.
RESTORE (R308, R311): in a job whose group is lost and waits for its copies, a survivor adopts the copy of a lost member: it
carries the member's shard with every object of the copy that its context has, whole, in both slots and with the copy's VERSION; once
every member lost since is restored the job goes on. In any other job the command is refused. -/
def Obligations.JobsAndShoringAct : Prop :=
  (∀ (m : Fin 64) (s : State) (w : Work), s.dev.shutStep = 0 →
    (∀ b : JobBox, workOf s m 0x0601 = some w →
      (boxOk s b = true → exec (.jobOpen m (.fields b)) s = .next (finished
        (setJob s b.job fun j =>
          { j with box := some b, mismatch := false, degraded := false, failed := [], since := [], agreed := [] })
        m w St.ok [] 0 0)) ∧
      (boxOk s b = false → exec (.jobOpen m (.fields b)) s =
        .next (finished s m w St.invalidField [] (Config.payloadByte 0x0601 0) 0))) ∧
    (∀ job j (peers : JoinAnswer), workOf s m 0x0602 = some w → jobAt s job = some j → j.box ≠ none →
      (partyOf s job 1).box ≠ none → nodeOf s < torusNodes (inForce s 4) →
      ((∃ p ∈ s.fabric.ports, p.quarantine ≠ 0) →
        exec (.join m (.fields job) peers) s = .next (finished s m w St.manifestMismatch [] 0 0)) ∧
      ((∀ p ∈ s.fabric.ports, p.quarantine = 0) →
        (peers.agree = true → j.lastCompleted.getD 0 = peers.step →
          exec (.join m (.fields job) peers) s = .next (finished
            (setJob s job fun j => { j with joined := true }) m w St.ok [(64, peers.step)] 0 0)) ∧
        (peers.agree = true → j.lastCompleted.getD 0 ≠ peers.step →
          exec (.join m (.fields job) peers) s = .next (finished s m w St.jobLagging [(64, peers.step)] 0 0)) ∧
        (peers.agree = false →
          exec (.join m (.fields job) peers) s = .next (finished
            (setJob s job fun j => { j with mismatch := true }) m w St.jobMismatch [] 0 0)))) ∧
    (∀ job j, workOf s m 0x0603 = some w → jobAt s job = some j →
      (j.joined = true →
        ∃ t, exec (.leave m (.fields job)) s = .next t ∧ (mbxAt t m).header.status = St.ok ∧
          t.jobs = modifyWhere (fun x => x.number == job) (fun x => { x with joined := false, box := none }) s.jobs) ∧
      (j.joined = false → exec (.leave m (.fields job)) s =
        .next (finished s m w St.invalidField [] (Config.payloadByte 0x0603 0) 0)))) ∧
  (∀ (m : Fin 64) (s : State) (w : Work), workOf s m 0x0701 = some w →
    (configureBad s w = none →
      (∃ t j, exec (.configure m true) s = .next t ∧ (mbxAt t m).header.status = St.ok ∧
        jobAt t (shoringOf w.page).job = some j ∧ j.shoring = some (shoringOf w.page) ∧ j.failures = 0 ∧
        j.lambdaAt = s.time ∧ t.sched = s.sched ∧ t.ctxs = s.ctxs) ∧
      exec (.configure m false) s = .next (finished
        (setJob s (shoringOf w.page).job fun j => { j with mismatch := true }) m w St.jobMismatch [] 0 0)) ∧
    (∀ agree o, configureBad s w = some o →
      exec (.configure m agree) s = .next (finished s m w St.invalidField [] o 0))) ∧
  (∀ (m : Fin 64) (s : State) (w : Work) (q : RestoreReq) (x : Secured) (j : Job), workOf s m 0x0702 = some w →
    jobAt s q.job = some j →
    (j.lost = 2 → q.member ∈ j.since → (∃ r ∈ s.mem.regions, r.number = q.region) →
      let tiles := x.objects.map fun o =>
        (o.object, match objAt s x.ctx o.object with | some y => List.range y.entry.tiles | none => [])
      let u := adopt s q.job q.member x tiles true
      let restored := if j.restored.contains q.member then j.restored else j.restored ++ [q.member]
      exec (.restore m (.fields q) (some x)) s = .next (finished
        (setJob u q.job fun j => { j with restored, lost := if j.since.all restored.contains then 0 else 2 }) m w St.ok [] 0 0) ∧
      ∃ j' h, jobAt u q.job = some j' ∧ h ∈ j'.shadows ∧ h.device = q.member ∧ (q.member, x) ∈ j'.adopted ∧
        (∀ g ∈ j'.shadows, g.device = q.member → g = h) ∧ u.ctxs = s.ctxs ∧ u.sched = s.sched ∧
        ∀ o ∈ h.ctx.objects, ∀ y, (x.objects.find? fun z => z.object == o.entry.object) = some y →
          o.version = y.version ∧ o.prevVersion = y.version) ∧
    (j.lost ≠ 2 → exec (.restore m (.fields q) (some x)) s = .next (finished s m w St.wrongState [] 0 0)))

/-- DRILL_START and DRILL_STOP (R293): the drill plan acts, with its flit counts at zero, and every queued or running step
that uses a port of the plan is void (R86); stopping ends it. -/
def Obligations.DrillsStartAndStop : Prop :=
  ∀ (m : Fin 64) (s : State) (w : Work), w.length = 0 →
    (workOf s m 0x0605 = some w →
      ∃ t, exec (.drillStart m) s = .next t ∧ (mbxAt t m).header.status = St.ok ∧ t.fabric.drill = true ∧
        (∀ p ∈ t.fabric.ports, p.drillCount = List.replicate 8 0) ∧ t.fabric.ports.length = s.fabric.ports.length ∧
        (∀ a ∈ inHand t, drillHits t a.image = true → a.drill = false → a.void = true)) ∧
    (workOf s m 0x0606 = some w →
      exec (.drillStop m) s = .next (finished
        (tally { s with fabric := { s.fabric with drill := false } } 0x0297 islandCollective 1 2
          ((List.range 8).countP fun e => bits (drillEntry s e) 19 0 != 0) 0 0) m w St.ok [] 0 0))

/-- OPEN, CLOSE and SUBSTITUTE (R250 to R252, R263): a closed stream whose record passes every check, with units that no
open stream has and room for its staging area, opens with its registers and counts at zero; a stream that no step holds
closes; a sample that passes joins the substitutes. An open stream, a taken one and a closed one are refused. -/
def Obligations.StreamsOpenAndClose : Prop :=
  ∀ (m : Fin 64) (s : State) (w : Work),
    (let c := streamCfg w.page;
      workOf s m 0x0801 = some w → w.length = 256 → (∀ x ∈ openChecks w.page c, x.2 = false) →
      augmentBad w.page c = false → insideRegions s c.ringAddr (32 * ringSize c) = true →
      (streamAt s (Mem.le w.page 64 1 % 16) = none →
        (∀ x ∈ s.streams, ∀ y, x.stream = some y → y.cfg.units &&& c.units = 0) →
        ∀ u, room s (stagingBytes c) = some u →
        exec (.sluiceOpen m) s = .next (finished
          { u with streams := u.streams.set (Mem.le w.page 64 1 % 16) { pi := 0, err := 0, stream := some { cfg := c } } }
          m w St.ok [] 0 0)) ∧
      (streamAt s (Mem.le w.page 64 1 % 16) ≠ none →
        exec (.sluiceOpen m) s = .next (finished s m w St.streamBusy [] 0 0))) ∧
    (∀ k, workOf s m 0x0802 = some w → k < 16 →
      (streamAt s k ≠ none → streamTaken s k = false → exec (.sluiceClose m (.fields k)) s = .next (finished
        { s with streams := s.streams.modify k fun x => { x with stream := none } } m w St.ok [] 0 0)) ∧
      (streamAt s k ≠ none → streamTaken s k = true →
        exec (.sluiceClose m (.fields k)) s = .next (finished s m w St.streamBusy [] 0 0)) ∧
      (streamAt s k = none → exec (.sluiceClose m (.fields k)) s = .next (finished s m w St.streamClosed [] 0 0))) ∧
    (∀ k e (x : Sample) y, workOf s m 0x0803 = some w → k < 16 → streamAt s k = some y → streamTaken s k = false →
      unfetchable s e = false → headerReason s y.cfg e (fetched s e x) = none → bodyReason y.cfg (fetched s e x) = none →
      y.substitutes.length < 256 → ∀ d u, d = decodeSample y.cfg (fetched s e x).content →
      room s (planeBytes y.cfg d.x d.y (d.z * d.c)) = some u →
      exec (.substitute m (.fields (k, e)) x) s = .next (finished
        { u with streams := u.streams.modify k fun z =>
            { z with stream := z.stream.map fun y => { y with substitutes := y.substitutes ++ [d] } } } m w St.ok [] 0 0))

/-! ### Service commands -/

/-- BIST_RUN (R379, R382): a list of listed islands that may all be tested is tested whole; each gets a result record with the
signature found and a flag that is set where it differs from the reference. One island that is in use refuses the list.
MARGIN (R212): on a stack that holds nothing, within the safe limits or with presence within the full ones, every pin's
window is answered, and the stack's contents and its counts by position are lost. Beyond the safe limits without presence
nothing happens but a refusal. -/
def Obligations.SelfTestsAndSweepsRecord : Prop :=
  (∀ (m : Fin 64) (s : State) (w : Work) (l : List Nat) (sigs : Signatures), workOf s m 0x0A01 = some w →
    l.length ≤ 256 → (∀ i ∈ l, islandListed i = true) →
    (s.dev.reference = true → (∀ i ∈ l, mayTest s i = true) →
      ∃ t, exec (.bistRun m (.fields l) sigs) s = .next t ∧ (mbxAt t m).header.status = St.ok ∧
        (∀ i ∈ l, t.flash.bist.find? (fun b => b.island == i) = some
          ⟨i, signatureOf s sigs i != Config.misrReference i, 2, s.flash.powerOn, s.time, signatureOf s sigs i⟩) ∧
        t.sched = s.sched ∧ t.jobs = s.jobs ∧ t.groves = s.groves) ∧
    ((s.dev.reference = false ∨ ∃ i ∈ l, mayTest s i = false) →
      exec (.bistRun m (.fields l) sigs) s = .next (finished s m w St.wrongState [] 0 0))) ∧
  (∀ (m : Fin 64) (s : State) (w : Work) (q : MarginReq) (ws : List PinWindow) (safe full : Int),
    workOf s m 0x0A06 = some w → marginLimits q.param = some (safe, full) →
    (q.stack ≤ 15 → q.lo ≤ q.hi → marginWithin q full = true → stackHeld s q.stack = false →
      (marginWithin q safe = true ∨ w.present = true) →
      ∃ t, exec (.margin m (.fields q) ws) s = .next t ∧ (mbxAt t m).header.status = St.ok ∧
        (mbxAt t m).payload.length = 2304 ∧ (∀ a, addrStack a = q.stack → Mem.get t.mem.dram a = 0) ∧
        (∀ x, t.hbm[q.stack]? = some x → x.marks = []) ∧
        (∀ k, k ≠ q.stack → t.hbm[k]? = s.hbm[k]?) ∧
        t.dev.classP = s.dev.classP + if marginWithin q safe then 0 else 1) ∧
    (marginWithin q safe = false → w.present = false →
      exec (.margin m (.fields q) ws) s = .next (presenceRefused s m w)))

/-- RETIRE (R384): while a step is queued or running the request waits for the boundary. On an idle device where no grove waits
for a spare, a spare or suspect grove, a port and a decoder that no stream names are retired and the command ends.
UNRETIRE and REPAIR_EDIT (R385): a retired grove whose last self-test passed becomes a spare, a retired port or decoder leaves
the list; every edit of a list in range and on frames that hold nothing is applied, in order, with its record. A flag
standing, an island not retired and a booked frame change nothing. -/
def Obligations.RepairMapChanges : Prop :=
  (∀ (m : Fin 64) (s : State) (w : Work) (i : Nat), workOf s m 0x0A03 = some w → s.islands.retireAsked = [] →
    (isDecoder i = true → decoderOpen s i = false) →
    (busy s = true → (i < 128 ∨ isPort i = true ∨ isDecoder i = true) →
      exec (.retire m (.fields i)) s = .next (askRetire s m i)) ∧
    (busy s = false → (∀ g ∈ s.groves, g.neededAt = none) →
      (i < 128 → ((groveAt s i).role = .spare ∨ (groveAt s i).role = .suspect) →
        ∃ t, exec (.retire m (.fields i)) s = .next t ∧ (groveAt t i).role = .retired ∧ (groveAt t i).power = .c3 ∧
          (mbxAt t m).header.status = St.ok ∧ (mbxAt t m).work = none ∧ t.islands.retireAsked = []) ∧
      ((isPort i = true ∨ isDecoder i = true) →
        ∃ t, exec (.retire m (.fields i)) s = .next t ∧ i ∈ t.flash.retired ∧ (mbxAt t m).header.status = St.ok ∧
          (mbxAt t m).work = none ∧ t.islands.retireAsked = [])) ∧
    (¬ (i < 128 ∨ isPort i = true ∨ isDecoder i = true) →
      exec (.retire m (.fields i)) s = .next (finished s m w St.invalidField [] (Config.payloadByte 0x0A03 0) 0))) ∧
  (∀ (m : Fin 64) (s : State) (w : Work),
    (∀ i, workOf s m 0x0A04 = some w → (i < 128 ∨ isPort i = true ∨ isDecoder i = true) → islandRetired s i = true →
      (bistFlag s i = false → ∃ t, exec (.unretire m (.fields i)) s = .next t ∧ (mbxAt t m).header.status = St.ok ∧
        islandRetired t i = false ∧ (i < 128 → (groveAt t i).role = .spare) ∧
        (∀ k, k ≠ i → islandRetired t k = islandRetired s k)) ∧
      (bistFlag s i = true → exec (.unretire m (.fields i)) s = .next (finished s m w St.wrongState [] 0 0))) ∧
    (∀ es : List RepairEdit, workOf s m 0x0A05 = some w → (∀ e ∈ es, editInRange e = true) →
      ((∀ e ∈ es, editBooked s e = false) →
        exec (.repairEdit m (.fields es)) s = .next (finished (es.foldl applyEdit s) m w St.ok [] 0 0)) ∧
      ((∃ e ∈ es, editBooked s e = true) →
        exec (.repairEdit m (.fields es)) s = .next (finished s m w St.refusedResource [] 0 0))) ∧
    (∀ k c p, (applyEdit s (.setErasure k c p)).flash.erasures =
      (k, c, p) :: s.flash.erasures.filter fun e => !(e.1 == k && e.2.1 == c)) ∧
    (∀ k c, (applyEdit s (.clearErasure k c)).flash.erasures =
      s.flash.erasures.filter fun e => !(e.1 == k && e.2.1 == c)) ∧
    (∀ k c f, (k, c, f) ∈ (applyEdit s (.retireFrame k c f)).flash.frames ∧
      (k, c, f) ∉ (applyEdit s (.restoreFrame k c f)).flash.frames))

/-- FW_STAGE, FW_INSTALL and FW_ACTIVATE (R363): a piece goes to its offset of the staging buffer, which offset 0 empties and
gives to the mailbox; a buffer that passes R361 becomes the slot's image, VALID; a VALID or FAILED slot that passes again
becomes TRIAL, and the other slot is no longer TRIAL; activating the ACTIVE slot cancels a trial. A failure names its step
and leaves the other slot alone. -/
def Obligations.FirmwareStagesInstallsActivates : Prop :=
  ∀ (m : Fin 64) (s : State) (w : Work),
    (∀ x : FwPiece, workOf s m 0x0201 = some w → 1 ≤ x.bytes.length → x.bytes.length ≤ 4000 →
      x.offset + x.bytes.length ≤ 2 ^ 25 →
      (x.offset = 0 → exec (.fwStage m (.fields x)) s = .next (finished
        { s with mem := { s.mem with fwOwner := some m, fwBuffer := Mem.store [] 0 x.bytes } } m w St.ok
        [(32, x.bytes.length)] 0 0)) ∧
      (x.offset ≠ 0 → s.mem.fwOwner = some (m : Nat) → exec (.fwStage m (.fields x)) s = .next (finished
        { s with mem := { s.mem with fwBuffer := Mem.store s.mem.fwBuffer x.offset x.bytes } } m w St.ok
        [(32, x.bytes.length)] 0 0)) ∧
      (x.offset ≠ 0 → s.mem.fwOwner ≠ some (m : Nat) → exec (.fwStage m (.fields x)) s =
        .next (finished s m w St.wrongState [] 0 0))) ∧
    (∀ k, workOf s m 0x0202 = some w → k ≤ 1 → s.mem.fwOwner = some (m : Nat) → (fwSlot s k).state ≠ .active →
      (fwVerify s.flash.minSecurity s.flash.revoked s.mem.fwBuffer = none → Mem.wf s.mem.fwBuffer = true →
        ∃ kept, exec (.fwInstall m (.fields k)) s = .next (finished
            (setSlot s k fun _ => ⟨.valid, kept⟩) m w St.ok [(256, (fwDigestOf kept).toNat)] 0 0) ∧
          (∀ a, Mem.get kept a = if a < 4096 + fwBody s.mem.fwBuffer then Mem.get s.mem.fwBuffer a else 0)) ∧
      (∀ step, fwVerify s.flash.minSecurity s.flash.revoked s.mem.fwBuffer = some step →
        exec (.fwInstall m (.fields k)) s = .next (finished
          (rejected (setSlot s k fun x => { x with state := .empty }) step s.mem.fwBuffer 1) m w St.imageRejected [] step 0))) ∧
    (∀ k, workOf s m 0x0203 = some w → k ≤ 1 →
      let clear (s : State) : State := setSlot s (1 - k) fun x => if x.state = .trial then { x with state := .valid } else x
      ((fwSlot s k).state = .active →
        exec (.fwActivate m (.fields k)) s = .next (finished (clear s) m w St.ok [] 0 0)) ∧
      (((fwSlot s k).state = .valid ∨ (fwSlot s k).state = .failed) →
        (fwVerify s.flash.minSecurity s.flash.revoked (fwSlot s k).image = none →
          exec (.fwActivate m (.fields k)) s = .next (finished
            (setSlot (clear s) k fun x => { x with state := .trial }) m w St.ok [] 0 0)) ∧
        (∀ step, fwVerify s.flash.minSecurity s.flash.revoked (fwSlot s k).image = some step →
          exec (.fwActivate m (.fields k)) s = .next (finished
            (rejected s step (fwSlot s k).image 2) m w St.imageRejected [] step 0))))

/-- ENTER_STATE (R371, R372): from SERVICE (idle, with no job joined), TEST or RECOVERY to another of them, with presence from
SERVICE to RECOVERY; in START the target is kept for the end of start-up; target 0 asks for an orderly shut-down and is
answered at its end. -/
def Obligations.EnterStateChangesState : Prop :=
  ∀ (m : Fin 64) (s : State) (w : Work) (code : Nat) (dst : DevState), workOf s m 0x0104 = some w →
    targetState code = some dst → s.dev.shutAsked = false → s.dev.target = none →
    (s.dev.state.served = true → dst ≠ .off → dst ≠ s.dev.state → ¬ (s.dev.monitor = true ∧ dst = .service) →
      (s.dev.state = .service → busy s = false ∧ ∀ j ∈ s.jobs, j.joined = false) →
      (s.dev.state = .service → dst = .recovery → w.present = true) →
      ∃ t, exec (.enterState m (.fields code)) s = .next t ∧ t.dev.state = dst ∧ (mbxAt t m).header.status = St.ok ∧
        (mbxAt t m).payload = [(32, dst.code)] ∧ t.mem.epoch = s.mem.epoch + 1 ∧
        t.dev.classP = s.dev.classP + if s.dev.state = .service ∧ dst = .recovery then 1 else 0) ∧
    (s.dev.state = .start → dst ≠ .off → exec (.enterState m (.fields code)) s =
      .next { s with dev := { s.dev with target := some dst } }) ∧
    (dst = .off → s.dev.state ≠ .off → s.dev.state ≠ .halt → exec (.enterState m (.fields code)) s =
      .next { s with dev := { s.dev with shutAsked := true, shutBy := some m, shutAt := s.time } }) ∧
    (s.dev.state.served = true → dst = s.dev.state →
      exec (.enterState m (.fields code)) s = .next (finished s m w St.wrongState [] 0 0))

/-! ### Registers and the host's windows -/

/-- R7: device time is readable as TIME_LO and TIME_HI; a read of TIME_LO gives the lower half and latches the matching upper half,
which TIME_HI then shows, however much time has passed. -/
def Obligations.DeviceTimeReadsInTwoHalves : Prop :=
  ∀ s : State, hostReaches s = true →
    exec .timeLoRead s = .next { s with regs := { s.regs with
      timeHi := BitVec.ofNat 32 (s.time / 2 ^ 32), reply := .data (leBytes 4 s.time) } } ∧
    ∀ t u, exec .timeLoRead s = .next t → u.regs.timeHi = t.regs.timeHi →
      reg64 u 0x10 / 2 ^ 32 = s.time / 2 ^ 32 % 2 ^ 32 ∧ reg64 u 0x10 % 2 ^ 32 = u.time % 2 ^ 32

/-- SLUICE_PI_WRITE and the W1C and address registers of REGISTER_WRITE (R5, R254, R322): SLUICE_PI takes a value no more than the ring size beyond SLUICE_CI, and a larger one sets its error bit alone;
INT_STATUS and SLUICE_ERR clear the bits written as one; ADIT_BASE keeps bits 39 to 16.
REGISTER_WRITE to mailboxes and vectors (R5, R321, R322, R338): bytes go to a request page and to nothing else, the response page
takes none, bit 0 of a doorbell rings its mailbox, and an MSI-X entry takes its address, data and mask, after which
messages that nothing holds any more are sent. Accesses of other sizes, misaligned ones and those to reserved offsets are
discarded, and one that the device does not decode is Unsupported. -/
def Obligations.RegisterWritesTakeEffect : Prop :=
  (∀ s : State, hostReaches s = true →
    (∀ (st : Fin 16) (v : DWord) (x : StreamSlot), s.streams[(st : Nat)]? = some x →
      (x.stream = none → exec (.sluicePiWrite st v) s = .next { s with
        streams := s.streams.set st { x with pi := v.toNat }, regs := { s.regs with reply := .written } }) ∧
      (∀ y, x.stream = some y → v.toNat ≤ y.ci + ringSize y.cfg → exec (.sluicePiWrite st v) s = .next { s with
        streams := s.streams.set st { x with pi := v.toNat, stream := some { y with ci := max y.ci (min v.toNat y.next) } }
        regs := { s.regs with reply := .written } }) ∧
      (∀ y, x.stream = some y → y.ci + ringSize y.cfg < v.toNat → exec (.sluicePiWrite st v) s = .next { s with
        streams := s.streams.set st { x with err := x.err ||| 1 }, regs := { s.regs with reply := .written } }) ∧
      (∀ data, data.length = 8 → exec (.registerWrite (0x3000 + 32 * st + 24) data) s = .next { s with
        streams := s.streams.modify st fun x => { x with err := x.err &&& ~~~(BitVec.ofNat 64 (leValue data)) }
        regs := { s.regs with reply := .written } })) ∧
    (∀ data : List Byte, data.length = 8 →
      exec (.registerWrite 0x18 data) s = .next { s with regs := { s.regs with
        aditBase := BitVec.ofNat 64 (bits (leValue data) 39 16 * 2 ^ 16), reply := .written } } ∧
      exec (.registerWrite 0x20 data) s = .next { s with regs := { s.regs with
        intStatus := s.regs.intStatus &&& ~~~(BitVec.ofNat 64 (leValue data)), reply := .written } })) ∧
  (∀ (s : State) (data : List Byte),
    (hostReaches s = true →
      (∀ (m : Fin 64) (a : Nat), a + data.length ≤ 4096 →
        exec (.registerWrite (0x100000 + 8192 * m + a) data) s = .next { s with
          mbx := s.mbx.modify m fun b => { b with request := Mem.store b.request a data }
          regs := { s.regs with reply := .written } }) ∧
      (∀ (m : Fin 64) (a : Nat), 4096 ≤ a → a < 8192 → a + data.length ≤ 8192 →
        exec (.registerWrite (0x100000 + 8192 * m + a) data) s = .next { s with regs := { s.regs with reply := .written } }) ∧
      (∀ m : Fin 64, data.length = 4 → leValue data % 2 = 1 →
        exec (.registerWrite (0x2000 + 8 * m) data) s = exec (.mbxDoorbell m .ring) s) ∧
      (∀ (k : Fin 64) e, s.link.table[(k : Nat)]? = some e → data.length = 8 →
        exec (.registerWrite (0x1000 + 16 * k) data) s = .next (reply (releaseHeld { s with link := { s.link with
          table := s.link.table.set k { e with address := BitVec.ofNat 64 (leValue data) } } }) .written) ∧
        exec (.registerWrite (0x1000 + 16 * k + 8) data) s = .next (reply (releaseHeld { s with link := { s.link with
          table := s.link.table.set k { e with data := BitVec.ofNat 32 (leValue data),
                                               masked := bits (leValue data) 32 32 == 1 } } }) .written)) ∧
      (∀ o, o < 0x100000 → ((data.length ≠ 4 ∧ data.length ≠ 8) ∨ o % data.length ≠ 0 ∨ (0x28 ≤ o ∧ o < 0x1000)) →
        exec (.registerWrite o data) s = .next { s with regs := { s.regs with reply := .written } })) ∧
    (hostReaches s = false → ∀ o, exec (.registerWrite o data) s =
      .next { s with link := { s.link with aer := true }, regs := { s.regs with reply := .unsupported } }))

/-- ADIT_ACCESS and FULL_MAP_ACCESS on device addresses (R202, R320, R325), in START, TEST and RECOVERY with the stack in service and
no burst in error: a read answers the bytes held and changes nothing, and a write stores its bytes, whether the address is of
free memory or of the frame of an object's slot, of a page's body or of a placement slot, and no other byte. What a write to
allocated bytes that hold none of these leaves is not modelled (log entry 16).
ADIT_ACCESS in SERVICE (R326, R327): inside the view of the mapped object a read answers its bytes and a write puts them into
its current slot and nowhere else; with no object mapped, and for a write to an object that a step uses, reads give zero,
writes do nothing, and each counts in HOST_DISCARDS with its record.
PLACEMENT_ACCESS (R320, R328): in SERVICE a bound slot holds what is written to it inside its size; reads and writes of an
unbound slot, and the part beyond the size, have no effect and count in HOST_DISCARDS. -/
def Obligations.HostWindowsReachBytes : Prop :=
  (∀ (s : State) (o : Nat), wideReaches s = true → deviceView s = true →
    (∀ (c : HostAccess → Instr) (a : Nat),
      ((o < 2 ^ 28 ∧ a = s.regs.aditBase.toNat + o ∧ c = fun acc => .aditAccess o acc []) ∨
       (s.link.bar4Two = true ∧ o < 2 ^ 40 ∧ a = o ∧ c = fun acc => .fullMapAccess o acc [])) →
      stackState s (addrStack (a % 2 ^ 40)) ≠ 3 →
      (∀ n, exec (c (.read n)) s = .next { s with regs := { s.regs with
        reply := .data ((List.range n).map fun i => devByte s ((a + i) % 2 ^ 40)) } }) ∧
      (∀ data : List Byte, a + data.length ≤ 2 ^ 40 → (∀ i < data.length, holderOf s (a + i) = none) →
        exec (c (.write data)) s = .next { s with
          mem := { s.mem with dram := Mem.store s.mem.dram a data }, regs := { s.regs with reply := .written } }) ∧
      (∀ v x n slot i, a < 2 ^ 40 → holderOf s a = some (.obj x n slot i) →
        exec (c (.write [v])) s = .next (reply (setObj s x n fun y =>
          if slot = 0 then { y with data := Mem.set y.data i v } else { y with prev := Mem.set y.prev i v }) .written)) ∧
      (∀ v slot i, a < 2 ^ 40 → holderOf s a = some (.placement slot i) →
        exec (c (.write [v])) s = .next (reply { s with mem := { s.mem with
          placements := modifyWhere (fun p => p.slot == slot) (fun p => { p with data := Mem.set p.data i v })
            s.mem.placements } } .written)) ∧
      (∀ v j val i, a < 2 ^ 40 → holderOf s a = some (.page j val i) →
        exec (c (.write [v])) s = .next (reply { s with kv := { s.kv with
          pages := s.kv.pages.modify j fun p =>
            if val then { p with vals := Mem.set p.vals i v } else { p with keys := Mem.set p.keys i v } } } .written)) ∧
      (∀ v, a < 2 ^ 40 → holderOf s a = some .booked → exec (c (.write [v])) s = .next (reply s .written))) ∧
    (s.link.bar4Two = false → ∀ acc, exec (.fullMapAccess o acc []) s =
      .next { s with link := { s.link with aer := true }, regs := { s.regs with reply := .unsupported } })) ∧
  (∀ (s : State) (o : Nat), wideReaches s = true → s.dev.state = .service → o < 2 ^ 28 →
    let a := s.regs.aditBase.toNat + o
    (∀ c n x, s.mem.adit = some (c, n) → objAt s c n = some x →
      (∀ size, a + size ≤ viewBytes x.entry → exec (.aditAccess o (.read size) []) s = .next { s with
        regs := { s.regs with reply := .data ((List.range size).map fun i => viewByte x (a + i)) } }) ∧
      (∀ data, x.entry.zeroRun = false → objectInHand s c x.entry.object = false → a + data.length ≤ viewBytes x.entry →
        exec (.aditAccess o (.write data) []) s = .next (reply (setObj s c x.entry.object fun y =>
          { y with data := Mem.store y.data a data, t3Copy := false }) .written)) ∧
      (∀ data, objectInHand s c x.entry.object = true →
        exec (.aditAccess o (.write data) []) s = .next (hostDiscard (reply s .written) 1 x.entry.object a))) ∧
    (s.mem.adit = none → ∀ size, exec (.aditAccess o (.read size) []) s =
      .next (hostDiscard (reply s (.data (List.replicate size 0))) 1 0xFFFFFFFF a))) ∧
  (∀ (s : State) (j o : Nat), wideReaches s = true → s.dev.state = .service → j < 1024 → o < 2 ^ 30 →
    (∀ p, placementAt s j = some p →
      (∀ n, o + n ≤ p.bytes → exec (.placementAccess (2 ^ 30 * j + o) (.read n)) s = .next { s with
        regs := { s.regs with reply := .data (Mem.bytes p.data o n) } }) ∧
      (∀ data, o + data.length ≤ p.bytes → exec (.placementAccess (2 ^ 30 * j + o) (.write data)) s = .next { s with
        mem := { s.mem with
          placements := modifyWhere (fun q => q.slot == j) (fun q => { q with data := Mem.store q.data o data })
            s.mem.placements }
        regs := { s.regs with reply := .written } })) ∧
    (placementAt s j = none → ∀ data n,
      exec (.placementAccess (2 ^ 30 * j + o) (.write data)) s = .next (hostDiscard (reply s .written) 2 j o) ∧
      exec (.placementAccess (2 ^ 30 * j + o) (.read n)) s =
        .next (hostDiscard (reply s (.data (List.replicate n 0))) 2 j o)))

/-- CONFIG_REQUEST, UNSUPPORTED_REQUEST, DOE_DISCOVERY, D3HOT_ENTRY, D0_RETURN, BUS_MASTER_DISABLE and MSIX_HELD_RELEASE (R315 to R319,
R332, R374), with the link up and the device out of OFF: before configuration readiness every configuration request is
retried; from then on the identity, the MSI-X bits, Bus Master and D-state act, and nothing else changes.
What releasing held messages does (R319): each vector with a pending message that nothing holds sends one, in the order of
the vectors, and is no longer pending; a held one stays pending; nothing else changes. -/
def Obligations.ConfigurationSpaceActs : Prop :=
  (∀ s : State, s.link.up = true → s.dev.state ≠ .off →
    exec .unsupportedRequest s = .next { s with link := { s.link with aer := true }, regs := { s.regs with reply := .unsupported } } ∧
    (s.dev.stage < 2 → ∀ q i, exec (.configRequest q) s = .next { s with regs := { s.regs with reply := .retry } } ∧
      exec (.doeDiscovery i) s = .next { s with regs := { s.regs with reply := .retry } }) ∧
    (2 ≤ s.dev.stage →
      exec (.configRequest .readIdentity) s = .next { s with regs := { s.regs with 
        reply := .data (leBytes 2 Config.vendorId.toNat ++ leBytes 2 0x2716 ++ leBytes 1 0x43 ++ leBytes 3 0x120000) } } ∧
      exec (.configRequest .readUnsupported) s = .next { s with regs := { s.regs with
        reply := .data [if s.link.aer then 1 else 0] } } ∧
      exec (.configRequest .clearUnsupported) s = .next { s with
        link := { s.link with aer := false }, regs := { s.regs with reply := .written } } ∧
      (∀ on, exec (.configRequest (.writeBusMaster on)) s = .next { s with
        link := { s.link with busMaster := on }, regs := { s.regs with reply := .written } }) ∧
      (∀ e f, exec (.configRequest (.writeMsix e f)) s = .next
        (reply (releaseHeld { s with link := { s.link with msixEnable := e, funcMask := f } }) .written)) ∧
      exec .d3hotEntry s = .next { s with link := { s.link with d3hot := true } } ∧
      exec .busMasterDisable s = .next { s with link := { s.link with busMaster := false } } ∧
      exec (.doeDiscovery 0) s = .next { s with regs := { s.regs with reply := .data [1, 0, 0, 1] } } ∧
      exec (.doeDiscovery 1) s = .next { s with regs := { s.regs with reply := .data [1, 0, 1, 0] } }) ∧
    exec .d0Return s = .next (releaseHeld { s with link := { s.link with d3hot := false } }) ∧
    (∀ e, exec (.msixHeldRelease e) s = .next (releaseHeld (endHold s e)))) ∧
  (∀ s : State,
    (releaseHeld s).link.sent = s.link.sent ++ (List.range 64).filter (fun v => at' s.link.pendingBits v false && !s.link.holds v) ∧
    (∀ v, v < 64 → at' (releaseHeld s).link.pendingBits v false = (at' s.link.pendingBits v false && s.link.holds v)) ∧
    releaseHeld s = { s with link := { s.link with
      sent := (releaseHeld s).link.sent, pendingBits := (releaseHeld s).link.pendingBits } })

/-! ### Resets, start-up and the host link -/

/-- FUNCTION_LEVEL_RESET, HOT_RESET, LINK_DISABLE and HOLD_OFF_EXPIRY (R334, R335): outside OFF the device resets completely, so that
every context, object, page, job, queued step and mailbox is gone and the flash, device time and HOST_DISCARDS stay; start-up
begins again unless a reset input is held or power is not good. The hold-off counts from DL_Down and ends in the same
sequence 100 ms later.
RESET_ASSERT (R334, R335, R398): either reset input takes the device to OFF with the same losses and releases SHDN_DONE;
where time is left, HOST_LINK_LOST with cause 5 is among the lifetime records. PERST_RELEASE: the later of the two releases, with
power good, begins START. -/
def Obligations.ResetsRestartTheDevice : Prop :=
  (∀ (c : Instr) (s : State), s.dev.state ≠ .off →
    ((c ∈ [.functionLevelReset, .hotReset, .linkDisable] ∧ s.link.up = true) ∨
     (c = .holdOffExpiry ∧ s.link.up = false ∧ s.link.downAt + 100000000 ≤ s.time ∧ s.dev.startedAt ≤ s.link.downAt)) →
    ∃ t, exec c s = .next t ∧ t.ctxs = [] ∧ t.kv = {} ∧ t.jobs = [] ∧ t.sched = {} ∧ t.streams = List.replicate 16 {} ∧
      t.mbx = List.replicate 64 {} ∧ t.mem = {} ∧ t.vec = [] ∧ t.time = s.time ∧ t.cfg = s.cfg ∧
      t.flash.slots = s.flash.slots ∧ t.flash.configs = s.flash.configs ∧ t.flash.erasures = s.flash.erasures ∧
      t.regs.hostDiscards = s.regs.hostDiscards ∧ t.dev.lastFatal = s.dev.lastFatal ∧
      t.dev.state = (if s.board.perst || s.board.resetL || !s.board.pwrGood then .off else .start) ∧
      t.link.up = (s.link.up && decide (c ≠ .linkDisable))) ∧
  (∀ (s : State) (pin : ResetPin) (left : Bool),
    (∃ t, exec (.resetAssert pin left) s = .next t ∧ t.dev.state = .off ∧ t.board.shdnDone = false ∧
      (match pin with | .perst => t.board.perst = true | .resetL => t.board.resetL = true) ∧
      (s.dev.state ≠ .off → t.ctxs = [] ∧ t.jobs = [] ∧ t.sched = {} ∧ t.mbx = List.replicate 64 {} ∧ t.mem = {} ∧
        t.flash.slots = s.flash.slots ∧ t.time = s.time)) ∧
    (∀ t, exec (.perstRelease (.release pin)) s = .next t →
      (match pin with | .perst => t.board.perst = false | .resetL => t.board.resetL = false)) ∧
    (s.dev.state = .off → s.board.pwrGood = true →
      (match pin with
        | .perst => s.board.perst = true ∧ s.board.resetL = false
        | .resetL => s.board.resetL = true ∧ s.board.perst = false) →
      ∃ t, exec (.perstRelease (.release pin)) s = .next t ∧ t.dev.state = .start ∧ t.dev.stage = 1 ∧
        t.dev.startedAt = max s.time 100000000 ∧ t.board.position = s.board.straps ∧ t.sched = s.sched ∧ t.mbx = s.mbx))

/-- PERST_RELEASE's later parts (R361 to R365, R374, R376): an image that verifies boots, loads the sets and the repair map from the
flash, counts the power-on, and is ready for configuration; then BAR0 and the mailboxes answer; then SERVICE, or the state
asked for, is entered. Where no slot verifies the recovery monitor runs in RECOVERY.
FW_TRIAL_TIMEOUT (R363): 2 s after start-up began, a trial that has not reached SERVICE or TEST is FAILED, and the device
starts again; a trial that has is left alone. -/
def Obligations.StartUpRunsInOrder : Prop :=
  (∀ (s : State) (env : BootEnv), s.dev.state = .start →
    (s.dev.stage = 1 → s.dev.startedAt ≤ s.time →
      (∀ k, (bootSlot { s with link := { s.link with
            up := decide (0 < env.linkWidth), speed := env.linkSpeed, width := env.linkWidth } }).2 = some k →
        ∃ t, exec (.perstRelease (.boot env)) s = .next t ∧ t.dev.state = .start ∧ t.dev.stage = 2 ∧ t.dev.booted = k ∧
          t.flash.powerOn = s.flash.powerOn + 1 ∧ t.groves = loadGroves s.flash ∧ t.mem = {} ∧
          t.dev.identity = (env.sealCause == 0) ∧ t.dev.reference = (env.referenceCause == 0) ∧
          (∀ i, i < 6 → i < s.cfg.length → ∀ g v, at' s.flash.configs i none = some (g, v) →
            committed t (i + 1) = v ∧ inForce t (i + 1) = v ∧ setGen t (i + 1) = g)) ∧
      ((bootSlot { s with link := { s.link with
            up := decide (0 < env.linkWidth), speed := env.linkSpeed, width := env.linkWidth } }).2 = none →
        ∃ t, exec (.perstRelease (.boot env)) s = .next t ∧ t.dev.state = .recovery ∧ t.dev.monitor = true)) ∧
    (s.dev.stage = 2 →
      ∃ t, exec (.perstRelease .ready) s = .next t ∧ t.dev.state = .start ∧ t.dev.stage = 3 ∧
        t.board.target = 0xFF ∧ t.board.joined = false ∧ t.mbx = s.mbx) ∧
    (s.dev.stage = 3 → s.dev.shutAsked = false →
      ∃ t, exec (.perstRelease .enter) s = .next t ∧ t.dev.state = s.dev.target.getD .service ∧ t.dev.stage = 4 ∧
        t.dev.target = none ∧ t.sched = s.sched ∧
        (s.dev.trial = true → (s.dev.target.getD .service = .service ∨ s.dev.target.getD .service = .test) →
          t.dev.trial = false ∧ (s.dev.booted < s.flash.slots.length → (fwSlot t s.dev.booted).state = .active)))) ∧
  (∀ s : State, s.dev.trial = true → s.dev.startedAt + 2000000000 ≤ s.time →
    ((s.dev.state = .start ∨ s.dev.state = .recovery) →
      ∃ t, exec .fwTrialTimeout s = .next t ∧ t.dev.state = .start ∧ t.dev.stage = 1 ∧ t.dev.trial = false ∧
        (∀ x, s.flash.slots[s.dev.booted]? = some x → fwSlot t s.dev.booted = { x with state := .failed }) ∧
        t.flash.configs = s.flash.configs ∧ t.sched = {} ∧ t.mbx = List.replicate 64 {}) ∧
    ((s.dev.state = .service ∨ s.dev.state = .test) → exec .fwTrialTimeout s = .next s))

/-- DL_DOWN, DL_UP and LINK_RETRAINED (R318, R319, R334): the loss is recorded with its time and nothing else happens; the return and
a change of speed or width are recorded, set INT_STATUS bit 2 and signal vector 0; held messages follow the return.
HOST_ACCESS_ERROR and T3_SHORTFALL (R228, R332): with Bus Master clear the cause is 5; the fetch of an image ends its LOAD_IMAGE, a
host copy loses its generation, a spilled page is lost with its record, and for a tile of a persistent object, a write to
T3 and a schedule that falls short the device enters HALT with the cause's code. -/
def Obligations.HostLinkEventsAct : Prop :=
  (∀ (s : State) (ltssm speed width : Nat), s.dev.state ≠ .off →
    (s.link.up = true → exec (.dlDown ltssm) s = .next (tally
      { s with link := { s.link with up := false, downAt := s.time } } 0x02B0 islandPcie 2 ltssm s.link.speed s.link.width 0)) ∧
    (trains speed width = true →
      let u := { s with link := { s.link with up := true, speed, width } }
      (s.link.up = false → exec (.dlUp speed width) s =
        .next (releaseHeld (deviceEvent (tally u 0x02B2 islandPcie 1 speed width (hostRate u) 0) 2))) ∧
      (s.link.up = true → (speed ≠ s.link.speed ∨ width ≠ s.link.width) → exec (.linkRetrained speed width) s =
        .next (deviceEvent (tally u 0x02B2 islandPcie 1 speed width (hostRate u) 0) 2)))) ∧
  (∀ (s : State) (cause address : Nat), s.dev.state ≠ .off → s.dev.state ≠ .halt →
    let k := if s.link.busMaster then cause else 5
    (∀ (m : Fin 64) w, workOf s m 0x0501 = some w → exec (.hostAccessError cause address (.image m)) s =
      .next (finished (accessError s k address) m w St.invalidField [] 64 0)) ∧
    (∀ j x, jobAt s j = some x → exec (.hostAccessError cause address (.hostCopy j)) s =
      .next (setJob (accessError s k address) j fun _ => { x with hostGen := x.hostGen.set x.generation none })) ∧
    (∀ c q g p, (∃ x ∈ s.kv.spills, x.ctx = c ∧ x.sequence = q ∧ x.group = g ∧ x.position = p) →
      ∃ t, exec (.hostAccessError cause address (.spill c q g p)) s = .next t ∧
        t.kv.spills = s.kv.spills.filter (fun x => !(x.ctx == c && x.sequence == q && x.group == g && x.position == p)) ∧
        t.ctxs = s.ctxs ∧ t.dev = s.dev) ∧
    (∀ c o tile, (objAt s c o).isSome →
      ∃ t, exec (.hostAccessError cause address (.persistentTile c o tile)) s = .next t ∧ t.dev.state = .halt ∧
        t.dev.lastFatal = 0x02B3 ∧ t.sched.run = none ∧ t.sched.queue = []) ∧
    (∀ bytes lag index o, t3Lag s index o ≠ none →
      ∃ t, exec (.t3Shortfall bytes lag index o) s = .next t ∧ t.dev.state = .halt ∧ t.dev.lastFatal = 0x0271 ∧
        t.sched.run = none ∧ t.sched.queue = []) ∧
    (∀ bytes lag index o, t3Lag s index o = none → exec (.t3Shortfall bytes lag index o) s = .next s))

/-! ### Identity, presence, power and heat -/

/-- The SPDM requests without presence (R365, R366), where the responder answers: GET_VERSION starts anew; algorithms other than
ML-DSA-44 with SHA3-256 are refused; a request before they are agreed is unexpected; CHALLENGE and GET_MEASUREMENTS sign over the
transcript with the identity key, and without the key are refused; each answer joins the transcript, and nothing else
changes.
GET_CSR and SET_CERTIFICATE (R367, R368): with presence GET_CSR is signed and slots 1 to 7 take a chain of at most 64 KiB, with
a record; both count towards measurement 10; without presence they are refused, with a record, and no certificate
changes. -/
def Obligations.SpdmAnswersRequests : Prop :=
  (∀ (s : State) (tr : Transport), spdmReaches s tr = true →
    let answers (c : Instr) (code : Nat) (body : List Byte) : Prop := exec c s = .next { s with
      spdm := { s.spdm with code, body, transcript := s.spdm.transcript ++ body } }
    exec (.getVersion tr) s = .next { s with spdm := { ({} : Spdm) with
      code := 0x04, body := Config.spdmBody 0x04 [0x14], transcript := Config.spdmBody 0x04 [0x14] } } ∧
    answers (.getCapabilities tr) 0x61 (Config.spdmBody 0x61 []) ∧
    exec (.negotiateAlgorithms tr true true) s = .next { s with spdm := { s.spdm with
      negotiated := true, code := 0x63, body := Config.spdmBody 0x63 [],
      transcript := s.spdm.transcript ++ Config.spdmBody 0x63 [] } } ∧
    (∀ a b, (a && b) = false → answers (.negotiateAlgorithms tr a b) 0x7F [0x07]) ∧
    (s.spdm.negotiated = false → ∀ slot o n nonce i chain,
      answers (.getDigests tr) 0x7F [0x04] ∧ answers (.getCertificate tr slot o n) 0x7F [0x04] ∧
      answers (.challenge tr slot nonce) 0x7F [0x04] ∧ answers (.getMeasurements tr i nonce) 0x7F [0x04] ∧
      answers (.getCsr tr) 0x7F [0x04] ∧ answers (.setCertificate tr slot chain) 0x7F [0x04]) ∧
    (s.spdm.negotiated = true →
      answers (.getDigests tr) 0x01 (Config.spdmBody 0x01
        (leBytes 1 (((List.range 8).filter fun k => !(certAt s k).isEmpty).map fun k => 2 ^ k).sum ++
          (((List.range 8).filter fun k => !(certAt s k).isEmpty).map fun k =>
            leBytes 32 (Config.sha3 (certAt s k)).toNat).flatten)) ∧
      (∀ slot o n, slot ≤ 7 → o < (certAt s slot).length →
        answers (.getCertificate tr slot o n) 0x02 (Config.spdmBody 0x02 (((certAt s slot).drop o).take n))) ∧
      (∀ slot nonce, slot ≤ 7 → certAt s slot ≠ [] →
        (s.dev.identity = true →
          let b := Config.spdmBody 0x03 (leBytes 32 (Config.sha3 (certAt s slot)).toNat)
          answers (.challenge tr slot nonce) 0x03 (b ++ Config.mlDsaSign (s.spdm.transcript ++ nonce ++ b))) ∧
        (s.dev.identity = false → answers (.challenge tr slot nonce) 0x7F [0x05])) ∧
      (∀ i nonce, 1 ≤ i → i ≤ 10 → s.dev.identity = true →
        let b := Config.spdmBody 0x60 (leBytes 1 i ++ leBytes 32 (measurement s i).toNat)
        answers (.getMeasurements tr i nonce) 0x60 (b ++ Config.mlDsaSign (s.spdm.transcript ++ nonce ++ b))) ∧
      (∀ i nonce, 10 < i → i ≠ 0xFF → answers (.getMeasurements tr i nonce) 0x7F [0x01]))) ∧
  (∀ (s : State) (tr : Transport) (slot : Nat) (chain : List Byte), spdmReaches s tr = true → s.spdm.negotiated = true →
    (presenceOpen s = true →
      (s.dev.identity = true →
        let b := Config.spdmBody 0x6D []
        let x := b ++ Config.mlDsaSign (s.spdm.transcript ++ b)
        exec (.getCsr tr) s = .next { s with
          dev := { s.dev with classP := s.dev.classP + 1 }
          spdm := { s.spdm with code := 0x6D, body := x, transcript := s.spdm.transcript ++ x } }) ∧
      (1 ≤ slot → slot ≤ 7 → chain.length ≤ 65536 →
        ∃ t, exec (.setCertificate tr slot chain) s = .next t ∧ t.flash.certs = s.flash.certs.set slot chain ∧
          t.dev.classP = s.dev.classP + 1 ∧ t.spdm.code = 0x6E ∧ t.flash.slots = s.flash.slots ∧ t.mbx = s.mbx) ∧
      ((slot = 0 ∨ 7 < slot ∨ 65536 < chain.length) →
        ∃ t, exec (.setCertificate tr slot chain) s = .next t ∧ t.flash = s.flash ∧ t.spdm.code = 0x7F)) ∧
    (presenceOpen s = false → ∀ c ∈ [Instr.getCsr tr, .setCertificate tr slot chain],
      ∃ t, exec c s = .next t ∧ t.flash.certs = s.flash.certs ∧ t.spdm.code = 0x7F ∧ t.spdm.body = [0x05] ∧ t.dev = s.dev))

/-- PRESENCE_BUTTON_PRESS, PRESENCE_BUTTON_RELEASE, PRESENCE_WINDOW_EXPIRY and SERVICE_L_CHANGE (R368, R397): a press of 100 ms after a
release of 100 ms opens the window for 30 s or starts the 30 s again, and is not recognised again until the button was
released; the window closes when its time has come; each change sets INT_STATUS bit 3 and signals vector 0. -/
def Obligations.PresenceOpensAndCloses : Prop :=
  ∀ (s : State) (ns : Nat), s.dev.state ≠ .off →
    (100000000 ≤ ns → s.board.armed = true →
      let u := { s with board := { s.board with armed := false, window := some (s.time + 30000000000) } }
      (s.board.window = none → exec (.presenceButtonPress ns) s =
        .next (presenceEvent (tally u 0x02D4 islandForeman 1 1 0 0 0))) ∧
      (s.board.window ≠ none → exec (.presenceButtonPress ns) s = .next u)) ∧
    ((ns < 100000000 ∨ s.board.armed = false) → exec (.presenceButtonPress ns) s = .next s) ∧
    (100000000 ≤ ns → exec (.presenceButtonRelease ns) s = .next { s with board := { s.board with armed := true } }) ∧
    (ns < 100000000 → exec (.presenceButtonRelease ns) s = .next s) ∧
    (∀ at_, s.board.window = some at_ →
      (at_ ≤ s.time → exec .presenceWindowExpiry s =
        .next (presenceEvent { s with board := { s.board with window := none } })) ∧
      (s.time < at_ → exec .presenceWindowExpiry s = .next s)) ∧
    (∀ held, held ≠ s.board.serviceL → exec (.serviceLChange held) s = .next (presenceEvent
      (tally { s with board := { s.board with serviceL := held } } 0x02D4 islandForeman 1 (if held then 2 else 3) 0 0 0)))

/-- POWER_APPLIED, VIN_PRESENT_LOST, POWER_STAGE_SHUTDOWN and FAULT_LATCH_CLEAR (R400 to R402): from 44 V with no fault latched power
is good, device time is zero and start-up begins once the reset inputs stand released; a removal and a shut-down of the power
stage take the device to OFF with everything but the flash lost, latch the fault and keep its cause and voltage; the latch
clears after 1 s below 5 V.
INPUT_OUT_OF_RANGE and INPUT_IN_RANGE (R400): outside 46 to 56 V for more than 10 µs every promise is void and work goes on;
back inside for 100 ms the range stands again; both are recorded. -/
def Obligations.InputPowerComesAndGoes : Prop :=
  (∀ (s : State) (mv : Nat),
    (s.board.pwrGood = false → s.board.faultLatch = false → 44000 ≤ mv → mv ≤ 58000 →
      ∃ t, exec (.powerApplied mv) s = .next t ∧ t.time = 0 ∧ t.board.pwrGood = true ∧ t.board.vinMv = mv ∧
        t.board.inRange = (decide (46000 ≤ mv) && decide (mv ≤ 56000)) ∧ t.flash = s.flash ∧
        t.dev.state = if s.board.perst || s.board.resetL then s.dev.state else .start) ∧
    (s.board.pwrGood = false → (s.board.faultLatch = true ∨ mv < 44000) →
      ∃ t, exec (.powerApplied mv) s = .next t ∧ t.board.pwrGood = false ∧ t.dev = s.dev) ∧
    (s.board.pwrGood = true → ∀ (c : Instr) (cause : StageFault),
      ((c = .vinPresentLost mv ∧ cause = .vinPresentLost) ∨
       (c = .powerStageShutdown cause mv ∧ ((cause = .undervoltage ∧ mv < 42000) ∨ (cause = .overvoltage ∧ 58000 < mv) ∨
          cause = .overcurrent ∨ cause = .thermalTrip))) →
      ∃ t, exec c s = .next t ∧ t.dev.state = .off ∧ t.board.pwrGood = false ∧ t.board.faultLatch = true ∧
        t.flash = { s.flash with powerFault := some (cause.code, mv) } ∧ t.ctxs = [] ∧ t.jobs = [] ∧ t.sched = {} ∧
        t.mem = {} ∧ t.link.up = false ∧ t.dev.lastFatal = 0 ∧ t.regs.hostDiscards = 0) ∧
    (∀ ns, s.board.pwrGood = false → 1000000000 ≤ ns →
      exec (.faultLatchClear ns) s = .next { s with board := { s.board with faultLatch := false } })) ∧
  (∀ (s : State) (mv ns : Nat), s.board.pwrGood = true → s.dev.state ≠ .off →
    (s.board.inRange = true → 42000 ≤ mv → mv ≤ 58000 → (mv < 46000 ∨ 56000 < mv) → 10000 < ns →
      ∃ t, exec (.inputOutOfRange mv ns) s = .next t ∧ t.board.inRange = false ∧ t.board.vinMv = mv ∧
        t.board.outSince = s.time ∧ (∀ a ∈ inHand t, a.drill = false → a.void = true) ∧
        t.sched.queue.length = s.sched.queue.length ∧ t.sched.run.isSome = s.sched.run.isSome ∧ t.dev = s.dev) ∧
    (s.board.inRange = false → 46000 ≤ mv → mv ≤ 56000 → 100000000 ≤ ns →
      exec (.inputInRange mv ns) s = .next (tally { s with board := { s.board with vinMv := mv, inRange := true } }
        0x02F1 islandModule 1 mv ((s.time - s.board.outSince) / 1000000) 0 0)))

/-- POWER_LIMIT and the temperatures (R403, R406), and DYNAMIC_ADDRESS_ASSIGNMENT (R396): power beyond 3,150 W over a second or
3,450 W over 20 ms and a sensor at its limit are fatal; rising through a warning is recorded once; a trip shuts the power stage
down; otherwise the value alone is kept. -/
def Obligations.LimitsOfPowerAndHeat : Prop :=
  ∀ s : State, s.dev.state ≠ .off →
    (∀ w, s.board.pwrGood = true →
      (w ≤ 3150 → exec (.powerLimit true w) s = .next { s with board := { s.board with watts1s := w } }) ∧
      (w ≤ 3450 → exec (.powerLimit false w) s = .next { s with board := { s.board with watts20ms := w } }) ∧
      (s.dev.state ≠ .halt → 3150 < w → ∃ t, exec (.powerLimit true w) s = .next t ∧ t.dev.state = .halt ∧
        t.dev.lastFatal = 0x02F4) ∧
      (s.dev.state ≠ .halt → 3450 < w → ∃ t, exec (.powerLimit false w) s = .next t ∧ t.dev.state = .halt ∧
        t.dev.lastFatal = 0x02F4)) ∧
    (∀ (x : Sensor) (c : Nat),
      (sensorValue s.board x < (thresholds x).1 → (thresholds x).1 ≤ c → exec (.thermalWarning x c) s =
        .next (tally (setSensor s x c) 0x02F2 islandModule 2 x.code x.index c 0)) ∧
      ((thresholds x).1 ≤ sensorValue s.board x → exec (.thermalWarning x c) s = .next (setSensor s x c)) ∧
      (c < (thresholds x).2.1 → exec (.thermalLimit x c) s = .next (setSensor s x c)) ∧
      (s.dev.state ≠ .halt → (thresholds x).2.1 ≤ c → ∃ t, exec (.thermalLimit x c) s = .next t ∧
        t.dev.state = .halt ∧ t.dev.lastFatal = 0x02F3 ∧ t.sched.queue = []) ∧
      (∀ trip, (thresholds x).2.2 = some trip → trip ≤ c → s.board.pwrGood = true →
        ∃ t, exec (.thermalTrip x c) s = .next t ∧ t.dev.state = .off ∧ t.board.pwrGood = false ∧
          t.flash.powerFault = some (4, s.board.vinMv))) ∧
    (∀ a, exec (.dynamicAddressAssignment a) s = .next { s with board := { s.board with i3c := some a } })

/-- SHDN_REQ, SHUTDOWN_BEGIN and SHUTDOWN_AFTER_STEPS (R377, R398): a rising request asks for an orderly shut-down in a working
state and is answered at once by SHDN_DONE in HALT and OFF; step 1 refuses the submissions in progress; once no step is left
the islands are tested, the device goes to OFF with SHDN_DONE, and nothing but the flash stays. -/
def Obligations.ShutDownIsOrderly : Prop :=
  ∀ s : State,
    (s.board.shdnReq = false → startWaits s = false → s.dev.shutAsked = false →
      (s.dev.state ≠ .off → s.dev.state ≠ .halt → exec (.shdnReq true) s = .next { s with
        board := { s.board with shdnReq := true }
        dev := { s.dev with shutAsked := true, shutBy := none, shutAt := s.time } }) ∧
      (s.dev.state = .halt → exec (.shdnReq true) s = .next { s with
        board := { s.board with shdnReq := true, shdnDone := true } })) ∧
    (exec (.shdnReq false) s = .next { s with board := { s.board with shdnReq := false } }) ∧
    (s.dev.shutAsked = true → s.dev.shutStep = 0 →
      (othersDone s = true → ∃ t, exec .shutdownBegin s = .next t ∧ t.dev = { s.dev with shutStep := 2 } ∧
        t.sched = s.sched ∧ (∀ m, m < 64 → ∀ w, (mbxAt s m).work = some w → shutOpcodes.contains w.opcode = true →
          (mbxAt t m).work = none ∧ (mbxAt t m).header.status = St.wrongState)) ∧
      (othersDone s = false → exec .shutdownBegin s = .next s)) ∧
    (∀ sigs ms, s.dev.shutStep = 2 → s.dev.state ≠ .off → s.dev.state ≠ .halt →
      (busy s = false → ∃ t, exec (.shutdownAfterSteps sigs ms) s = .next t ∧ t.dev.state = .off ∧
        t.board.shdnDone = true ∧ t.ctxs = [] ∧ t.jobs = [] ∧ t.sched = {} ∧ t.streams = List.replicate 16 {} ∧
        t.mem = {} ∧ t.flash.slots = s.flash.slots ∧ t.flash.configs = s.flash.configs ∧ t.time = s.time ∧
        (s.dev.reference = true → t.flash.bistDone = s.flash.powerOn ∧
          ∀ i ∈ testedIslands, ∃ b ∈ t.flash.bist, b.island = i ∧ b.source = 1 ∧ b.testedAt = s.flash.powerOn) ∧
        (s.dev.reference = false → t.flash.bist = s.flash.bist ∧ t.flash.bistDone = s.flash.bistDone)) ∧
      (busy s = true → exec (.shutdownAfterSteps sigs ms) s = .next s))

/-! ### Steps and instances -/

/-- STEP_START and CONTEXT_SWITCH (R69, R79, R85, R246): the oldest admitted step becomes the running one, unless its promise waits
to be given again or its job's group is lost; its record goes from QUEUED to RUNNING, and groves keep their state or, without
admitted work, enter the idle one; a step that has lost more groves than its reserve covers is fatal. The switch brings the
persistent objects the step uses into T1 and makes its context the current one.
READMISSION (R87): the first step that a voiding left behind, once no step before it is void, is sought again in its place, with
T_D the moment at which the voided step completed: found, and inside its deadline, it has a new promise; else it leaves the queue. -/
def Obligations.StepsStartInOrder : Prop :=
  (∀ (s : State) (a : Admitted) (rest : List Admitted), s.dev.state ≠ .off → s.dev.state ≠ .halt →
    (s.sched.run = none → s.sched.queue = a :: rest → a.voidedBehind = false →
      (∀ j, jobAt s a.job = some j → j.lost = 0) →
      (a.groves ≤ a.covered + (inService s).length →
        ∃ t r, exec .stepStart s = .next t ∧ t.sched.run = some r ∧ t.sched.queue = rest ∧ r.adm = a ∧ r.started = s.time ∧
          r.switched = decide (s.sched.current = some a.ctx) ∧ r.executed = [] ∧ r.complete = [] ∧
          (∀ k, (groveAt t k).role = (groveAt s k).role ∧
            ((groveAt t k).power = (groveAt s k).power ∨ ((groveAt t k).power = idleGrove s ∧ serves s k = true))) ∧
          (∀ x, s.sched.records.find? (fun x => x.job == a.job && x.step == a.step) = some x → x.state = 0 →
            t.sched.records.find? (fun x => x.job == a.job && x.step == a.step) = some { x with state := 1 }) ∧
          t.dev = s.dev ∧ t.mbx = s.mbx) ∧
      (a.covered + (inService s).length < a.groves →
        ∃ t, exec .stepStart s = .next t ∧ t.dev.state = .halt ∧ t.dev.lastFatal = 0x0213)) ∧
    (s.sched.run = none → s.sched.queue = a :: rest → a.voidedBehind = true → exec .stepStart s = .next s) ∧
    (∀ r, s.sched.run = some r → exec .stepStart s = .next s ∧
      (r.switched = false → ∃ t, exec .contextSwitch s = .next t ∧ t.sched.current = some r.adm.ctx ∧
        t.sched.run = some { r with switched := true } ∧ t.sched.queue = s.sched.queue ∧
        (∀ n o, objAt s r.adm.ctx n = some o → objAt t r.adm.ctx n = some
          (if Role.persistent o.entry.role && usesObject r.adm.image o.entry.object then { o with inT1 := true } else o)) ∧
        (∀ c, c ≠ r.adm.ctx → ctxAt t c = ctxAt s c)) ∧
      (r.switched = true → exec .contextSwitch s = .next s))) ∧
  (∀ s : State, (readmittable s = none → exec .readmission s = .next s) ∧
    (∀ a before, readmittable s = some (a, before) → a ∈ s.sched.queue →
      (∀ b u peak rests t0, seek (setQueued s a fun x => { x with booked := 0 }) before a.image a.step a.takes =
          .found b u peak rests t0 →
        ((a.deadline = 0 ∨ t0 + b.total - s.sched.voidedAt ≤ a.deadline) →
          ∃ t, exec .readmission s = .next t ∧ t.sched.queue.length = s.sched.queue.length ∧
            (∃ x ∈ t.sched.queue, x.job = a.job ∧ x.step = a.step ∧ x.promise = t0 + b.total ∧ x.bound = b.total ∧
              x.void = false ∧ x.voidedBehind = false)) ∧
        (a.deadline ≠ 0 → a.deadline < t0 + b.total - s.sched.voidedAt →
          ∃ t, exec .readmission s = .next t ∧ t.sched.queue.map (fun x => (x.job, x.step)) =
            (s.sched.queue.filter fun x => !x.same a).map (fun x => (x.job, x.step)))) ∧
      (∀ st, seek (setQueued s a fun x => { x with booked := 0 }) before a.image a.step a.takes = .refused st →
        ∃ t, exec .readmission s = .next t ∧ t.sched.queue.map (fun x => (x.job, x.step)) =
          (s.sched.queue.filter fun x => !x.same a).map (fun x => (x.job, x.step)))))

/-- INSTANCE_COMPLETE (R55, R80, R201, R223): an executed instance completes once, which releases its successors; one that has not
executed or is already complete changes nothing. A correction by a core die's own code only counts; a parity error of a Lode engine
and the loss of a stack controller are fatal, and the step ends.
STEP_COMPLETE (R62, R86, R88, R349, R353): a step with nothing left to do ends; its record keeps the completion time, and its
status says whether it was void, late, in a degraded layout or as promised; its transient objects end; the job's last completed
step is this one. -/
def Obligations.StepsAndInstancesComplete : Prop :=
  (∀ (s : State) (r : Run) (i : InstId), s.sched.run = some r → s.dev.state ≠ .halt →
    (i ∈ r.executed → i ∉ r.complete →
      (∃ t r', exec (.instanceComplete ⟨i, []⟩) s = .next t ∧ t.sched.run = some r' ∧ r'.complete = i :: r.complete ∧
        r'.executed = r.executed ∧ r'.adm = r.adm ∧ t.sched.queue = s.sched.queue ∧ t.dev = s.dev) ∧
      (∀ d, r.adm.image.descs[i.index]? = some d → d.opcode ∉ [5, 8, 12] →
        exec (.instanceComplete ⟨i, []⟩) s = .next (setRun s fun r => { r with complete := i :: r.complete }) ∧
        ∀ k : Fin 16, exec (.instanceComplete ⟨i, [.onDie k]⟩) s = .next (setRun
          { s with hbm := s.hbm.modify k fun x => { x with onDie := x.onDie + 1 } } fun r => { r with complete := i :: r.complete })) ∧
      (s.dev.state ≠ .off → ∀ (k : Fin 16) (function : Nat),
        (∃ t, exec (.instanceComplete ⟨i, [.lode k function]⟩) s = .next t ∧ t.dev.state = .halt ∧ t.dev.lastFatal = 0x0266 ∧
          t.sched.run = none ∧ t.sched.queue = []) ∧
        ∃ t, exec (.instanceComplete ⟨i, [.controller k]⟩) s = .next t ∧ t.dev.state = .halt ∧ t.sched.run = none)) ∧
    ((i ∉ r.executed ∨ i ∈ r.complete) → ∀ met, exec (.instanceComplete ⟨i, met⟩) s = .next s)) ∧
  (∀ (s : State) (r : Run), s.sched.run = some r → s.dev.state ≠ .halt →
    (stepDone s r = true → r.mismatchEnd = false →
      ∃ t, exec .stepComplete s = .next t ∧ t.sched.run = none ∧
        t.sched.queue.map (fun a => (a.job, a.step, a.promise)) = s.sched.queue.map (fun a => (a.job, a.step, a.promise)) ∧
        t.sched.current = some r.adm.ctx ∧ t.vec = [] ∧
        (∃ j, jobAt t r.adm.job = some j ∧ j.lastCompleted = some r.adm.step) ∧
        (∀ c, ctxAt t r.adm.ctx = some c → ∀ o ∈ c.objects, Role.persistent o.entry.role = true ∧ o.other = none) ∧
        (∀ x j, s.sched.records.length ≤ 256 → jobAt s r.adm.job = some j →
          s.sched.records.find? (fun x => x.job == r.adm.job && x.step == r.adm.step) = some x →
          t.sched.records.find? (fun x => x.job == r.adm.job && x.step == r.adm.step) = some { x with
            completed := s.time, residual := r.residual, state := if r.adm.void then 3 else 2,
            status := if r.adm.void then St.promiseVoid else if !r.adm.drill && decide (x.effective < s.time) then St.promiseMissed
              else if j.degraded then St.shoringDegraded else St.ok })) ∧
    (stepDone s r = false → exec .stepComplete s = .next s))

/-- ARRAY_MISMATCH, SPARE_WARM and SAPLING_MISMATCH (R91, R103 to R110, R178): a check that passes changes nothing; a mismatch whose
recompute passes counts once against its grove, and the third within 10^12 tiles makes it suspect; two failing recomputes take it out
of service, as a double-bit or parity error does; a single-bit error of its store only counts. A spare that was being readied
is WARM; on an idle device a waiting takeover follows. A Sapling mismatch whose recompute passes is recorded; one that repeats,
and a parity error, are fatal.
ISLAND_SLEEP and ISLAND_WAKE (R82 to R85): an island that the Foreman manages, whose last event is over by the schedule, takes
the state that the gap before its next one allows, by the break-even times of Table 5, or without one its idle state, and loses
its SRAM in C3; one that an instance runs on stays; when its wake is due it wakes to P0, and not before; no other island's state
changes.
PATROL_SCRUB_SLICE (R207 to R210): a slice that is due, on a stack that is awake, counts towards the pass of 4,096; a burst of
the slice within the code's reach is corrected and counted, and memory's contents do not change. A slice that is not due, and one of a
stack in self-refresh, does nothing. -/
def Obligations.CheckersIslandsAndPatrolAct : Prop :=
  (∀ s : State, s.dev.state ≠ .off → s.dev.state ≠ .halt →
    (∀ (g : Fin 128) where_ row column trials, g < s.groves.length → groveWorks s g = true →
      let met := exec (.arrayMismatch g where_ row (.mismatch column trials)) s
      (failures 3 trials = 0 → met = .next s) ∧
      (failures 3 trials = 1 → ∃ t, met = .next t ∧
        (groveAt t g).mismatches = capAt 65535 ((groveAt s g).mismatches + 1) ∧
        (groveAt t g).recomputes = capAt (2 ^ 32 - 1) ((groveAt s g).recomputes + 1) ∧
        (∀ a b c, keepLast 3 ((groveAt s g).hist ++ [(groveAt s g).tiles]) = [a, b, c] → tilesSince a c < 10 ^ 12 →
          (groveAt t g).role = .suspect) ∧
        ((keepLast 3 ((groveAt s g).hist ++ [(groveAt s g).tiles])).length < 3 → (groveAt t g).role = (groveAt s g).role) ∧
        t.dev = s.dev ∧ t.sched = s.sched) ∧
      (failures 3 trials = 3 → ∃ t, met = .next t ∧ (groveAt t g).role = .retired) ∧
      (∀ e ∈ [GroveError.storeDouble, .storePath, .vector, .other],
        ∃ t, exec (.arrayMismatch g where_ row e) s = .next t ∧ (groveAt t g).role = .retired) ∧
      exec (.arrayMismatch g where_ row .storeSingle) s = .next (setGrove s g fun x => { x with sec := capAt 65535 (x.sec + 1) })) ∧
    (∀ g : Fin 128, (groveAt s g).readying = true → (groveAt s g).role = .spare → g < s.groves.length →
      (busy s = true → exec (.spareWarm g) s =
        .next (setGrove s g fun x => { x with readying := false, warm := true, power := .c1 })) ∧
      (busy s = false → (∀ x ∈ s.groves, x.neededAt = none) → s.islands.retireAsked = [] →
        ∃ t, exec (.spareWarm g) s = .next t ∧
          t.groves = s.groves.modify g fun x => { x with readying := false, warm := true, power := .c1 })) ∧
    (∀ die p n k trials,
      (saplingFailures 3 trials = 1 → exec (.saplingMismatch die p n k (.mismatch trials)) s =
        .next (tally s 0x0240 (islandSapling die) 1 p n k 0)) ∧
      (saplingFailures 3 trials = 3 → ∃ t, exec (.saplingMismatch die p n k (.mismatch trials)) s = .next t ∧
        t.dev.state = .halt ∧ t.dev.lastFatal = 0x0241) ∧
      ∃ t, exec (.saplingMismatch die p n k .parity) s = .next t ∧ t.dev.state = .halt ∧ t.dev.lastFatal = 0x0241)) ∧
  (∀ (s : State) (i gap : Nat) (sram busyIn : Bool), powerManaged s i = true →
    (wakeDue s i = true → exec (.islandWake i) s = .next (setPower s i .p0)) ∧
    (wakeDue s i = false → exec (.islandWake i) s = .next s) ∧
    (islandInUse s i = false → ((nextEvent s i).isSome → (lastEnd s i).le (Frac.ofNat s.time) = true) →
      (sleepState s i ≠ .c3 → exec (.islandSleep i gap sram busyIn) s = .next (setPower s i (sleepState s i))) ∧
      (sleepState s i = .c3 → exec (.islandSleep i gap sram busyIn) s = .next (loseSram (setPower s i .c3) i))) ∧
    (islandInUse s i = true → exec (.islandSleep i gap sram busyIn) s = .next s) ∧
    (nextEvent s i = none → sleepState s i = idleState s i) ∧
    (islandStack 0 ≤ i → i < islandForeman → chooseState s i gap sram busyIn =
      if busyIn = false ∧ 1200 < gap then .refresh else .p0) ∧
    (i < 128 → gap ≤ 1000 → chooseState s i gap sram busyIn = .p0) ∧
    (i < 128 → 1000 < gap → gap ≤ 50000 → chooseState s i gap sram busyIn = .c1) ∧
    (i < 128 → 50000 < gap → (gap ≤ 20000000 ∨ sram = true) → chooseState s i gap sram busyIn = .c2) ∧
    (i < 128 → 20000000 < gap → sram = false → chooseState s i gap sram busyIn = .c3)) ∧
  (∀ (s : State) (k : Fin 16) (x : Stack), stackRuns s = true → s.hbm[(k : Nat)]? = some x →
    ((sliceDue s k = false ∨ stackAsleep s k = true) → ∀ l, exec (.patrolScrubSlice k l) s = .next s) ∧
    (sliceDue s k = true → stackAsleep s k = false →
    (x.slice = 4095 → exec (.patrolScrubSlice k []) s = .next { s with
      hbm := s.hbm.set k { x with lastSlice := some s.time, slice := 0, passes := capAt 65535 (x.passes + 1) } }) ∧
    (x.slice ≠ 4095 → exec (.patrolScrubSlice k []) s = .next { s with
      hbm := s.hbm.set k { x with lastSlice := some s.time, slice := x.slice + 1 } }) ∧
    (∀ e : BurstError, e.errors ≠ [] → addrStack e.address = k → bits e.address 35 24 = x.slice → correctable s e = true →
      ∃ t, exec (.patrolScrubSlice k [e]) s = .next t ∧ t.mem = s.mem ∧ t.ctxs = s.ctxs ∧
        (at' t.hbm k {}).corrected = capAt (2 ^ 32 - 1) (x.corrected + 1))))

/-- MATMUL, CONV, ATTN_SCORE, ATTN_APPLY, KV_APPEND, KV_SELECT, VEC, UPDATE, MOVE and RECOMPUTE (R53, R55 to R59, R61, R64, R118, R142 to R158,
R164, R176, R181, R241): an instance of the running step that may start has its whole effect in one command and is then executed,
and not complete before INSTANCE_COMPLETE. On a Sapling engine its filter must be in the engine's buffer, which it frees, and the
engine's instances go in order; a KV_APPEND that no path orders takes its pages after the appends before it; a RECOMPUTE waits for
the data of its segment's collectives.
REDUCE, GATHER, SLUICE_TAKE, SCALE_SYNC and BARRIER (R27 to R30, R54, R264, R265, R284 to R287): a collective waits for its entry
round and its data, having sent what it can, a take for its positions, a SCALE_SYNC for the instances that touch its entries; then
each has its effect and is executed. On a device alone in its job a REDUCE or GATHER waits for nothing. The implicit SCALE_SYNC
follows every instance.
The implicit SCALE_SYNC (R30), once every instance is complete: the entries that no SCALE_SYNC names take their next
values, which hold from the next step on. -/
def Obligations.InstancesExecute : Prop :=
  (∀ (s : State) (r : Run) (i : InstId) (d : Desc), s.sched.run = some r → r.adm.image.descs[i.index]? = some d →
    startable s r i d → s.dev.state ≠ .halt →
    let img := r.adm.image
    let whole (c : Instr) (go : Run → Desc → State → State) : Prop := ∃ t, exec c s = .next t ∧ executes s r i d go t
    (d.opcode = 0x01 → whole (.matmul i) (matmulDo i)) ∧
    (d.opcode = 0x02 → onSapling img d = false → whole (.conv i) fun r d s => convDeal i r d (convDo i r d s)) ∧
    (d.opcode = 0x02 → onSapling img d = true → i ∈ r.filters →
      (∀ j ∈ saplingInsts img, precedes img j i = true → saplingRank img j % 4 = saplingRank img i % 4 →
        j ∈ r.executed ∨ instDone r j = true) →
      whole (.conv i) fun r d s => freeFilter (convDo i r d s) (saplingRank r.adm.image i % 4) i) ∧
    (d.opcode = 0x03 → whole (.attnScore i) (scoreDo i)) ∧
    (d.opcode = 0x04 → whole (.attnApply i) (applyDo i)) ∧
    (d.opcode = 0x05 → (∀ j ∈ img.insts, ∀ x, img.descs[j.index]? = some x → x.opcode = 5 → precedes img j i = true →
        j ∈ r.executed ∨ instDone r j = true ∨ hasPath img i j = true) →
      whole (.kvAppend i) (appendDo i)) ∧
    (d.opcode = 0x06 → whole (.kvSelect i) (selectDo i)) ∧
    (d.opcode = 0x07 → whole (.vec i) (vecInstDo i)) ∧
    (d.opcode = 0x08 → whole (.update i) (updateAll i)) ∧
    (d.opcode = 0x0B → whole (.move i) (moveDo i)) ∧
    (d.opcode = 0x0D → segmentReady i r d s = true → whole (.recompute i) (recomputeDo i)) ∧
    (d.opcode = 0x0D → segmentReady i r d s = false → exec (.recompute i) s = .next s)) ∧
  (∀ (s : State) (r : Run) (i : InstId) (d : Desc), s.sched.run = some r → r.adm.image.descs[i.index]? = some d →
    startable s r i d → s.dev.state ≠ .halt →
    let img := r.adm.image
    let n := collectiveNumber img i
    let alone := (partyOf s r.adm.job 1).box = none ∧ (partyOf s r.adm.job (d.param 0)).box = none ∧ shadowsOf s r.adm.job = []
    let whole (c : Instr) (u : State) (x : Run) (go : Run → Desc → State → State) : Prop :=
      u.sched.run = some x → ∃ t, exec c s = .next t ∧ executes u x i d go t
    (d.opcode = 0x09 → jobRuns s r.adm.job = true → r.mismatchEnd = false →
      (alone → (readerView s img (d.opr 0).object).isSome → whole (.reduce i) s r fun r d s => (reduceDo i r d s).getD s) ∧
      (entered s r n = true → (reduceDo i r d (reduceSend i r d s)).isSome →
        ∀ x, whole (.reduce i) (reduceSend i r d s) x fun r d s => (reduceDo i r d s).getD s) ∧
      (entered s r n = true → reduceDo i r d (reduceSend i r d s) = none →
        exec (.reduce i) s = .next (reduceSend i r d s)) ∧
      (entered s r n = false → exec (.reduce i) s = .next s)) ∧
    (d.opcode = 0x0A → jobRuns s r.adm.job = true → r.mismatchEnd = false →
      (alone → d.param 0 ≠ 2 → (readerView s img (d.opr 0).object).isSome → (img.entry (d.opr 1).object).isSome →
        whole (.gather i) s r fun r d s => (gatherDo i r d s).getD s) ∧
      (entered s r n = true → (gatherDo i r d (gatherSend i r d s)).isSome →
        ∀ x, whole (.gather i) (gatherSend i r d s) x fun r d s => (gatherDo i r d s).getD s) ∧
      (entered s r n = true → gatherDo i r d (gatherSend i r d s) = none →
        exec (.gather i) s = .next (gatherSend i r d s)) ∧
      (entered s r n = false → exec (.gather i) s = .next s)) ∧
    (d.opcode = 0x0C →
      ((takeReady s r i d).isSome = true → whole (.sluiceTake i) s r (takeDo i)) ∧
      (takeReady s r i d = none → exec (.sluiceTake i) s = .next s)) ∧
    (d.opcode = 0x0E → i ≠ ⟨0, 0, img.descs.length⟩ →
      (∀ j ∈ img.insts, j = i ∨ instDone r j = true) → ∀ parts,
      (d.jobWide = false → whole (.scaleSync i parts) s r fun r d s => syncScales s r.adm.ctx (syncEntries r.adm.image d) true []) ∧
      (d.jobWide = true → entered s r n = true → jobRuns s r.adm.job = true →
        whole (.scaleSync i parts) s r fun r d s => syncScales s r.adm.ctx (syncEntries r.adm.image d) (contributes r) parts)) ∧
    (d.opcode = 0x0F →
      ((d.jobWide = false ∨ (entered s r n = true ∧ jobRuns s r.adm.job = true)) →
        whole (.barrier i) s r fun _ _ s => s) ∧
      (d.jobWide = true → entered s r n = false → exec (.barrier i) s = .next s))) ∧
  (∀ (s : State) (r : Run) (parts : List ScalePart), s.sched.run = some r →
    let i : InstId := ⟨0, 0, r.adm.image.descs.length⟩
    (i ∉ r.executed → (∀ j ∈ r.adm.image.insts, instDone r j = true) →
      exec (.scaleSync i parts) s = .next (markExecuted (syncScales s r.adm.image.ctx (implicitEntries r.adm.image) true []) i)) ∧
    ((i ∈ r.executed ∨ ∃ j ∈ r.adm.image.insts, instDone r j = false) → exec (.scaleSync i parts) s = .next s))

/-- What every instance leaves alone (R55): time, the module, the device's state, the host link, the registers, the mailboxes,
the configuration sets, the stacks, device memory, the queue, the running step's admission and its completed instances; the
executed ones grow by this instance or not at all.
The bytes that an instance does not store to (R55, R241): an object that a MATMUL, CONV, ATTN_SCORE, ATTN_APPLY,
KV_APPEND, KV_SELECT, MOVE, BARRIER or SCALE_SYNC does not write is as it was, whatever its context; a packed MATMUL writes the C
objects of the problems that it reads in its list. -/
def Obligations.InstancesLeaveTheRest : Prop :=
  (∀ (s t : State) (i : InstId) (c : Instr),
    (c ∈ [.matmul i, .conv i, .attnScore i, .attnApply i, .kvAppend i, .kvSelect i, .vec i, .update i, .reduce i, .gather i, .move i,
        .sluiceTake i, .recompute i, .barrier i] ∨ ∃ parts, c = .scaleSync i parts) →
    exec c s = .next t →
    t.time = s.time ∧ t.board = s.board ∧ t.dev = s.dev ∧ t.link = s.link ∧ t.regs = s.regs ∧ t.mbx = s.mbx ∧ t.cfg = s.cfg ∧
    t.hbm = s.hbm ∧ t.mem = s.mem ∧ t.spdm = s.spdm ∧ t.flash.slots = s.flash.slots ∧
    t.flash.configs = s.flash.configs ∧ t.sched.queue = s.sched.queue ∧ t.sched.current = s.sched.current ∧
    t.sched.run.map (fun r => (r.adm, r.complete)) = s.sched.run.map (fun r => (r.adm, r.complete)) ∧
    (t.sched.run.map (fun r => r.executed) = s.sched.run.map (fun r => i :: r.executed) ∨ t = s)) ∧
  (∀ (s t : State) (r : Run) (i : InstId) (d : Desc) (c : Instr), s.sched.run = some r → r.adm.image.descs[i.index]? = some d →
    let img := r.adm.image
    let outs : List Nat := match c with
      | .matmul _ => if d.param 3 % 2 = 1 then
          match oprObj s img d 0 with
          | some list => (readProblems list (baseOf d 0 i) (d.param 0)).map fun p => p.c
          | none => []
        else [(d.opr 2).object]
      | .conv _ | .attnScore _ | .attnApply _ | .kvSelect _ => [(d.opr 2).object]
      | .move _ => [(d.opr 1).object]
      | _ => []
    (c ∈ [.matmul i, .conv i, .attnScore i, .attnApply i, .kvAppend i, .kvSelect i, .move i, .barrier i] ∨
      ∃ parts, c = .scaleSync i parts) →
    exec c s = .next t →
    ∀ k n, (k ≠ img.ctx ∨ n ∉ outs) → objAt t k n = objAt s k n)

/-- An instance that has executed does not execute again, and nothing executes before the context switch, after the step's
micro-batch was dropped, or ahead of its predecessors (R55 to R59, R246). -/
def Obligations.InstancesWaitTheirTurn : Prop :=
  ∀ (s : State) (r : Run) (i : InstId) (d : Desc) (c : Instr), s.sched.run = some r →
    r.adm.image.descs[i.index]? = some d →
    c ∈ [.matmul i, .conv i, .attnScore i, .attnApply i, .kvAppend i, .kvSelect i, .vec i, .update i, .reduce i, .gather i, .move i,
        .sluiceTake i, .recompute i, .barrier i] →
    (r.switched = false ∨ i ∈ r.executed ∨ (∃ j ∈ predsOf r.adm.image i, instDone r j = false) ∨
      ((mbLoopOf r.adm.image d).isSome ∧ i.mb ∈ r.dropped)) →
    exec c s = .next s

/-- FILTER_LOAD (R73, R176): the filter of a Sapling instance, once nothing writes it any more and its schedule lets the move
start, goes into the idle buffer of its engine, which is then the other one; a buffer that is full takes none.
VEC_RUN (R61, R114, R118, R120): one run of a VEC instance on the grove that it is dealt to, whole or as its begin and its end,
which comes once the program has ended, with the run marked once; a run that has been made is not made again, and no other grove
makes it. -/
def Obligations.FiltersLoadAndRunsAreMadeOnce : Prop :=
  (∀ (s : State) (r : Run) (i : InstId) (d : Desc) (e : Sapling) (o : Obj), s.sched.run = some r → i ∈ saplingInsts r.adm.image →
    i ∉ r.filters → r.adm.image.descs[i.index]? = some d → s.islands.saplings[saplingRank r.adm.image i % 4]? = some e →
    (at' e.buffers e.idle none = none → ¬ ((mbLoopOf r.adm.image d).isSome ∧ i.mb ∈ r.dropped) →
      (∀ j ∈ predsOf r.adm.image i, ∀ x, r.adm.image.descs[j.index]? = some x →
        (d.opr 0).object ∈ writtenObjects r.adm.image x → instDone r j = true) →
      planFree s r (.filter i) = true → oprObj s r.adm.image d 0 = some o →
      exec (.filterLoad i) s = .next { s with
        islands := { s.islands with
          saplings := s.islands.saplings.set (saplingRank r.adm.image i % 4)
            { e with buffers := e.buffers.set e.idle (some (i, o.data)), idle := 1 - e.idle } }
        sched := { s.sched with run := some { r with filters := i :: r.filters } } }) ∧
    (at' e.buffers e.idle none ≠ none → exec (.filterLoad i) s = .next s)) ∧
  (∀ (s : State) (r : Run) (g : Fin 128) (i : InstId) (d : Desc) (q : Nat), s.sched.run = some r →
    r.adm.image.descs[i.index]? = some d → d.opcode = 7 → startable s r i d → q < runsOf r.adm.image d →
    let x := readLens (setTag s (tagOf r.adm.image i d)) { r with tag := tagOf r.adm.image i d } i d
    let mark (t : State) : State := setRun t fun r => { r with runs := (i, q) :: r.runs }
    ((i, q) ∉ r.runs → runGrove s i r d q = some (g : Nat) →
      exec (.vecRun g i q .whole) s = .next (mark (wholeRun g i x.2 d q x.1)) ∧
      exec (.vecRun g i q .begin) s = .next (beginRun x.1 g i x.2 d q) ∧
      ((vecAt s g).inst = some i → (vecAt s g).run = q → programDone r.adm.image d (vecAt s g) = true →
        exec (.vecRun g i q .finish) s = .next (mark (endRun i x.2 d x.1 g)))) ∧
    (((i, q) ∈ r.runs ∨ runGrove s i r d q ≠ some (g : Nat)) → ∀ part, exec (.vecRun g i q part) s = .next s))

/-- VERSION_CONFIRM (R197, R198): a micro-batch whose recorded versions the owners all know is confirmed, and this device retains
those of its own shards; while an owner's answer is missing nothing happens; one of which an owner does not know the version is
dropped and counted.
NORM_COLLECTIVE (R184): once every gradient is written the sums of Q and N of all devices are taken in the order of device
numbers; the update is skipped for a non-finite value, a failed append, no micro-batch or a lost tile, in that order, and
otherwise goes on with ‖g‖. -/
def Obligations.VersionsAndNormDecide : Prop :=
  (∀ (s : State) (r : Run) (mb : Nat) (answers : List VersionAnswer), s.sched.run = some r → mb ∉ r.confirmed → mb ∉ r.dropped →
    (∃ x ∈ r.recorded, x.1 = mb) →
    ((∀ x ∈ r.recorded, x.1 = mb → versionKnown s r answers x = some true) →
      ∃ t, exec (.versionConfirm mb answers) s = .next t ∧ t.sched.run = some { r with confirmed := mb :: r.confirmed } ∧
        (∀ y, y ∈ t.fabric.retained ↔ y ∈ s.fabric.retained ∨ ∃ x ∈ r.recorded, x.1 = mb ∧ x.2.2.1 = deviceNumber s ∧
          y = (deviceNumber s, r.adm.ctx, mb, x.2.1, x.2.2.2)) ∧
        t.ctxs = s.ctxs ∧ t.jobs = s.jobs ∧ t.tally = s.tally) ∧
    ((∃ x ∈ r.recorded, x.1 = mb ∧ versionKnown s r answers x = none) → exec (.versionConfirm mb answers) s = .next s) ∧
    ((∀ x ∈ r.recorded, x.1 = mb → (versionKnown s r answers x).isSome) →
      (∃ x ∈ r.recorded, x.1 = mb ∧ versionKnown s r answers x = some false) →
      ∃ t r', exec (.versionConfirm mb answers) s = .next t ∧ t.sched.run = some r' ∧ mb ∈ r'.dropped ∧
        r'.executed = r.executed ∧ ∀ j, jobAt s r.adm.job = some j → ∃ k, jobAt t r.adm.job = some k ∧
          k.counters.mismatches = j.counters.mismatches +
            (r.recorded.countP fun x => x.1 == mb && versionKnown s r answers x == some false))) ∧
  (∀ (s : State) (r : Run) (others : List NormPart), s.sched.run = some r → r.norm = none →
    (firstUpdate r.adm.image).isSome → entered s r (normNumber r.adm.image) = true → jobRuns s r.adm.job = true →
    r.mismatchEnd = false → (∀ j ∈ r.adm.image.insts, ∀ d, r.adm.image.descs[j.index]? = some d →
      instDone r j = true ∨ writesGradient r.adm.image d = false) →
    let mine : NormPart := ⟨deviceNumber s, partialQ r, r.adm.image.micro - r.dropped.length,
      gradientNonfinite s r.adm.image || r.peerFlags.getLsbD 0, appendFlag r || r.peerFlags.getLsbD 1,
      r.tierLoss || r.peerFlags.getLsbD 2⟩
    ∃ t r' n, exec (.normCollective others) s = .next t ∧ t.sched.run = some r' ∧ r'.norm = some n ∧
      n.nC = ((mine :: others).map fun p => p.n).sum ∧
      (n.skip = 1 ↔ ((mine :: others).any (fun p => p.nonfinite) = true ∨ ieee32.infBits ≤ n.q.toNat % 2 ^ 31)) ∧
      (n.skip = 2 → (mine :: others).any (fun p => p.append) = true) ∧
      (n.skip = 3 → n.nC = 0) ∧
      (n.skip = 0 → (mine :: others).any (fun p => p.append || p.tier || p.nonfinite) = false ∧ n.nC ≠ 0))

/-- DERIVED_MOVE (R73, R240, R243, R245): a fetch brings an object of the running step's context back into T1, as it was written;
a corrupt tile of a persistent object is fatal; a transient object of a failed lender reads as zero, with the tier-loss flag; a due
write-back gives the object its T3 copy. Each waits for its place in the schedule and is noted once for the step. -/
def Obligations.DerivedMovesFollowTheSchedule : Prop :=
  ∀ (s : State) (r : Run) (n : Nat) (o : Obj) (e : ObjEntry), s.sched.run = some r → s.dev.state ≠ .halt →
    objAt s r.adm.ctx n = some o → o.entry.object = n → r.adm.image.entry n = some e →
    (o.inT1 = false → (Role.persistent e.role = true → planFree s r (.fetch n) = true) →
      exec (.derivedMove .fetch n ⟨none, []⟩) s = .next
        (setRun (setObj s r.adm.ctx n fun x => { x with inT1 := true, data := o.data }) fun r =>
          { r with moves := (.fetch, n, 0) :: r.moves }) ∧
      (Role.persistent o.entry.role = true → s.dev.state ≠ .off → ∀ k b, k < o.entry.tiles → seamDecode o k b = none →
        ∃ t, exec (.derivedMove .fetch n ⟨none, [(k, b)]⟩) s = .next t ∧ t.dev.state = .halt ∧ t.dev.lastFatal = 0x0272) ∧
      (Role.persistent o.entry.role = false → o.entry.tier = 1 → ∀ p,
        ∃ t x r', exec (.derivedMove .fetch n ⟨some p, []⟩) s = .next t ∧ objAt t r.adm.ctx n = some x ∧ x.data = [] ∧
          x.inT1 = true ∧ x.lost = true ∧ t.sched.run = some r' ∧ r'.tierLoss = true)) ∧
    (∀ x, o.inT1 = true → exec (.derivedMove .fetch n x) s = .next s) ∧
    (∀ x, Role.persistent e.role = true → planFree s r (.fetch n) = false → exec (.derivedMove .fetch n x) s = .next s) ∧
    (∀ x, writeBackDue r o = true → (∀ i ∈ r.adm.image.insts, instDone r i = true) → planFree s r (.writeBack n) = true →
      exec (.derivedMove .writeBack n x) s = .next
        (setRun (setObj s r.adm.ctx n fun x => { x with t3Copy := true, coded := r.adm.step }) fun r =>
          { r with moves := (.writeBack, n, 0) :: r.moves }))

/-- SAMPLE_START, SAMPLE_STAGED, SAMPLE_OVERRUN and SAMPLE_LATE (R255 to R263, R267): the next position, with its entry present and room
ahead of the takes, goes to the lowest free unit, and a sample that the header checks reject is replaced at once; a decoded
sample that passes is augmented and staged; one that outlives its budget is replaced; an absent entry is late when its take is
due. Each counts once. -/
def Obligations.SamplesStageOrAreReplaced : Prop :=
  ∀ (s : State) (st : Fin 16) (u : Nat) (x : Sample) (y : Stream), s.dev.state ≠ .off → s.dev.state ≠ .halt →
    streamAt s st = some y →
    (∀ e : RingEntry, freeUnitOf y = some u → y.next < (at' s.streams st {}).pi →
      y.next < (y.taken + y.cfg.ahead) * y.cfg.batch → (e.source = 0 → s.link.up = true) → unfetchable s e = false →
      (headerReason s y.cfg e (fetched s e x) = none → exec (.sampleStart st u e x) s = .next (setStream s st fun y =>
        { y with next := y.next + 1, ci := y.next + 1, busy := y.busy ++ [⟨u, y.next, e, s.time⟩] })) ∧
      (∀ k, headerReason s y.cfg e (fetched s e x) = some k → exec (.sampleStart st u e x) s = .next (rejectSample
        (setStream s st fun z => { z with next := y.next + 1, ci := y.next + 1 }) st u y.next k e.tag))) ∧
    (∀ b, onUnit s st u = some b → s.time ≤ b.since + budgetNs y.cfg →
      (bodyReason y.cfg (fetched s b.entry x) = none → exec (.sampleStaged st u x) s = .next (setStream s st fun y =>
        { y with busy := y.busy.filter fun b => b.unit != u,
                 staged := y.staged ++ [augmented y.cfg (y.cfg.startIndex + b.position) b.position 1
                   (decodeSample y.cfg (fetched s b.entry x).content)],
                 nStaged := y.nStaged + 1 })) ∧
      (∀ k, bodyReason y.cfg (fetched s b.entry x) = some k → exec (.sampleStaged st u x) s = .next (rejectSample
        (setStream s st fun y => freeUnit y u) st u b.position k b.entry.tag))) ∧
    (∀ b, onUnit s st u = some b →
      (b.since + budgetNs y.cfg ≤ s.time →
        ∃ t z, exec (.sampleOverrun st u) s = .next t ∧ streamAt t st = some z ∧ z.nOverrun = y.nOverrun + 1 ∧
          z.busy = y.busy.filter (fun b => b.unit != u) ∧ z.staged.length = y.staged.length + 1 ∧
          (y.substitutes = [] → z.nPadded = y.nPadded + 1 ∧ z.nSubstituted = y.nSubstituted) ∧
          (y.substitutes ≠ [] → z.nSubstituted = y.nSubstituted + 1 ∧ z.nPadded = y.nPadded)) ∧
      (s.time < b.since + budgetNs y.cfg → exec (.sampleOverrun st u) s = .next s)) ∧
    (∀ p a, takeOwner s st (p / y.cfg.batch) = some a → p = y.next → (at' s.streams st {}).pi ≤ p →
      (takeDue s a st (p / y.cfg.batch) = false → exec (.sampleLate st p) s = .next s) ∧
      (takeDue s a st (p / y.cfg.batch) = true → ∃ t z, exec (.sampleLate st p) s = .next t ∧ streamAt t st = some z ∧ z.next = p + 1 ∧ z.late = y.late ++ [p] ∧
        z.nLate = y.nLate + 1 ∧ z.staged = y.staged))

/-! ### Fabric and shoring -/

/-- PORT_LINK_UP and MANIFEST_RECEIVE (R271, R276, R277, R291, R292): a port that is down and used comes up with the far end's credits
and, after its first training or a failure, with its sequence numbers at zero; a manifest of the expected neighbour that
equals this device's lifts the quarantine, another device is PORT_MISWIRED and another manifest MANIFEST_MISMATCH.
PORT_SILENCE, PORT_FAILED, FAILOVER_EXCHANGE and DRILL_PORT_DOWN_END (R277 to R279, R294, R410): silence takes a port down; 1 ms later
it has failed; a joined standby takes its place, on a message of the far end too; without one a port that the running step
does not use is retired and one that it uses is fatal. A drilled port stays down until its time has passed. -/
def Obligations.PortsTrainFailAndCompare : Prop :=
  (∀ (s : State) (p : Fin 20) (x : Port), s.dev.state ≠ .off → s.dev.state ≠ .halt → s.fabric.ports[(p : Nat)]? = some x →
    (∀ credits : DWord, (x.state = .down ∨ x.state = .failed) → x.drillUntil = none → portUnused s p = false → p ≠ 19 →
      (x.downCause ≠ 0 → s.time ≤ x.downAt + 1000000 ∨ x.state = .failed) →
      ∃ t y, exec (.portLinkUp p credits) s = .next t ∧ t.fabric.ports[(p : Nat)]? = some y ∧ y.state = .up ∧ y.far = none ∧
        y.quarantine = 0 ∧ y.downCause = 0 ∧
        y.credits = (List.range 8).map (fun c => 8 * bits credits.toNat (8 * c + 7) (8 * c)) ∧
        ((x.downCause = 0 ∨ x.state = .failed) → y.txSeq = 0 ∧ y.rxSeq = 0 ∧ y.unacked = []) ∧
        (x.downCause ≠ 0 → x.state = .down → y.txSeq = x.txSeq ∧ y.rxSeq = x.rxSeq ∧ y.unacked = x.unacked)) ∧
    (x.state = .up → ∀ credits, exec (.portLinkUp p credits) s = .next s) ∧
    (∀ (far : FarEnd) gib d, x.state = .up → farDevice s p = some d →
      ∃ t y, exec (.manifestReceive p far gib) s = .next t ∧ t.fabric.ports[(p : Nat)]? = some y ∧ y.far = some far ∧
        y.quarantine = (if far.device ≠ d then St.portMiswired else if far.manifest ≠ manifest s then St.manifestMismatch
          else 0) ∧
        t.fabric.lends = if p < 7 then s.fabric.lends.set p gib else s.fabric.lends)) ∧
  (∀ (s : State) (p : Fin 20) (x : Port) (env : FailoverEnv), s.dev.state ≠ .off → s.dev.state ≠ .halt →
    s.fabric.ports[(p : Nat)]? = some x →
    (x.state = .up → x.heard + 4000 ≤ s.time → exec (.portSilence p) s = .next (setPort s p fun x =>
      { x with state := .down, downAt := s.time, downCause := 2, retryRow := 0 })) ∧
    (s.time < x.heard + 4000 → exec (.portSilence p) s = .next s) ∧
    (∀ (c : Instr), ((c = .portFailed p env ∧ x.state = .down ∧ x.downCause ≠ 0 ∧ x.downAt + 1000000 ≤ s.time) ∨
        (∃ d, c = .failoverExchange p d env ∧ (x.state = .up ∨ x.state = .down) ∧ farDevice s p = some d)) →
      (s.fabric.standby = none → p ≠ 19 → env.joined = true → env.conflict = false →
        (∀ r, s.sched.run = some r → stepUsesPort s p = true → r.reserveSpent = false ∧ 2200000 ≤ r.adm.dFail) →
        ∃ t y, exec c s = .next t ∧ t.fabric.standby = some (p : Nat) ∧ t.fabric.ports[(p : Nat)]? = some y ∧ y.state = .failed ∧
          t.board.target = failoverTarget s p ∧ t.dev = s.dev ∧
          (∀ r, s.sched.run = some r → stepUsesPort s p = true → ∃ r', t.sched.run = some r' ∧ r'.reserveSpent = true)) ∧
      ((s.fabric.standby ≠ none ∨ env.joined = false) →
        (stepUsesPort s p = false → ∃ t y, exec c s = .next t ∧ t.fabric.ports[(p : Nat)]? = some y ∧ y.state = .retired ∧
          islandPort p ∈ t.flash.retired ∧ t.dev = s.dev) ∧
        (stepUsesPort s p = true → ∃ t, exec c s = .next t ∧ t.dev.state = .halt ∧ t.dev.lastFatal = 0x0293))) ∧
    (∀ until_, x.drillUntil = some until_ →
      (until_ ≤ s.time → exec (.drillPortDownEnd p) s = .next (setPort s p fun x => { x with drillUntil := none })) ∧
      (s.time < until_ → exec (.drillPortDownEnd p) s = .next s)))

/-- FLIT_SEND, FLIT_RECEIVE and RETRY_REQUEST (R274 to R276, R291): a flit takes a credit and the next sequence number and is kept until
acknowledged, outside a drill it goes out once; the next flit in sequence is delivered and acknowledges; a flit out of
sequence, corrupted or of an unknown kind asks for a retry and delivers nothing; a retry sends what is unacknowledged again,
in order. -/
def Obligations.FlitsArriveInSequence : Prop :=
  ∀ (s : State) (p : Fin 20) (x : Port), s.dev.state ≠ .off → s.dev.state ≠ .halt → s.fabric.ports[(p : Nat)]? = some x →
    x.state = .up →
    (∀ cls last payload, s.fabric.drill = false → x.held = [] → x.quarantine = 0 → payload.length = 240 →
      0 < at' x.credits cls 0 → x.unacked.length < 1024 → x.wire.length < 1024 →
      ∃ t f, exec (.flitSend p cls last payload) s = .next t ∧ f.cls = cls ∧ f.last = last ∧ f.payload = payload ∧
        f.seq = x.txSeq ∧ f.ack = x.rxSeq ∧ f.crc = flitCrc f ∧
        ((∀ c < 8, at' x.freed c 0 < 8) → f.credits = 0) ∧
        (∀ c < 8, (∀ b < c, at' x.freed b 0 < 8) → 8 ≤ at' x.freed c 0 → at' x.freed c 0 < 65536 →
          f.creditClass = c ∧ f.credits = at' x.freed c 0 / 8) ∧
        t = setPort s p fun x => { x with txSeq := (x.txSeq + 1) % 4096, unacked := x.unacked ++ [f],
                                          credits := x.credits.modify cls (· - 1), wire := x.wire ++ [(f, 0)],
                                          freed := x.freed.modify f.creditClass (· - 8 * f.credits) }) ∧
    (∀ cls last payload, at' x.credits cls 0 = 0 → exec (.flitSend p cls last payload) s = .next s) ∧
    (∀ (f : Flit), flitCrc f = f.crc → f.seq = x.rxSeq → 1 ≤ f.kind → f.kind ≤ 3 →
      exec (.flitReceive p f true) s = .next (setPort s p fun x =>
        let y := acknowledge { x with credits := x.credits.modify f.creditClass (· + 8 * f.credits) } f.ack
        { y with rxSeq := (x.rxSeq + 1) % 4096, retryRow := 0, heard := s.time,
                 delivered := if f.last then x.delivered.filter fun g => g.cls != f.cls else x.delivered ++ [f],
                 freed := if f.last then x.freed.modify f.cls (· + 1 + x.delivered.countP fun g => g.cls == f.cls)
                   else x.freed })) ∧
    (∀ (f : Flit) ok, (ok = false ∨ flitCrc f ≠ f.crc) →
      exec (.flitReceive p f ok) s = .next (requestRetry s p)) ∧
    (∀ (f : Flit), flitCrc f = f.crc → (f.seq ≠ x.rxSeq ∨ 3 < f.kind) → f.kind ≠ 0 →
      ∃ t y, exec (.flitReceive p f true) s = .next t ∧ t.fabric.ports[(p : Nat)]? = some y ∧ y.rxSeq = x.rxSeq ∧
        y.delivered = x.delivered ∧ y.retries = x.retries + 1) ∧
    (∀ seq, s.fabric.drill = false → x.held = [] → x.wire.length + (acknowledge x seq).unacked.length ≤ 1024 →
      exec (.retryRequest p seq) s = .next (setPort s p fun x =>
        { acknowledge x seq with wire := x.wire ++ (acknowledge x seq).unacked.map fun f => (f, 0) }))

/-- CHUNK_RECEIVE, CHUNK_ACK, MEMBER_QUERY, JOB_STEP_QUERY and VERSION_CONFIRM_REQUEST (R197, R281, R292, R305): a chunk of a joined job's
step that has not completed is held once and acknowledged every time, another is discarded and counted; an acknowledged chunk
is no longer sent; the queries are answered with what this device holds.
TIER_LENDING (R226, R245, R248): over a port that is up and not quarantined a near neighbour's tile is kept while the bytes that
its port holds stay within LEND, replaces the tile of its name, and goes when the neighbour frees; a tile that does not fit
changes nothing. -/
def Obligations.FabricMessagesAreAnswered : Prop :=
  (∀ s : State, s.dev.state ≠ .off → s.dev.state ≠ .halt →
    (∀ h data j, jobAt s h.job = some j → j.joined = true → (∀ n, j.lastCompleted = some n → n < h.step) →
      ((∀ c ∈ s.fabric.chunks, ChunkHeader.same c.h h = false) → exec (.chunkReceive h data) s = .next (notice
        { s with fabric := { s.fabric with chunks := s.fabric.chunks ++ [⟨h, data.info, data.bytes⟩] } } h.source 3 h.chunk)) ∧
      ((∃ c ∈ s.fabric.chunks, ChunkHeader.same c.h h = true) →
        exec (.chunkReceive h data) s = .next (notice s h.source 3 h.chunk))) ∧
    (∀ h data, (∀ j, jobAt s h.job = some j → j.joined = false ∨ ∃ n, j.lastCompleted = some n ∧ h.step ≤ n) →
      exec (.chunkReceive h data) s = .next
        { s with fabric := { s.fabric with discarded := s.fabric.discarded + 1 } }) ∧
    (∀ h, exec (.chunkAck h) s = .next { s with fabric := { s.fabric with
      unacked := s.fabric.unacked.filter fun c => !ChunkHeader.same c.h h } }) ∧
    (∀ job device, exec (.memberQuery job device) s = .next (notice s device 4 0)) ∧
    (∀ job device box j, jobAt s job = some j → (j.box = none ∨ j.box = some box) →
      exec (.jobStepQuery job device box) s = .next (notice s device 5 (j.lastCompleted.getD 0))) ∧
    (∀ device ctx mb n v o, objAt s ctx n = some o →
      ((v = o.version ∨ v = o.prevVersion) → exec (.versionConfirmRequest device ctx mb n v) s = .next (notice
        { s with fabric := { s.fabric with retained := (device, ctx, mb, n, v) :: s.fabric.retained } } device 1 n)) ∧
      (v ≠ o.version → v ≠ o.prevVersion → exec (.versionConfirmRequest device ctx mb n v) s =
        .next (notice s device 2 n)))) ∧
  (∀ (s : State) (p : Fin 7) (object tile gib : Nat) (data : List Byte), s.dev.state ≠ .off → s.dev.state ≠ .halt →
    (portAt s p).state = .up → (portAt s p).quarantine = 0 →
    let rest := s.fabric.lent.filter fun x => !(x.port == (p : Nat) && x.object == object && x.tile == tile)
    let used := ((rest.filter fun x => x.port == (p : Nat)).map fun x => x.data.length).sum
    exec (.tierLending p (.learn gib)) s =
      .next { s with fabric := { s.fabric with lends := s.fabric.lends.set p gib } } ∧
    (used + data.length ≤ bits (inForce s 3) 5 0 * 2 ^ 30 → exec (.tierLending p (.store object tile data)) s =
      .next { s with fabric := { s.fabric with lent := rest ++ [⟨p, object, tile, data⟩] } }) ∧
    (bits (inForce s 3) 5 0 * 2 ^ 30 < used + data.length →
      exec (.tierLending p (.store object tile data)) s = .next s) ∧
    exec (.tierLending p .free) s = .next { s with fabric := { s.fabric with
      lent := s.fabric.lent.filter fun x => x.port != (p : Nat) } })

/-- JOB_OPEN_COMPARE, STAGE_PLAN_PUBLISH and SECURING_ANNOUNCE (R282, R290, R301, R302): a participant's payload that differs from this
device's marks the job's mismatch; a stage's times replace the earlier ones of that stage; the announced step is kept.
ENTRY_ROUND_MESSAGE (R62, R286): the parts of every other live participant, all equal to this device's, open the next
collective; one that differs voids the step and ends it without its update, with the device's number on record. -/
def Obligations.JobMessagesAndEntryRounds : Prop :=
  (∀ (s : State) (device : Nat) (box : JobBox) (sh : Option ShoringCfg) (job stage step : Nat) (times : List Nat) (j : Job),
    (jobAt s box.job = some j →
      (device ≠ deviceNumber s → ((j.box ≠ none ∧ j.box ≠ some box) ∨ (j.shoring ≠ none ∧ sh ≠ none ∧ j.shoring ≠ sh)) →
        exec (.jobOpenCompare device box sh) s = .next (setJob s box.job fun j => { j with mismatch := true })) ∧
      ((j.box = none ∨ j.box = some box) → (j.shoring = none ∨ sh = none ∨ j.shoring = sh) →
        exec (.jobOpenCompare device box sh) s = .next s)) ∧
    exec (.stagePlanPublish job stage times) s = .next (setJob s job fun j =>
      { j with published := (stage, times) :: j.published.filter fun x => x.1 != stage }) ∧
    (jobAt s job = some j → j.shoring ≠ none → exec (.securingAnnounce job step) s =
      .next (setJob s job fun j => { j with announced := some step, reencode := false }))) ∧
  (∀ (s : State) (r : Run) (parts : List EntryInfo) (ns : Nat) (own : Nat × Nat × Nat × Nat), s.sched.run = some r →
    r.mismatchEnd = false → jobRuns s r.adm.job = true → roundInfo s r r.entered = some own →
    (∀ d ∈ participants s r.adm.job, d = deviceNumber s ∨ d ∈ failedDevices s r.adm.job ∨ ∃ p ∈ parts, p.device = d) →
    ((∀ p ∈ parts, p.number = r.entered ∧ (p.opcode, p.operation, p.scope, p.bytes) = own) →
      ∃ t r', exec (.entryRoundMessage r.adm.job r.adm.step parts ns) s = .next t ∧ t.sched.run = some r' ∧
        r'.entered = r.entered + 1 ∧ r'.peerWait = r.peerWait + ns ∧ r'.mismatchEnd = false ∧ t.dev = s.dev) ∧
    ((∃ p ∈ parts, p.number ≠ r.entered ∨ (p.opcode, p.operation, p.scope, p.bytes) ≠ own) →
      ∃ t r', exec (.entryRoundMessage r.adm.job r.adm.step parts ns) s = .next t ∧ t.sched.run = some r' ∧
        r'.mismatchEnd = true ∧ r'.entered = r.entered ∧ (r.adm.drill = false → r'.adm.void = true)))

/-- SECURING (R298, R300, R302, R303, R312): in a securing step before its first UPDATE the free generation area takes this device's
secured state as of the step before and the parity chunks of its stripes, which the received chunks give it; with every member's
acknowledgement it is the newest complete one and the areas change places. A device that is back and not yet joined takes its shards,
with their VERSIONs, from what the owners return.
REENCODING_ANNOUNCE and FOREMAN_FATAL (R309, R373): the step before the announced one is secured anew, or, where too few members
remain, the group stays unprotected and the layout degraded; a fatal error of the Foreman enters HALT with every command in
progress unanswered, and nothing is answered from then on. -/
def Obligations.SecuringAndReencoding : Prop :=
  (∀ (s : State) (received : List StripeChunk) (hostOk : Bool) (back : Option Returned),
    (∀ (r : Run) (j : Job), s.sched.run = some r → jobAt s r.adm.job = some j →
      r.adm.securing = true → r.secured = false → r.switched = true →
      (∀ i ∈ r.executed, ∀ d, r.adm.image.descs[i.index]? = some d → d.opcode ≠ 8) →
      let gen := newGeneration s j r.adm.ctx (r.adm.step - 1) received
      (exec (.securing r.adm.job ⟨received, false, back⟩ hostOk) s = .next (setJob s r.adm.job fun j =>
        { j with areas := j.areas.set (1 - j.generation) (some gen) })) ∧
      (∃ t r' k, exec (.securing r.adm.job ⟨received, true, back⟩ hostOk) s = .next t ∧ t.sched.run = some r' ∧ r'.secured = true ∧
        jobAt t r.adm.job = some k ∧ k.generation = 1 - j.generation ∧ k.secured = some (r.adm.step - 1) ∧ k.since = [] ∧
        k.areas = j.areas.set (1 - j.generation) (some gen) ∧ k.failures = 0 ∧ k.lambdaAt = s.time ∧ t.ctxs = s.ctxs) ∧
      gen.state = serialize s j.number r.adm.ctx (ownSegments s j r.adm.ctx) ∧ gen.step = r.adm.step - 1) ∧
    (∀ job j x received ack, s.sched.run = none → s.dev.state ≠ .off → s.dev.state ≠ .halt → jobAt s job = some j →
      j.box ≠ none → j.joined = false →
      exec (.securing job ⟨received, ack, some x⟩ hostOk) s = .next (takeBack s job x))) ∧
  (∀ s : State,
    (∀ job step j, jobAt s job = some j → j.shoring ≠ none →
      (unprotected s job = none → exec (.reencodingAnnounce job step) s =
        .next (setJob s job fun j => { j with announced := some (step - 1), reencode := true })) ∧
      (∀ g, unprotected s job = some g → exec (.reencodingAnnounce job step) s = .next
        (tally (setJob s job fun j => { j with degraded := true, since := [] }) 0x02A5 islandCollective 3 g.1 g.2 0 0))) ∧
    (s.dev.state ≠ .off → s.dev.state ≠ .halt →
      ∃ t, exec .foremanFatal s = .next t ∧ t.dev.state = .halt ∧ t.dev.foremanDead = true ∧ t.dev.lastFatal = 0x02EA ∧
        t.mbx = s.mbx ∧ t.sched.run = none ∧ t.sched.queue = [] ∧
        (∀ m : Fin 64, exec (.mbxDoorbell m .take) t = .next t) ∧ (∀ (m : Fin 64) op, workOf t m op = none)))

/-- MEMBER_FAILED, LEAVE_NOTICE and FAILURE_ANNOUNCE (R305 to R308, R310, R377): a participant that does not answer, leaves or is announced
is declared failed once, and its failure is agreed once; within the parity of its group a survivor rebuilds the chunks that fall to
it and adopts their tiles; beyond it the group is lost. -/
def Obligations.FailedMembersAreDeclaredOnce : Prop :=
  ∀ (s : State) (job device : Nat) (j : Job), s.dev.state ≠ .off → s.dev.state ≠ .halt → jobAt s job = some j →
    (exec (.memberFailed job device true) s = .next s) ∧
    (device ∈ j.failed → exec (.memberFailed job device false) s = .next s ∧ exec (.leaveNotice job device) s = .next s) ∧
    (device ∉ j.failed → device ≠ deviceNumber s → device ∈ participants s job →
      ∀ c ∈ [Instr.memberFailed job device false, .leaveNotice job device],
      ∃ t k, exec c s = .next t ∧ jobAt t job = some k ∧ k.failed = j.failed ++ [device] ∧ k.since = j.since ++ [device] ∧
        k.lambdaAt = s.time ∧ t.sched = s.sched ∧ t.ctxs = s.ctxs) ∧
    (∀ b us, device ∈ j.agreed → exec (.failureAnnounce job device b us) s = .next s) ∧
    (device ∉ j.failed → device ∉ j.agreed → device ≠ deviceNumber s → device ∈ participants s job → s.sched.run = none →
      let u := setJob (dropAfter (declareFailed s job device) job device) job fun j => { j with agreed := j.agreed ++ [device] }
      ∃ k, jobAt u job = some k ∧ k.failed = j.failed ++ [device] ∧ k.since = j.since ++ [device] ∧
        k.agreed = j.agreed ++ [device] ∧ k.lost = j.lost ∧
        ∀ g, groupOfDevice u job device = some g →
          (k.since.countP g.2.1.contains ≤ g.2.2 → deviceNumber s ∈ g.2.1 →
            ∀ b us, exec (.failureAnnounce job device b us) s = .next (rebuild u job device ⟨b, us⟩)) ∧
          (k.since.countP g.2.1.contains ≤ g.2.2 → deviceNumber s ∉ g.2.1 →
            ∀ b us, exec (.failureAnnounce job device b us) s = .next u) ∧
          (g.2.2 < k.since.countP g.2.1.contains → ∀ b us, ∃ t x, exec (.failureAnnounce job device b us) s = .next t ∧
            t = groupLost u job g ∧ jobAt t job = some x ∧ x.lost ≠ 0 ∧ x.adopted = j.adopted))

/-! ### Vector instructions -/

/-- The lane-wise instructions (R36, R42, R123 to R125): each active lane of vD takes the result of its operation on the same lane of
its sources, an inactive lane keeps its value or becomes zero with ZM, and the engine reaches the next word; integers wrap modulo
2^32 and shift counts are modulo 32; nothing else changes. -/
def Obligations.LanewiseInstructions : Prop :=
  ∀ (s : State) (g : Fin 128) (f : VFields), (vecAt s g).shaped →
    let e := vecAt s g
    let a := e.lane f.a
    let b := e.lane f.b
    (∀ c op, (c, op) ∈ ([(.iadd g f, fun x y => x + y), (.isub g f, fun x y => x - y), (.imul g f, fun x y => x * y),
        (.imin g f, fun x y => if x.toInt ≤ y.toInt then x else y), (.imax g f, fun x y => if y.toInt ≤ x.toInt then x else y),
        (.vand g f, fun x y => x &&& y), (.vor g f, fun x y => x ||| y), (.vxor g f, fun x y => x ^^^ y),
        (.shl g f, fun x y => x <<< (y.toNat % 32)), (.shr g f, fun x y => x >>> (y.toNat % 32)),
        (.sra g f, fun x y => x.sshiftRight (y.toNat % 32)),
        (.fadd g f, f32Add), (.fsub g f, f32Sub), (.fmul g f, f32Mul), (.fmin g f, f32Min), (.fmax g f, f32Max)] :
          List (Instr × (Word → Word → Word))) →
      exec c s = .next (vecNext s g (e.lanes f f.d.toNat fun l => op (a l) (b l)))) ∧
    (∀ c op, (c, op) ∈ ([(.iaddi g f, fun x => x + f.imm), (.vmov g f, id), (.fabs g f, f32Abs), (.fneg g f, f32Negate),
        (.fsqrt g f, f32Sqrt), (.frcp g f, f32Rcp), (.frsqrt g f, f32Rsqrt), (.fmuli g f, fun x => f32Mul x f.imm),
        (.fexp g f, f32Exp), (.fexp2 g f, f32Exp2), (.flog g f, f32Log), (.flog2 g f, f32Log2), (.fsin g f, f32Sin),
        (.fcos g f, f32Cos), (.ftanh g f, f32Tanh), (.fsig g f, f32Sigmoid), (.ferf g f, f32Erf),
        (.cvtif g f, f32OfInt), (.cvtfi g f, intOfF32), (.cvthf g f, f32OfF16),
        (.vscale g f, fun x => f32Scale x (e.sreg f.b.toNat).toInt),
        (.cvtfh g f, fun x => BitVec.ofNat 32 (quantIeee ieee16 maxF16 (f32 x)).1)] : List (Instr × (Word → Word))) →
      exec c s = .next (vecNext s g (e.lanes f f.d.toNat fun l => op (a l)))) ∧
    exec (.fma g f) s = .next (vecNext s g (e.lanes f f.d.toNat fun l => f32Fma (a l) (b l) (e.lane f.c l))) ∧
    exec (.movi g f) s = .next (vecNext s g (e.lanes f f.d.toNat fun _ => f.imm)) ∧
    exec (.movs g f) s = .next (vecNext s g (e.lanes f f.d.toNat fun _ => e.sreg f.a.toNat)) ∧
    exec (.laneid g f) s = .next (vecNext s g (e.lanes f f.d.toNat fun l => BitVec.ofNat 32 l)) ∧
    exec (.sel g f) s = .next (vecNext s g (e.lanes f f.d.toNat fun l =>
      if (e.preg f.c.toNat).getLsbD l then a l else b l)) ∧
    exec (.shuf g f) s = .next (vecNext s g (e.lanes f f.d.toNat fun l => a ((b l).toNat % 256))) ∧
    exec (.rot g f) s = .next (vecNext s g (e.lanes f f.d.toNat fun l => a ((l + (e.sreg f.b.toNat).toNat) % 256))) ∧
    exec (.ldx g f) s = .next (vecNext s g (e.lanes f f.d.toNat fun l => scratchGet e.scratch ((a l).toNat % 262144)))

/-- Scalar, predicate, reduction and lane instructions (R123 to R126, R131): scalar results, and predicates by logic, by PLT and by
compares, which clear inactive lanes; p0 stays as it is; the reductions go over the active lanes by the fixed tree; LANE reads and
INS writes one lane. -/
def Obligations.ScalarAndPredicateInstructions : Prop :=
  ∀ (s : State) (g : Fin 128) (f : VFields), (vecAt s g).shaped →
    let e := vecAt s g
    let a := e.lane f.a
    let b := e.lane f.b
    let x := e.sreg f.a.toNat
    let y := e.sreg f.b.toNat
    let n := y.toNat % 256
    let fill (w : Word) : List Word := (List.range 256).map fun l => if (e.active f).testBit l then a l else w
    (∀ c w, (c, w) ∈ [(Instr.smovi g f, f.imm), (.sadd g f, x + y), (.saddi g f, x + f.imm), (.ssub g f, x - y), (.smul g f, x * y),
        (.sshli g f, x <<< (f.imm.toNat % 32)), (.sshri g f, x >>> (f.imm.toNat % 32)), (.sand g f, x &&& y), (.sor g f, x ||| y),
        (.pcnt g f, BitVec.ofNat 32 ((List.range 256).countP fun l => (e.preg f.a.toNat).getLsbD l)),
        (.lane g f, a n), (.rsum g f, treeReduce f32Add 8 (fill 0)), (.rmax g f, treeReduce f32Max 8 (fill 0xFF800000)),
        (.riadd g f, ((List.range 256).map fun l => if (e.active f).testBit l then a l else 0).foldl (· + ·) 0),
        (.rimax g f, treeReduce wordMax 8 (fill 0x80000000))] →
      exec c s = .next (vecNext s g { e with s := e.s.set f.d.toNat w })) ∧
    (∀ c op, (c, op) ∈ ([(.fcmp g f, fun l => f32Compare (f.imm.toNat % 8) (a l) (b l) && (e.active f).testBit l),
        (.icmp g f, fun l => compareBy (f.imm.toNat % 8) false (a l).toInt (b l).toInt && (e.active f).testBit l),
        (.ucmp g f, fun l => compareBy (f.imm.toNat % 8) false (a l).toNat (b l).toNat && (e.active f).testBit l),
        (.pand g f, fun l => (e.preg f.a.toNat).getLsbD l && (e.preg f.b.toNat).getLsbD l),
        (.por g f, fun l => (e.preg f.a.toNat).getLsbD l || (e.preg f.b.toNat).getLsbD l),
        (.pnot g f, fun l => !(e.preg f.a.toNat).getLsbD l), (.plt g f, fun l => decide (l < x.toNat))] :
          List (Instr × (Nat → Bool))) →
      exec c s = .next (vecNext s g (e.truths f.d.toNat op))) ∧
    (exec (.vins g f) s = .next (vecNext s g { e with v := e.v.set f.d.toNat ((e.vreg f.d).set n
      (if (e.active f).testBit n then x else if f.zm then 0 else at' (e.vreg f.d) n 0)) })) ∧
    (exec (.scan g f) s = .next (vecNext s g (e.lanes f f.d.toNat fun l =>
      at' ((List.range 8).foldl (fun v r => scanRound (2 ^ r) v) (fill 0)) l 0)))

/-- Codes and counters (R126, R132): QBLK gives the codes and offsets of its eight blocks and DQBLK the values of codes; PACK puts the
low bits of 8, 4 or 2 lanes together and UNPACK takes them apart; the counter generator gives each lane its four words, of
which CTR takes the first, CTR4 all in four registers, and UNIF a number from the first. -/
def Obligations.ConversionAndCounterInstructions : Prop :=
  ∀ (s : State) (g : Fin 128) (f : VFields), (vecAt s g).shaped →
    let e := vecAt s g
    let a := e.lane f.a
    let fmt := Format.ofCode (f.imm.toNat % 8)
    let eT := ((e.sreg f.b.toNat).truncate 8).toInt
    let q (i : Nat) := quantBlock fmt eT ((List.range 32).map fun k => f32 (a (32 * i + k)))
    let w := packWidth f.imm.toNat
    let key : Quad := ⟨e.sreg f.a.toNat, e.sreg (f.a.toNat + 1), e.sreg (f.a.toNat + 2), e.sreg (f.a.toNat + 3)⟩
    let draw (l : Nat) : Quad := counterGen key ⟨e.lane f.b l, e.sreg f.c.toNat, e.sreg (f.c.toNat + 1), f.imm⟩
    (at' e.windows (f.imm.toNat / 16 % 4) none = none →
      exec (.qblk g f) s = .next (vecNext s g
        ((e.lanes f f.d.toNat fun l => BitVec.ofInt 32 (at' (q (l / 32)).2.1 (l % 32) 0)).setS f.c.toNat
          (BitVec.ofNat 32 (packOffsets ((List.range 8).map fun i => (q i).1)))))) ∧
    exec (.dqblk g f) s = .next (vecNext s g (e.lanes f f.d.toNat fun l => f32OfDy
      ⟨(a l).toInt, fmt.stepExp eT (bits (e.sreg f.c.toNat).toNat (4 * (l / 32) + 3) (4 * (l / 32)))⟩ false)) ∧
    exec (.pack g f) s = .next (vecNext s g (e.lanes f f.d.toNat fun l => BitVec.ofNat 32
      (if l < 8 * w then packWord w ((List.range (32 / w)).map fun k => a (32 / w * l + k)) else 0))) ∧
    exec (.unpack g f) s = .next (vecNext s g (e.lanes f f.d.toNat fun l =>
      let v := bits (a (l / (32 / w))).toNat (w * (l % (32 / w)) + w - 1) (w * (l % (32 / w)))
      if f.imm.getLsbD 2 && decide (2 ^ (w - 1) ≤ v) then BitVec.ofInt 32 ((v : Int) - (2 ^ w : Nat)) else BitVec.ofNat 32 v)) ∧
    exec (.ctr g f) s = .next (vecNext s g (e.lanes f f.d.toNat fun l => (draw l).w0)) ∧
    exec (.unif g f) s = .next (vecNext s g (e.lanes f f.d.toNat fun l => drawUnit (draw l).w0)) ∧
    exec (.ctr4 g f) s = .next (vecNext s g
      ((((e.lanes f f.d.toNat fun l => (draw l).w0).lanes f (f.d.toNat + 1) fun l => (draw l).w1).lanes f (f.d.toNat + 2)
        fun l => (draw l).w2).lanes f (f.d.toNat + 3) fun l => (draw l).w3))

/-- Program control and memory operands (R117, R127, R128, R130, R133): HDR declares windows, LOOP and ENDLOOP repeat their body count
times with the index in sD, NOP moves on; LD and LDQ read, ST and STQ write a slot of a window; scratch holds what STS and STX put there. -/
def Obligations.MemoryAndControlInstructions : Prop :=
  ∀ (s : State) (g : Fin 128) (f : VFields), (vecAt s g).shaped →
    let e := vecAt s g
    let m := f.imm.toNat % 4
    let base := 256 * scratchSlot e f.b.toNat f
    exec (.vnop g f) s = .next (vecNext s g e) ∧
    (∀ w : DWord, ∃ t, exec (.hdr g w) s = .next (vecNext s g { e with windows := t }) ∧ t.length = e.windows.length ∧
      ∀ i x, e.windows[i]? = some x → t[i]? = some (if bits w.toNat (38 + 8 * i) (32 + 8 * i) = 0 then none
        else x.map fun y => { y with tiles := bits w.toNat (38 + 8 * i) (32 + 8 * i),
                                     written := decide (bits w.toNat (39 + 8 * i) (39 + 8 * i) = 1) })) ∧
    (exec (.vloop g f) s = .next (vecNext s g { e with
      s := e.s.set f.d.toNat 0
      loops := ⟨f.d.toNat, if f.imm.getLsbD 24 then (at' e.params f.a.toNat 0).toNat else f.imm.toNat % 2 ^ 24, 0, e.pc + 1⟩ ::
        e.loops })) ∧
    (∀ l ls, e.loops = l :: ls →
      (l.index + 1 < l.count → exec (.vendloop g f) s = .next (setVec s g { e with
        s := e.s.set l.reg (BitVec.ofNat 32 (l.index + 1)), loops := { l with index := l.index + 1 } :: ls, pc := l.start })) ∧
      (l.count ≤ l.index + 1 → exec (.vendloop g f) s = .next (vecNext s g { e with loops := ls }))) ∧
    (∀ w j, slotAt e m (slotOf e f.a.toNat f) = some (w, j) → ∃ t, exec (.vld g f) s = .next t ∧
      (let at32 (k l : Nat) := BitVec.ofNat 32 (Mem.le w.data (w.tileBase j + k * laneElem w.format j l) 4)
       let high (l : Nat) := BitVec.ofNat 32 (Mem.le w.data (w.tileBase j + 8 * laneElem w.format j l) 8 / 2 ^ 32)
       let value (l : Nat) := readElem w.format w.eT w.data (w.tileBase j) (laneElem w.format j l % 64)
         (laneElem w.format j l / 64)
       let loaded : VecEngine := match w.format with
        | .int32 => e.lanes f f.d.toNat (at32 4)
        | .int64 => (e.lanes f f.d.toNat (at32 8)).lanes f (f.d.toNat + 1) high
        | _ => e.lanes f f.d.toNat fun l => f32OfDy (finite maxF32 (value l).1).1 false
       vecAt t g = { loaded with pc := e.pc + 1 })) ∧
    (∀ w j, slotAt e m (slotOf e f.b.toNat f) = some (w, j) →
      let keep (l : Nat) := (e.active f).testBit l && laneReal s e w j l
      let put (k : Nat) (v : Nat → Nat) := exec (.vst g f) s = .next (vecNext s g
        { e with windows := e.windows.modify m fun x => x.map fun y =>
          (let lanes := (List.range 256).map fun l => leBytes k (if keep l then v l else 0);
           { y with data := Mem.splice y.data (w.tileBase j + k * laneElem w.format j 0) lanes.flatten }) })
      (w.format = .int32 → put 4 fun l => (e.lane f.a l).toNat) ∧
      (w.format = .int64 → put 8 fun l => (e.lane f.a l).toNat + 2 ^ 32 * (at' (at' e.v (f.a.toNat + 1) zeroLanes) l 0).toNat) ∧
      ∃ t, exec (.vst g f) s = .next t ∧ (vecAt t g).pc = e.pc + 1 ∧ (vecAt t g).v = e.v ∧ (vecAt t g).s = e.s ∧
        (vecAt t g).p = e.p ∧ ∀ k, k ≠ m → (vecAt t g).windows[k]? = e.windows[k]?) ∧
    (∀ w j, slotAt e m (slotOf e f.a.toNat f) = some (w, j) → w.narrow.contains (j / 32) = false →
      ∃ t, exec (.ldq g f) s = .next t ∧ vecAt t g =
        (let loaded := (e.lanes f f.d.toNat fun l => BitVec.ofInt 32 (codeValue w.format (readPattern w.format w.data (w.tileBase j)
            (laneElem w.format j l % 64) (laneElem w.format j l / 64))).1).setS f.c.toNat
          (BitVec.ofNat 32 (packOffsets ((List.range 8).map fun b =>
            readOffset w.data (w.tileBase j) (32 * (b % 2)) (4 * (j % 32) + b / 2))));
          { loaded with pc := e.pc + 1 })) ∧
    (∀ w j, slotAt e m (slotOf e f.a.toNat f) = some (w, j) →
      ∃ t, exec (.ldq g f) s = .next t ∧ (vecAt t g).pc = e.pc + 1 ∧
        ∀ r, r ≠ f.d → (vecAt t g).vreg r = e.vreg r) ∧
    (∀ w j, slotAt e m (slotOf e f.b.toNat f) = some (w, j) →
      ∃ t, exec (.stq g f) s = .next t ∧ (vecAt t g).pc = e.pc + 1 ∧ (vecAt t g).v = e.v ∧ (vecAt t g).s = e.s ∧
        ∀ k, k ≠ m → (vecAt t g).windows[k]? = e.windows[k]?) ∧
    exec (.lds g f) s = .next (vecNext s g (e.lanes f f.d.toNat fun l =>
      scratchGet e.scratch (256 * scratchSlot e f.a.toNat f + l))) ∧
    (∃ u, exec (.sts g f) s = .next (vecNext s g { e with scratch := u }) ∧ ∀ i, scratchGet u i =
      if base ≤ i ∧ i < base + 256 then
        (if (e.active f).testBit (i - base) then e.lane f.a (i - base) else if f.zm then 0 else scratchGet e.scratch i)
      else scratchGet e.scratch i) ∧
    (∃ u, exec (.stx g f) s = .next (vecNext s g { e with scratch := u }) ∧ ∀ i,
      ((∀ l, l < 256 → (e.active f).testBit l = true → (e.lane f.b l).toNat % 262144 ≠ i) → scratchGet u i = scratchGet e.scratch i) ∧
      (∀ l, l < 256 → (e.active f).testBit l = true → (e.lane f.b l).toNat % 262144 = i →
        (∀ k, l < k → k < 256 → (e.active f).testBit k = true → (e.lane f.b k).toNat % 262144 ≠ i) →
        scratchGet u i = e.lane f.a l))

/-- R129: a slot beyond the operand's window is a window fault. LD and LDQ then return zero lanes and ST and STQ write nothing; the
fault adds one to the job's vector-fault count, and writes a Tally record with its grove, program,
word, run and slot, which merges with repeats; the instance goes on, and the step and its promise stay as they are. -/
def Obligations.WindowFaultsReadZerosAndWriteNothing : Prop :=
  ∀ (s : State) (g : Fin 128) (f : VFields), (vecAt s g).shaped →
    let e := vecAt s g
    let fault (n : Nat) : State := windowFault s g n
    let wide := (at' e.windows (f.imm.toNat % 4) none).any fun w => w.format = .int64
    let zero := e.lanes f f.d.toNat fun _ => 0
    (slotAt e (f.imm.toNat % 4) (slotOf e f.a.toNat f) = none →
      exec (.ldq g f) s = .next (vecNext (fault (slotOf e f.a.toNat f)) g zero) ∧
      exec (.vld g f) s = .next (vecNext (fault (slotOf e f.a.toNat f)) g
        (if wide then zero.lanes f (f.d.toNat + 1) fun _ => 0 else zero))) ∧
    (slotAt e (f.imm.toNat % 4) (slotOf e f.b.toNat f) = none → ∀ c ∈ [Instr.vst g f, .stq g f],
      exec c s = .next (vecNext (fault (slotOf e f.b.toNat f)) g e)) ∧
    ∀ n, n < 2 ^ 32 → (fault n).sched = s.sched ∧ vecAt (fault n) g = e ∧
      (fault n).tally = s.tally.event ⟨0x0220, g, 2, s.time, 0, 0, e.program % 2 ^ 32, e.pc % 2 ^ 32, e.run % 2 ^ 32, n⟩ ∧
      ∀ r x, s.sched.run = some r → jobAt s r.adm.job = some x →
        ∃ y, jobAt (fault n) r.adm.job = some y ∧ y.counters = { x.counters with vecFaults := x.counters.vecFaults + 1 }

/-- What a vector instruction leaves alone (R113, R115): the engines of other groves, and everything but its own engine, the scale
entry its statistics go to, the job's fault count and the Tally. -/
def Obligations.VectorInstructionsLeaveTheRest : Prop :=
  ∀ (s t : State) (g : Fin 128) (op : Nat) (h : Fin 128 → VFields → State → Host.Outcome State Fault Refusal) (f : VFields),
    vecOp op = some h → h g f s = .next t →
    (∀ k, k ≠ (g : Nat) → vecAt t k = vecAt s k) ∧
    t.time = s.time ∧ t.pending = s.pending ∧ t.board = s.board ∧ t.dev = s.dev ∧ t.link = s.link ∧ t.regs = s.regs ∧
    t.mbx = s.mbx ∧ t.cfg = s.cfg ∧ t.flash.slots = s.flash.slots ∧ t.groves = s.groves ∧ t.hbm = s.hbm ∧
    t.islands = s.islands ∧ t.mem = s.mem ∧ t.kv = s.kv ∧ t.sched = s.sched ∧ t.streams = s.streams ∧ t.fabric = s.fabric ∧
    t.spdm = s.spdm ∧
    (∀ c n, (objAt t c n).map (fun o => o.data) = (objAt s c n).map fun o => o.data)

/-! ### Codes, checks and the cache -/

/-- R103: a check of an accumulator pair compares (low + 64 × high) mod 127 with the residue kept for it: an add that stays within
the pair, with the combined offset at most 30, keeps the two equal and moves the pair by the half-sum times 2^(30 − offset), and a
wide product's shift doubles the residue.
R206, R207, R299: a codeword of the systematic code with one, two or four check symbols carries its data after the check
symbols and has no syndrome; RS(36,32) corrects every error of one symbol; a shoring stripe gives back an erased symbol, or two.
R214, R215: an atomic on a naturally aligned word of a memory returns the word's old value and leaves the new value that Table 5
gives there and every other byte as it was; a word that is not aligned, or an operation that the table does not give its type, is none.
R237, R238, R240: a tile's Seam form begins with its header, whose KIND, FORMAT, flags, LENGTH32, OBJECT and TILE are the tile's;
decoding gives back the dense tile of a raw body, and none where one of these fields or the CRC differs. -/
def Obligations.CodesChecksAndAtomics : Prop :=
  (∀ (c : CheckedPair) (h : HalfSum), c.kept = c.pair.residue → h.offset ≤ 30 →
    (-(2 ^ 95 : Int) ≤ c.pair.value + h.sum * 2 ^ (30 - h.offset) → c.pair.value + h.sum * 2 ^ (30 - h.offset) < (2 ^ 95 : Int) →
      (c.add h).pair.value = c.pair.value + h.sum * 2 ^ (30 - h.offset) ∧ (c.add h).kept = (c.add h).pair.residue) ∧
    (-(2 ^ 95 : Int) ≤ c.pair.value * 256 → c.pair.value * 256 < (2 ^ 95 : Int) →
      c.shift8.pair.value = c.pair.value * 256 ∧ c.shift8.kept = c.shift8.pair.residue)) ∧
  ((∀ m ∈ [1, 2, 4], ∀ d : List Byte, (encodeSymbols m d).length = m + d.length ∧ (encodeSymbols m d).drop m = d ∧
    ∀ k, k < m → syndrome k (encodeSymbols m d) = 0) ∧
  (∀ p v, p < 36 → v ≠ 0 → decodeBurst none ((List.range 4).map fun k => sparseSyndrome k [(p, v)]) = some [(p, v)]) ∧
  (∀ (c : List Byte) (p : Nat), p < c.length → syndrome 0 c = 0 →
    decodeErased [p] ((c.zipIdx.map fun x => (x.2, x.1)).filter fun x => x.1 != p) = [(p, at' c p 0)])) ∧
  (∀ (m : Mem) (op : AtomicOp) (ty : AtomicType) (a : Nat) (x : List Byte), Mem.wf m = true →
    let n := ty.bytes
    (a % n = 0 → op.has ty = true → ∃ t, Mem.atomic m op ty a x = some (Mem.bytes m a n, t) ∧ Mem.wf t = true ∧
      Mem.bytes t a n = atomicWord op ty (Mem.bytes m a n) x ∧ ∀ b, b < a ∨ a + n ≤ b → Mem.get t b = Mem.get m b) ∧
    ((a % n ≠ 0 ∨ op.has ty = false) → Mem.atomic m op ty a x = none) ∧
    (∀ i y : Word, atomicWord .add .int32 (leBytes 4 i.toNat) (leBytes 4 y.toNat) = leBytes 4 (i + y).toNat ∧
      atomicWord .swap .int32 (leBytes 4 i.toNat) (leBytes 4 y.toNat) = leBytes 4 y.toNat ∧
      ∀ k : DWord, atomicWord (.cas k) .int32 (leBytes 4 i.toNat) (leBytes 4 y.toNat) =
        leBytes 4 (if i = k.setWidth 32 then y else i).toNat)) ∧
  (∀ (o : Obj) (t : Nat),
    (o.narrowed.contains t = false → o.seamBlock = false → seamDecode o t (seamTile o t) = some (o.seamDense t)) ∧
    (∀ bs : List Byte, bs.take 12 ≠ (seamTile o t).take 12 → seamDecode o t bs = none) ∧
    (∀ bs : List Byte, leValue ((bs.drop 12).take 4) ≠ (crc32c (bs.take 12 ++ bs.drop 16)).toNat → seamDecode o t bs = none))
end

