-- ==== Sys2Proof/Laws/Frame.lean ====
section
/-!
SUPPORT. What the shared operations leave alone. Frame s t says that t has the queue, the time, the device state, the size of
every table, the byte memories the host reaches, and the executed instances of s. One simplification lemma for every
operation says that it changes none of these, so that a proof about a meaning walks through it without unfolding it.
-/

namespace Sys2Proof.Machine

set_option maxRecDepth 8000
set_option linter.unreachableTactic false
set_option linter.unusedTactic false

/-- What nearly every operation keeps. -/
structure Frame (s t : State) : Prop where
  pending : t.pending = s.pending
  time : t.time = s.time
  state : t.dev.state = s.dev.state
  request : t.mbx.map (fun b => b.request) = s.mbx.map (fun b => b.request)
  cfg : t.cfg.length = s.cfg.length
  groves : t.groves.length = s.groves.length
  hbm : t.hbm.length = s.hbm.length
  streams : t.streams.length = s.streams.length
  ports : t.fabric.ports.length = s.fabric.ports.length
  maps : t.flash.groves.length = s.flash.groves.length
  images : t.flash.slots.map (fun x => x.image) = s.flash.slots.map (fun x => x.image)
  table : t.link.table.length = s.link.table.length
  bits : t.link.pendingBits.length = s.link.pendingBits.length
  dram : t.mem.dram = s.mem.dram
  buffer : t.mem.fwBuffer = s.mem.fwBuffer
  placements : t.mem.placements = s.mem.placements
  executed : t.sched.run.map (fun r => r.executed) = s.sched.run.map (fun r => r.executed)

@[simp] theorem Frame.refl (s : State) : Frame s s := by constructor <;> rfl

theorem Frame.trans {s t u : State} (a : Frame s t) (b : Frame t u) : Frame s u := by
  constructor
  · rw [b.pending, a.pending]
  · rw [b.time, a.time]
  · rw [b.state, a.state]
  · rw [b.request, a.request]
  · rw [b.cfg, a.cfg]
  · rw [b.groves, a.groves]
  · rw [b.hbm, a.hbm]
  · rw [b.streams, a.streams]
  · rw [b.ports, a.ports]
  · rw [b.maps, a.maps]
  · rw [b.images, a.images]
  · rw [b.table, a.table]
  · rw [b.bits, a.bits]
  · rw [b.dram, a.dram]
  · rw [b.buffer, a.buffer]
  · rw [b.placements, a.placements]
  · rw [b.executed, a.executed]

theorem Frame.symm {s t : State} (a : Frame s t) : Frame t s := by
  exact ⟨a.pending.symm, a.time.symm, a.state.symm, a.request.symm, a.cfg.symm, a.groves.symm, a.hbm.symm, a.streams.symm,
    a.ports.symm, a.maps.symm, a.images.symm, a.table.symm, a.bits.symm, a.dram.symm, a.buffer.symm, a.placements.symm,
    a.executed.symm⟩

theorem Frame.iff {s t u : State} (a : Frame t u) : Frame s u ↔ Frame s t :=
  ⟨fun h => h.trans a.symm, fun h => h.trans a⟩

@[simp] theorem frame_ite {s a b : State} {c : Prop} [Decidable c] :
    Frame s (if c then a else b) ↔ if c then Frame s a else Frame s b := by split <;> rfl

@[simp] theorem frame_foldl {α : Type} {f : State → α → State} (h : ∀ t x, Frame t (f t x)) (s t : State) (l : List α) :
    Frame s (l.foldl f t) ↔ Frame s t := by
  refine Frame.iff ?_
  induction l generalizing t with
  | nil => exact Frame.refl _
  | cons x l ih => exact (h t x).trans (ih _)

@[simp] theorem frame_foldl_fst {α β : Type} {f : State × β → α → State × β} (h : ∀ t x, Frame t.1 (f t x).1) (s : State) (t : State × β) (l : List α) :
    Frame s (l.foldl f t).1 ↔ Frame s t.1 := by
  refine Frame.iff ?_
  induction l generalizing t with
  | nil => exact Frame.refl _
  | cons x l ih => exact (h t x).trans (ih _)

@[simp] theorem frame_mk {s t : State} {fr b d l rg mb c f ta g stk i me cx k j sc stm fa v sp}
    (h1 : d.state = t.dev.state) (h2 : mb.map (fun b => b.request) = t.mbx.map (fun b => b.request))
    (h3 : c.length = t.cfg.length) (h4 : g.length = t.groves.length) (h5 : stk.length = t.hbm.length)
    (h6 : stm.length = t.streams.length) (h7 : fa.ports.length = t.fabric.ports.length)
    (h8 : f.groves.length = t.flash.groves.length) (h9 : f.slots.map (fun x => x.image) = t.flash.slots.map (fun x => x.image))
    (h10 : l.table.length = t.link.table.length) (h11 : l.pendingBits.length = t.link.pendingBits.length)
    (h12 : me.dram = t.mem.dram) (h13 : me.fwBuffer = t.mem.fwBuffer) (h14 : me.placements = t.mem.placements)
    (h15 : sc.run.map (fun r => r.executed) = t.sched.run.map (fun r => r.executed)) :
    Frame s ⟨t.time, fr, t.pending, b, d, l, rg, mb, c, f, ta, g, stk, i, me, cx, k, j, sc, stm, fa, v, sp⟩ ↔ Frame s t :=
  Frame.iff ⟨rfl, rfl, h1, h2, h3, h4, h5, h6, h7, h8, h9, h10, h11, h12, h13, h14, h15⟩

theorem map_modify_same {α β : Type} (g : α → β) (f : α → α) (h : ∀ x, g (f x) = g x) (l : List α) (i : Nat) :
    (l.modify i f).map g = l.map g := by
  induction l generalizing i with
  | nil => cases i <;> rfl
  | cons x l ih => cases i <;> simp [h, ih]

@[simp] theorem frame_setMbx {s t : State} {m : Nat} {f : Mailbox → Mailbox} (h : ∀ b, (f b).request = b.request) :
    Frame s (setMbx t m f) ↔ Frame s t := by
  simp [setMbx, map_modify_same (fun b : Mailbox => b.request) f h]

@[simp] theorem frame_setSlot {s t : State} {m : Nat} {f : FwSlot → FwSlot} (h : ∀ b, (f b).image = b.image) :
    Frame s (setSlot t m f) ↔ Frame s t := by
  simp [setSlot, map_modify_same (fun b : FwSlot => b.image) f h]

@[simp] theorem freshValue_frame {s t : State} {n : Nat} : Frame s (freshValue t n).2 ↔ Frame s t := by simp [freshValue]

@[simp] theorem frame_setRun {s t : State} {f : Run → Run} (h : ∀ r, (f r).executed = r.executed) :
    Frame s (setRun t f) ↔ Frame s t := by
  have : (t.sched.run.map f).map (fun r => r.executed) = t.sched.run.map (fun r => r.executed) := by
    cases t.sched.run <;> simp [h]
  simp [setRun, this]

@[simp] theorem tally_frame (z s : State) (code source severity p0 p1 p2 p3 : Nat) : Frame z (tally s code source severity p0 p1 p2 p3) ↔ Frame z s := by
  unfold tally
  simp (maxDischargeDepth := 9)

@[simp] theorem signal_frame (z s : State) (v : Nat) : Frame z (signal s v) ↔ Frame z s := by
  unfold signal
  simp (maxDischargeDepth := 9)

@[simp] theorem releaseHeld_frame (z s : State) : Frame z (releaseHeld s) ↔ Frame z s := by
  unfold releaseHeld
  simp (maxDischargeDepth := 9)

@[simp] theorem deviceEvent_frame (z s : State) (b : Nat) : Frame z (deviceEvent s b) ↔ Frame z s := by
  unfold deviceEvent
  simp (maxDischargeDepth := 9)

@[simp] theorem presenceEvent_frame (z s : State) : Frame z (presenceEvent s) ↔ Frame z s := by
  unfold presenceEvent
  simp (maxDischargeDepth := 9)

@[simp] theorem reply_frame (z s : State) (c : Completion) : Frame z (reply s c) ↔ Frame z s := by
  unfold reply
  simp (maxDischargeDepth := 9)

@[simp] theorem respond_frame (z s : State) (m status : Nat) (payload : Resp) (detail detail2 : Nat) : Frame z (respond s m status payload detail detail2) ↔ Frame z s := by
  unfold respond
  repeat' first
    | exact Iff.rfl
    | exact Frame.refl _
    | (simp (maxDischargeDepth := 9); done)
    | split
    | (refine (frame_foldl (fun t x => ?_) _ _ _).trans ?_ <;> try dsimp only)
    | (refine (frame_foldl (fun t x => ?_) _ _ _).2 ?_ <;> try dsimp only)
    | (refine (frame_setRun ?_).2 ?_; (intro _; rfl))
    | (simp; split)

@[simp] theorem refuse_frame (z s : State) (m status detail : Nat) : Frame z (refuse s m status detail) ↔ Frame z s := by
  unfold refuse
  simp (maxDischargeDepth := 9)

@[simp] theorem command_frame {α : Type} {z s : State} {m op : Nat} {p : Pay α} {go : Work → α → State}
    (h : ∀ w x, Frame s (go w x)) : Frame z (command s m op p go) ↔ Frame z s := by
  refine Frame.iff ?_
  unfold command
  repeat' split
  all_goals first | (simp; done) | exact h _ _

@[simp] theorem commandBare_frame {z s : State} {m op : Nat} {go : Work → State}
    (h : ∀ w, Frame s (go w)) : Frame z (commandBare s m op go) ↔ Frame z s := by
  refine Frame.iff ?_
  unfold commandBare
  repeat' split
  all_goals first | (simp; done) | exact h _

@[simp] theorem setJob_frame (z s : State) (j : Nat) (f : Job → Job) : Frame z (setJob s j f) ↔ Frame z s := by
  unfold setJob
  repeat' first
    | exact Iff.rfl
    | exact Frame.refl _
    | (simp (maxDischargeDepth := 9); done)
    | split
    | (refine (frame_foldl (fun t x => ?_) _ _ _).trans ?_ <;> try dsimp only)
    | (refine (frame_foldl (fun t x => ?_) _ _ _).2 ?_ <;> try dsimp only)
    | (refine (frame_setRun ?_).2 ?_; (intro _; rfl))
    | (simp; split)

@[simp] theorem count_frame (z s : State) (j : Nat) (f : Counters → Counters) : Frame z (count s j f) ↔ Frame z s := by
  unfold count
  simp (maxDischargeDepth := 9)

@[simp] theorem setCtx_frame (z s : State) (c : Nat) (f : Context → Context) : Frame z (setCtx s c f) ↔ Frame z s := by
  unfold setCtx
  simp (maxDischargeDepth := 9)

@[simp] theorem setObj_frame (z s : State) (c o : Nat) (f : Obj → Obj) : Frame z (setObj s c o f) ↔ Frame z s := by
  unfold setObj
  simp (maxDischargeDepth := 9)

@[simp] theorem setScale_frame (z s : State) (c i : Nat) (f : ScaleEntry → ScaleEntry) : Frame z (setScale s c i f) ↔ Frame z s := by
  unfold setScale
  simp (maxDischargeDepth := 9)

@[simp] theorem setRecord_frame (z s : State) (job step : Nat) (f : StepRec → StepRec) : Frame z (setRecord s job step f) ↔ Frame z s := by
  unfold setRecord
  simp (maxDischargeDepth := 9)

@[simp] theorem voidRecords_frame {z s : State} {c : Nat} {l : List Admitted} {seen : List Nat} :
    Frame z (voidRecords s c l seen) ↔ Frame z s := by
  induction l generalizing s seen with
  | nil => simp [voidRecords]
  | cons a l ih => unfold voidRecords; split <;> simp [ih]

@[simp] theorem voidSteps_frame {z s : State} {c : Nat} {hit : Admitted → Bool} :
    Frame z (voidSteps s c hit) ↔ Frame z s := by
  unfold voidSteps
  dsimp only
  split
  · rfl
  · simp [Option.map_map, Function.comp_def]

@[simp] theorem haltCommands_frame (z s : State) : Frame z (haltCommands s) ↔ Frame z s := by
  unfold haltCommands
  simp (maxDischargeDepth := 9)

@[simp] theorem stopPorts_frame (z s : State) : Frame z (stopPorts s) ↔ Frame z s := by
  unfold stopPorts
  simp (maxDischargeDepth := 9)

@[simp] theorem stopIslands_frame (z s : State) : Frame z (stopIslands s) ↔ Frame z s := by
  unfold stopIslands
  simp (maxDischargeDepth := 9)

@[simp] theorem recordStats_frame (z s : State) (ctx : Nat) (e : ObjEntry) (st : Stats) : Frame z (recordStats s ctx e st) ↔ Frame z s := by
  unfold recordStats
  repeat' first
    | exact Iff.rfl
    | exact Frame.refl _
    | (simp (maxDischargeDepth := 9); done)
    | split
    | (refine (frame_foldl (fun t x => ?_) _ _ _).trans ?_ <;> try dsimp only)
    | (refine (frame_foldl (fun t x => ?_) _ _ _).2 ?_ <;> try dsimp only)
    | (refine (frame_setRun ?_).2 ?_; (intro _; rfl))
    | (simp; split)

@[simp] theorem countTiles_frame (z s : State) (ctx : Nat) (o : Obj) (eT : Int) (limit : Dy) (tiles : List Nat) : Frame z (countTiles s ctx o eT limit tiles) ↔ Frame z s := by
  unfold countTiles
  repeat' first
    | exact Iff.rfl
    | exact Frame.refl _
    | (simp (maxDischargeDepth := 9); done)
    | split
    | (refine (frame_foldl (fun t x => ?_) _ _ _).trans ?_ <;> try dsimp only)
    | (refine (frame_foldl (fun t x => ?_) _ _ _).2 ?_ <;> try dsimp only)
    | (refine (frame_setRun ?_).2 ?_; (intro _; rfl))
    | (simp; split)

@[simp] theorem ensureObj_frame (z s : State) (img : Image) (n : Nat) : Frame z (ensureObj s img n) ↔ Frame z s := by
  unfold ensureObj
  repeat' first
    | exact Iff.rfl
    | exact Frame.refl _
    | (simp (maxDischargeDepth := 9); done)
    | split
    | (refine (frame_foldl (fun t x => ?_) _ _ _).trans ?_ <;> try dsimp only)
    | (refine (frame_foldl (fun t x => ?_) _ _ _).2 ?_ <;> try dsimp only)
    | (refine (frame_setRun ?_).2 ?_; (intro _; rfl))
    | (simp; split)

@[simp] theorem writeTile_frame (z s : State) (img : Image) (n t : Nat) (val : Nat → Nat → FVal) (pres : Bool) : Frame z (writeTile s img n t val pres) ↔ Frame z s := by
  unfold writeTile
  repeat' first
    | exact Iff.rfl
    | exact Frame.refl _
    | (simp (maxDischargeDepth := 9); done)
    | split
    | (refine (frame_foldl (fun t x => ?_) _ _ _).trans ?_ <;> try dsimp only)
    | (refine (frame_foldl (fun t x => ?_) _ _ _).2 ?_ <;> try dsimp only)
    | (refine (frame_setRun ?_).2 ?_; (intro _; rfl))
    | (simp; split)

@[simp] theorem writeIntBytes_frame (z s : State) (img : Image) (n : Nat) (pos : Nat) (bs : List Byte) (st : Stats) : Frame z (writeIntBytes s img n pos bs st) ↔ Frame z s := by
  unfold writeIntBytes
  repeat' first
    | exact Iff.rfl
    | exact Frame.refl _
    | (simp (maxDischargeDepth := 9); done)
    | split
    | (refine (frame_foldl (fun t x => ?_) _ _ _).trans ?_ <;> try dsimp only)
    | (refine (frame_foldl (fun t x => ?_) _ _ _).2 ?_ <;> try dsimp only)
    | (refine (frame_setRun ?_).2 ?_; (intro _; rfl))
    | (simp; split)

@[simp] theorem writeRange_frame (z s : State) (img : Image) (n : Nat) (base : Nat) (kx : Nat) (nx : Nat) (acc : Bool) (val : Nat → Nat → FVal) (keep : Nat → Bool) (pres : Nat → Nat → Bool) (skip : Nat → Bool) : Frame z (writeRange s img n base kx nx acc val keep pres skip) ↔ Frame z s := by
  unfold writeRange
  repeat' first
    | exact Iff.rfl
    | exact Frame.refl _
    | (simp (maxDischargeDepth := 9); done)
    | split
    | (refine (frame_foldl (fun t x => ?_) _ _ _).trans ?_ <;> try dsimp only)
    | (refine (frame_foldl (fun t x => ?_) _ _ _).2 ?_ <;> try dsimp only)
    | (refine (frame_setRun ?_).2 ?_; (intro _; rfl))
    | (simp; split)

@[simp] theorem lengthsFor_frame (z s : State) (r : Run) (d : Desc) : Frame z (lengthsFor s r d).2 ↔ Frame z s := by
  unfold lengthsFor
  repeat' first
    | exact Iff.rfl
    | exact Frame.refl _
    | (simp (maxDischargeDepth := 9); done)
    | split
    | (refine (frame_foldl (fun t x => ?_) _ _ _).trans ?_ <;> try dsimp only)
    | (refine (frame_foldl (fun t x => ?_) _ _ _).2 ?_ <;> try dsimp only)
    | (refine (frame_setRun ?_).2 ?_; (intro _; rfl))
    | (simp; split)

@[simp] theorem readLens_frame (z s : State) (r : Run) (i : InstId) (d : Desc) : Frame z (readLens s r i d).1 ↔ Frame z s := by
  unfold readLens
  repeat' first
    | exact Iff.rfl
    | exact Frame.refl _
    | (simp (maxDischargeDepth := 9); done)
    | split
    | (refine (frame_foldl (fun t x => ?_) _ _ _).trans ?_ <;> try dsimp only)
    | (refine (frame_foldl (fun t x => ?_) _ _ _).2 ?_ <;> try dsimp only)
    | (refine (frame_setRun ?_).2 ?_; (intro _; rfl))
    | (simp; split)

@[simp] theorem addTiles_frame (z s : State) (i : InstId) (g : Nat) (n : Nat) : Frame z (addTiles s i g n) ↔ Frame z s := by
  unfold addTiles
  repeat' first
    | exact Iff.rfl
    | exact Frame.refl _
    | (simp (maxDischargeDepth := 9); done)
    | split
    | (refine (frame_foldl (fun t x => ?_) _ _ _).trans ?_ <;> try dsimp only)
    | (refine (frame_foldl (fun t x => ?_) _ _ _).2 ?_ <;> try dsimp only)
    | (refine (frame_setRun ?_).2 ?_; (intro _; rfl))
    | (simp; split)

@[simp] theorem dealList_frame (z s : State) (i : InstId) (gs : List Nat) (share : Nat) (units : List Nat) : Frame z (dealList s i gs share units) ↔ Frame z s := by
  unfold dealList
  repeat' first
    | exact Iff.rfl
    | exact Frame.refl _
    | (simp (maxDischargeDepth := 9); done)
    | split
    | (refine (frame_foldl (fun t x => ?_) _ _ _).trans ?_ <;> try dsimp only)
    | (refine (frame_foldl (fun t x => ?_) _ _ _).2 ?_ <;> try dsimp only)
    | (refine (frame_setRun ?_).2 ?_; (intro _; rfl))
    | (simp; split)

@[simp] theorem dealDeclared_frame (z s : State) (i : InstId) (gs : List Nat) (declared : Nat) (units : Nat) (tilesEach : Nat) : Frame z (dealDeclared s i gs declared units tilesEach) ↔ Frame z s := by
  unfold dealDeclared
  repeat' first
    | exact Iff.rfl
    | exact Frame.refl _
    | (simp (maxDischargeDepth := 9); done)
    | split
    | (refine (frame_foldl (fun t x => ?_) _ _ _).trans ?_ <;> try dsimp only)
    | (refine (frame_foldl (fun t x => ?_) _ _ _).2 ?_ <;> try dsimp only)
    | (refine (frame_setRun ?_).2 ?_; (intro _; rfl))
    | (simp; split)

@[simp] theorem dealUnits_frame (z s : State) (i : InstId) (gs : List Nat) (units tilesEach : Nat) : Frame z (dealUnits s i gs units tilesEach) ↔ Frame z s := by
  simp [dealUnits]

@[simp] theorem setTag_frame (z s : State) (t : Option Nat) : Frame z (setTag s t) ↔ Frame z s := by
  unfold setTag
  repeat' first
    | exact Iff.rfl
    | exact Frame.refl _
    | (simp (maxDischargeDepth := 9); done)
    | split
    | (refine (frame_foldl (fun t x => ?_) _ _ _).trans ?_ <;> try dsimp only)
    | (refine (frame_foldl (fun t x => ?_) _ _ _).2 ?_ <;> try dsimp only)
    | (refine (frame_setRun ?_).2 ?_; (intro _; rfl))
    | (simp; split)

@[simp] theorem setVec_frame (z s : State) (g : Nat) (e : VecEngine) : Frame z (setVec s g e) ↔ Frame z s := by
  unfold setVec
  simp (maxDischargeDepth := 9)

@[simp] theorem vecDo_frame (z s : State) (g : Nat) (f : VecEngine → VecEngine) : Frame z (vecDo s g f) ↔ Frame z s := by
  unfold vecDo
  simp (maxDischargeDepth := 9)

@[simp] theorem lanes1_frame (z s : State) (g : Nat) (f : VFields) (op : Word → Word) : Frame z (lanes1 s g f op) ↔ Frame z s := by
  unfold lanes1
  simp (maxDischargeDepth := 9)

@[simp] theorem lanes2_frame (z s : State) (g : Nat) (f : VFields) (op : Word → Word → Word) : Frame z (lanes2 s g f op) ↔ Frame z s := by
  unfold lanes2
  simp (maxDischargeDepth := 9)

@[simp] theorem scalars2_frame (z s : State) (g : Nat) (f : VFields) (op : Word → Word → Word) : Frame z (scalars2 s g f op) ↔ Frame z s := by
  unfold scalars2
  simp (maxDischargeDepth := 9)

@[simp] theorem scalars1_frame (z s : State) (g : Nat) (f : VFields) (op : Word → Word) : Frame z (scalars1 s g f op) ↔ Frame z s := by
  unfold scalars1
  simp (maxDischargeDepth := 9)

@[simp] theorem compareLanes_frame (z s : State) (g : Nat) (f : VFields) (op : Word → Word → Bool) : Frame z (compareLanes s g f op) ↔ Frame z s := by
  unfold compareLanes
  simp (maxDischargeDepth := 9)

@[simp] theorem recordRun_frame (z s : State) (e : VecEngine) (scale : Nat) (st : Stats) : Frame z (recordRun s e scale st) ↔ Frame z s := by
  unfold recordRun
  repeat' first
    | exact Iff.rfl
    | exact Frame.refl _
    | (simp (maxDischargeDepth := 9); done)
    | split
    | (refine (frame_foldl (fun t x => ?_) _ _ _).trans ?_ <;> try dsimp only)
    | (refine (frame_foldl (fun t x => ?_) _ _ _).2 ?_ <;> try dsimp only)
    | (refine (frame_setRun ?_).2 ?_; (intro _; rfl))
    | (simp; split)

@[simp] theorem recordOperand_frame (z s : State) (e : VecEngine) (m : Nat) (st : Stats) : Frame z (recordOperand s e m st) ↔ Frame z s := by
  unfold recordOperand
  repeat' first
    | exact Iff.rfl
    | exact Frame.refl _
    | (simp (maxDischargeDepth := 9); done)
    | split
    | (refine (frame_foldl (fun t x => ?_) _ _ _).trans ?_ <;> try dsimp only)
    | (refine (frame_foldl (fun t x => ?_) _ _ _).2 ?_ <;> try dsimp only)
    | (refine (frame_setRun ?_).2 ?_; (intro _; rfl))
    | (simp; split)

@[simp] theorem recordStore_frame (z s : State) (g : Nat) (m : Nat) (slot : Nat) (st : Stats) : Frame z (recordStore s g m slot st) ↔ Frame z s := by
  unfold recordStore
  repeat' first
    | exact Iff.rfl
    | exact Frame.refl _
    | (simp (maxDischargeDepth := 9); done)
    | split
    | (refine (frame_foldl (fun t x => ?_) _ _ _).trans ?_ <;> try dsimp only)
    | (refine (frame_foldl (fun t x => ?_) _ _ _).2 ?_ <;> try dsimp only)
    | (refine (frame_setRun ?_).2 ?_; (intro _; rfl))
    | (simp; split)

@[simp] theorem reduceLanes_frame (z s : State) (g : Nat) (f : VFields) (unit : Word) (op : Word → Word → Word) : Frame z (reduceLanes s g f unit op) ↔ Frame z s := by
  unfold reduceLanes
  simp (maxDischargeDepth := 9)

@[simp] theorem windowFault_frame (z s : State) (g : Nat) (slot : Nat) : Frame z (windowFault s g slot) ↔ Frame z s := by
  unfold windowFault
  repeat' first
    | exact Iff.rfl
    | exact Frame.refl _
    | (simp (maxDischargeDepth := 9); done)
    | split
    | (refine (frame_foldl (fun t x => ?_) _ _ _).trans ?_ <;> try dsimp only)
    | (refine (frame_foldl (fun t x => ?_) _ _ _).2 ?_ <;> try dsimp only)
    | (refine (frame_setRun ?_).2 ?_; (intro _; rfl))
    | (simp; split)

@[simp] theorem setWindow_frame (z s : State) (g m : Nat) (at_ : Nat) (bs : List Byte) : Frame z (setWindow s g m at_ bs) ↔ Frame z s := by
  unfold setWindow
  simp (maxDischargeDepth := 9)

@[simp] theorem storeBlocks_frame (z s : State) (g m : Nat) (w : Window) (slot : Nat) (bs : List (Nat × List Int)) : Frame z (storeBlocks s g m w slot bs) ↔ Frame z s := by
  unfold storeBlocks
  simp (maxDischargeDepth := 9)

@[simp] theorem storeSlot_frame (z s : State) (g : Nat) (m : Nat) (w : Window) (slot : Nat) (act : Nat) (lo : List Word) (hi : List Word) : Frame z (storeSlot s g m w slot act lo hi) ↔ Frame z s := by
  unfold storeSlot
  repeat' first
    | exact Iff.rfl
    | exact Frame.refl _
    | (simp (maxDischargeDepth := 9); done)
    | split
    | (refine (frame_foldl (fun t x => ?_) _ _ _).trans ?_ <;> try dsimp only)
    | (refine (frame_foldl (fun t x => ?_) _ _ _).2 ?_ <;> try dsimp only)
    | (refine (frame_setRun ?_).2 ?_; (intro _; rfl))
    | (simp; split)

theorem exec_keep_vec {op f} (h : vecOp op = some f) (g : Fin 128) (v : VFields) (s : State) :
    ∃ t, f g v s = .next t ∧ Frame s t := by
  unfold vecOp at h
  repeat' split at h
  all_goals first
    | (cases h; done)
    | (cases h; refine ⟨_, rfl, ?_⟩; repeat' first
        | exact Iff.rfl
        | exact Frame.refl _
        | (simp (maxDischargeDepth := 9); done)
        | split
        | (refine (frame_foldl (fun t x => ?_) _ _ _).trans ?_ <;> try dsimp only)
        | (refine (frame_foldl (fun t x => ?_) _ _ _).2 ?_ <;> try dsimp only)
        | (refine (frame_setRun ?_).2 ?_; (intro _; rfl))
        | (simp; split))

@[simp] theorem vecWord_frame {z s : State} {g w} : Frame z (vecWord g w s) ↔ Frame z s := by
  refine Frame.iff ?_
  unfold vecWord
  split
  · simp [Outcome.orKeep, execHdr, done]
  · split
    · rename_i f h
      obtain ⟨t, ht, hf⟩ := exec_keep_vec h g (vfieldsOfWord w.toNat) s
      simp only [ht, Outcome.orKeep, hf]
    · simp

@[simp] theorem runWords_frame {z s : State} {g p n} : Frame z (runWords g p n s) ↔ Frame z s := by
  induction n generalizing s with
  | zero => simp [runWords]
  | succ n ih => unfold runWords; split <;> simp [ih]

@[simp] theorem Product.countBias_frame (z s : State) (ctx : Nat) (p : Product) : Frame z (Product.countBias s ctx p) ↔ Frame z s := by
  unfold Product.countBias
  repeat' first
    | exact Iff.rfl
    | exact Frame.refl _
    | (simp (maxDischargeDepth := 9); done)
    | split
    | (refine (frame_foldl (fun t x => ?_) _ _ _).trans ?_ <;> try dsimp only)
    | (refine (frame_foldl (fun t x => ?_) _ _ _).2 ?_ <;> try dsimp only)
    | (refine (frame_setRun ?_).2 ?_; (intro _; rfl))
    | (simp; split)

@[simp] theorem keepCovered_frame (z s : State) (i : InstId) (p : Product) (keep : Nat → Bool) (val : Nat → Nat → Dy) : Frame z (keepCovered s i p keep val) ↔ Frame z s := by
  unfold keepCovered
  repeat' first
    | exact Iff.rfl
    | exact Frame.refl _
    | (simp (maxDischargeDepth := 9); done)
    | split
    | (refine (frame_foldl (fun t x => ?_) _ _ _).trans ?_ <;> try dsimp only)
    | (refine (frame_foldl (fun t x => ?_) _ _ _).2 ?_ <;> try dsimp only)
    | (refine (frame_setRun ?_).2 ?_; (intro _; rfl))
    | (simp; split)

@[simp] theorem denseProduct_frame (z s : State) (img : Image) (i : InstId) (p : Product) (keep : Nat → Bool) : Frame z (denseProduct s img i p keep) ↔ Frame z s := by
  unfold denseProduct
  repeat' first
    | exact Iff.rfl
    | exact Frame.refl _
    | (simp (maxDischargeDepth := 9); done)
    | split
    | (refine (frame_foldl (fun t x => ?_) _ _ _).trans ?_ <;> try dsimp only)
    | (refine (frame_foldl (fun t x => ?_) _ _ _).2 ?_ <;> try dsimp only)
    | (refine (frame_setRun ?_).2 ?_; (intro _; rfl))
    | (simp; split)

@[simp] theorem wideProduct_frame (z s : State) (img : Image) (i : InstId) (p : Product) (limbs : Nat) (keep : Nat → Bool) : Frame z (wideProduct s img i p limbs keep) ↔ Frame z s := by
  unfold wideProduct
  repeat' first
    | exact Iff.rfl
    | exact Frame.refl _
    | (simp (maxDischargeDepth := 9); done)
    | split
    | (refine (frame_foldl (fun t x => ?_) _ _ _).trans ?_ <;> try dsimp only)
    | (refine (frame_foldl (fun t x => ?_) _ _ _).2 ?_ <;> try dsimp only)
    | (refine (frame_setRun ?_).2 ?_; (intro _; rfl))
    | (simp; split)

@[simp] theorem packedProblem_frame (z s : State) (img : Image) (i : InstId) (p : Problem) (acc : Bool) (keep : Nat → Bool) : Frame z (packedProblem s img i p acc keep) ↔ Frame z s := by
  unfold packedProblem
  repeat' first
    | exact Iff.rfl
    | exact Frame.refl _
    | (simp (maxDischargeDepth := 9); done)
    | split
    | (refine (frame_foldl (fun t x => ?_) _ _ _).trans ?_ <;> try dsimp only)
    | (refine (frame_foldl (fun t x => ?_) _ _ _).2 ?_ <;> try dsimp only)
    | (refine (frame_setRun ?_).2 ?_; (intro _; rfl))
    | (simp; split)

@[simp] theorem matmulDo_frame (z s : State) (i : InstId) (r : Run) (d : Desc) : Frame z (matmulDo i r d s) ↔ Frame z s := by
  unfold matmulDo
  repeat' first
    | exact Iff.rfl
    | exact Frame.refl _
    | (simp (maxDischargeDepth := 9); done)
    | split
    | (refine (frame_foldl (fun t x => ?_) _ _ _).trans ?_ <;> try dsimp only)
    | (refine (frame_foldl (fun t x => ?_) _ _ _).2 ?_ <;> try dsimp only)
    | (refine (frame_setRun ?_).2 ?_; (intro _; rfl))
    | (simp; split)

@[simp] theorem convDo_frame (i : InstId) (r : Run) (d : Desc) (z s : State) : Frame z (convDo i r d s) ↔ Frame z s := by
  unfold convDo
  repeat' first
    | exact Iff.rfl
    | exact Frame.refl _
    | (simp (maxDischargeDepth := 9); done)
    | split
    | (refine (frame_foldl (fun t x => ?_) _ _ _).trans ?_ <;> try dsimp only)
    | (refine (frame_foldl (fun t x => ?_) _ _ _).2 ?_ <;> try dsimp only)
    | (refine (frame_setRun ?_).2 ?_; (intro _; rfl))
    | (simp; split)

@[simp] theorem convDeal_frame (z s : State) (i : InstId) (r : Run) (d : Desc) : Frame z (convDeal i r d s) ↔ Frame z s := by
  unfold convDeal
  repeat' first
    | exact Iff.rfl
    | exact Frame.refl _
    | (simp (maxDischargeDepth := 9); done)
    | split
    | (refine (frame_foldl (fun t x => ?_) _ _ _).trans ?_ <;> try dsimp only)
    | (refine (frame_foldl (fun t x => ?_) _ _ _).2 ?_ <;> try dsimp only)
    | (refine (frame_setRun ?_).2 ?_; (intro _; rfl))
    | (simp; split)

@[simp] theorem freeFilter_frame (z s : State) (die : Nat) (i : InstId) : Frame z (freeFilter s die i) ↔ Frame z s := by
  unfold freeFilter
  simp (maxDischargeDepth := 9)

@[simp] theorem attnDeal_frame (z s : State) (i : InstId) (r : Run) (d : Desc) (live : List (List Nat)) : Frame z (attnDeal s i r d live) ↔ Frame z s := by
  unfold attnDeal
  repeat' first
    | exact Iff.rfl
    | exact Frame.refl _
    | (simp (maxDischargeDepth := 9); done)
    | split
    | (refine (frame_foldl (fun t x => ?_) _ _ _).trans ?_ <;> try dsimp only)
    | (refine (frame_foldl (fun t x => ?_) _ _ _).2 ?_ <;> try dsimp only)
    | (refine (frame_setRun ?_).2 ?_; (intro _; rfl))
    | (simp; split)

@[simp] theorem countTokens_frame (z s : State) (ctx : Nat) (o : Obj) (base : Nat) (features : Nat) (alongK : Bool) (tokens : List (Nat × Nat)) : Frame z (countTokens s ctx o base features alongK tokens) ↔ Frame z s := by
  unfold countTokens
  repeat' first
    | exact Iff.rfl
    | exact Frame.refl _
    | (simp (maxDischargeDepth := 9); done)
    | split
    | (refine (frame_foldl (fun t x => ?_) _ _ _).trans ?_ <;> try dsimp only)
    | (refine (frame_foldl (fun t x => ?_) _ _ _).2 ?_ <;> try dsimp only)
    | (refine (frame_setRun ?_).2 ?_; (intro _; rfl))
    | (simp; split)

@[simp] theorem evictedRead_frame (z s : State) (r : Run) (d : Desc) (kv : Obj) (v : SeqView) (g : Nat) (att : List Nat) : Frame z (evictedRead s r d kv v g att) ↔ Frame z s := by
  unfold evictedRead
  simp (maxDischargeDepth := 9)

@[simp] theorem scoreDo_frame (i : InstId) (r : Run) (d : Desc) (z s : State) : Frame z (scoreDo i r d s) ↔ Frame z s := by
  unfold scoreDo
  repeat' first
    | exact Iff.rfl
    | exact Frame.refl _
    | (simp (maxDischargeDepth := 9); done)
    | split
    | (refine (frame_foldl (fun t x => ?_) _ _ _).trans ?_ <;> try dsimp only)
    | (refine (frame_foldl (fun t x => ?_) _ _ _).2 ?_ <;> try dsimp only)
    | (refine (frame_setRun ?_).2 ?_; (intro _; rfl))
    | (simp; split)

@[simp] theorem applyDo_frame (i : InstId) (r : Run) (d : Desc) (z s : State) : Frame z (applyDo i r d s) ↔ Frame z s := by
  unfold applyDo
  repeat' first
    | exact Iff.rfl
    | exact Frame.refl _
    | (simp (maxDischargeDepth := 9); done)
    | split
    | (refine (frame_foldl (fun t x => ?_) _ _ _).trans ?_ <;> try dsimp only)
    | (refine (frame_foldl (fun t x => ?_) _ _ _).2 ?_ <;> try dsimp only)
    | (refine (frame_setRun ?_).2 ?_; (intro _; rfl))
    | (simp; split)

@[simp] theorem evictPage_frame (z s : State) (i : InstId) (step : Nat) (p : Page) : Frame z (evictPage s i step p) ↔ Frame z s := by
  unfold evictPage
  repeat' first
    | exact Iff.rfl
    | exact Frame.refl _
    | (simp (maxDischargeDepth := 9); done)
    | split
    | (refine (frame_foldl (fun t x => ?_) _ _ _).trans ?_ <;> try dsimp only)
    | (refine (frame_foldl (fun t x => ?_) _ _ _).2 ?_ <;> try dsimp only)
    | (refine (frame_setRun ?_).2 ?_; (intro _; rfl))
    | (simp; split)

@[simp] theorem storeGroup_frame {z s : State} {r d t bx4 eK eV a g key val} :
    Frame z (storeGroup s r d t bx4 eK eV a g key val) ↔ Frame z s := by
  unfold storeGroup
  refine (frame_foldl (fun t x => ?_) _ _ _)
  dsimp only
  split <;> simp

@[simp] theorem appendFailed_frame (z s : State) (d : Desc) (status need avail : Nat) : Frame z (appendFailed s d status need avail) ↔ Frame z s := by
  unfold appendFailed
  simp (maxDischargeDepth := 9)

@[simp] theorem appendDo_frame (z s : State) (i : InstId) (r : Run) (d : Desc) : Frame z (appendDo i r d s) ↔ Frame z s := by
  unfold appendDo
  repeat' first
    | exact Iff.rfl
    | exact Frame.refl _
    | (simp (maxDischargeDepth := 9); done)
    | split
    | (refine (frame_foldl (fun t x => ?_) _ _ _).trans ?_ <;> try dsimp only)
    | (refine (frame_foldl (fun t x => ?_) _ _ _).2 ?_ <;> try dsimp only)
    | (refine (frame_setRun ?_).2 ?_; (intro _; rfl))
    | (simp; split)

@[simp] theorem appendComplete_frame (z s : State) (r : Run) (i : InstId) (d : Desc) : Frame z (appendComplete s r i d) ↔ Frame z s := by
  unfold appendComplete
  repeat' first
    | exact Iff.rfl
    | exact Frame.refl _
    | (simp (maxDischargeDepth := 9); done)
    | split
    | (refine (frame_foldl (fun t x => ?_) _ _ _).trans ?_ <;> try dsimp only)
    | (refine (frame_foldl (fun t x => ?_) _ _ _).2 ?_ <;> try dsimp only)
    | (refine (frame_setRun ?_).2 ?_; (intro _; rfl))
    | (simp; split)

@[simp] theorem selectDo_frame (z s : State) (i : InstId) (r : Run) (d : Desc) : Frame z (selectDo i r d s) ↔ Frame z s := by
  unfold selectDo
  repeat' first
    | exact Iff.rfl
    | exact Frame.refl _
    | (simp (maxDischargeDepth := 9); done)
    | split
    | (refine (frame_foldl (fun t x => ?_) _ _ _).trans ?_ <;> try dsimp only)
    | (refine (frame_foldl (fun t x => ?_) _ _ _).2 ?_ <;> try dsimp only)
    | (refine (frame_setRun ?_).2 ?_; (intro _; rfl))
    | (simp; split)

@[simp] theorem beginRun_frame (z s : State) (g : Nat) (i : InstId) (r : Run) (d : Desc) (q : Nat) : Frame z (beginRun s g i r d q) ↔ Frame z s := by
  unfold beginRun
  simp (maxDischargeDepth := 9)

@[simp] theorem drainWindow_frame (z s : State) (i : InstId) (r : Run) (d : Desc) (e : VecEngine) (pres : Bool) (m : Nat) (w : Window) : Frame z (drainWindow i r d e pres s m w) ↔ Frame z s := by
  unfold drainWindow
  repeat' first
    | exact Iff.rfl
    | exact Frame.refl _
    | (simp (maxDischargeDepth := 9); done)
    | split
    | (refine (frame_foldl (fun t x => ?_) _ _ _).trans ?_ <;> try dsimp only)
    | (refine (frame_foldl (fun t x => ?_) _ _ _).2 ?_ <;> try dsimp only)
    | (refine (frame_setRun ?_).2 ?_; (intro _; rfl))
    | (simp; split)

@[simp] theorem endRun_frame {z s : State} {i r d g} : Frame z (endRun i r d s g) ↔ Frame z s := by
  unfold endRun
  dsimp only
  simp only [frame_mk]
  refine (frame_foldl (fun t x => ?_) _ _ _)
  split <;> simp

@[simp] theorem wholeRun_frame {z s : State} {g i r d q} : Frame z (wholeRun g i r d q s) ↔ Frame z s := by
  simp [wholeRun, beginRun]

@[simp] theorem vecInstDo_frame {z s : State} {i r d} : Frame z (vecInstDo i r d s) ↔ Frame z s := by simp [vecInstDo]

@[simp] theorem putOther_frame (z s : State) (ctx n t : Nat) (bs : List Byte) : Frame z (putOther s ctx n t bs) ↔ Frame z s := by
  unfold putOther
  simp (maxDischargeDepth := 9)

@[simp] theorem openOther_frame (z s : State) (ctx n : Nat) : Frame z (openOther s ctx n) ↔ Frame z s := by
  unfold openOther
  simp (maxDischargeDepth := 9)

@[simp] theorem ruleSTile_frame (z s : State) (r : Run) (d : Desc) (sigma : Word) (p g m : Obj) (t : Nat) : Frame z (ruleSTile s r d sigma p g m t) ↔ Frame z s := by
  unfold ruleSTile
  simp (maxDischargeDepth := 9)

@[simp] theorem writePlane_frame (z s : State) (img : Image) (n plane side : Nat) (val : Nat → Nat → Word) : Frame z (writePlane s img n plane side val) ↔ Frame z s := by
  unfold writePlane
  repeat' first
    | exact Iff.rfl
    | exact Frame.refl _
    | (simp (maxDischargeDepth := 9); done)
    | split
    | (refine (frame_foldl (fun t x => ?_) _ _ _).trans ?_ <;> try dsimp only)
    | (refine (frame_foldl (fun t x => ?_) _ _ _).2 ?_ <;> try dsimp only)
    | (refine (frame_setRun ?_).2 ?_; (intro _; rfl))
    | (simp; split)

@[simp] theorem foldFactor_frame (z s : State) (img : Image) (d : Desc) (n j side : Nat) : Frame z (foldFactor s img d n j side) ↔ Frame z s := by
  unfold foldFactor
  repeat' first
    | exact Iff.rfl
    | exact Frame.refl _
    | (simp (maxDischargeDepth := 9); done)
    | split
    | (refine (frame_foldl (fun t x => ?_) _ _ _).trans ?_ <;> try dsimp only)
    | (refine (frame_foldl (fun t x => ?_) _ _ _).2 ?_ <;> try dsimp only)
    | (refine (frame_setRun ?_).2 ?_; (intro _; rfl))
    | (simp; split)

@[simp] theorem writeRoot_frame (z s : State) (img : Image) (n : Nat) (j : Nat) (side : Nat) (m : Mat) : Frame z (writeRoot s img n j side m) ↔ Frame z s := by
  unfold writeRoot
  repeat' first
    | exact Iff.rfl
    | exact Frame.refl _
    | (simp (maxDischargeDepth := 9); done)
    | split
    | (refine (frame_foldl (fun t x => ?_) _ _ _).trans ?_ <;> try dsimp only)
    | (refine (frame_foldl (fun t x => ?_) _ _ _).2 ?_ <;> try dsimp only)
    | (refine (frame_setRun ?_).2 ?_; (intro _; rfl))
    | (simp; split)

@[simp] theorem dealRoot_frame (z s : State) (r : Run) (d : Desc) (side : Nat) : Frame z (dealRoot s r d side) ↔ Frame z s := by
  unfold dealRoot
  repeat' first
    | exact Iff.rfl
    | exact Frame.refl _
    | (simp (maxDischargeDepth := 9); done)
    | split
    | (refine (frame_foldl (fun t x => ?_) _ _ _).trans ?_ <;> try dsimp only)
    | (refine (frame_foldl (fun t x => ?_) _ _ _).2 ?_ <;> try dsimp only)
    | (refine (frame_setRun ?_).2 ?_; (intro _; rfl))
    | (simp; split)

@[simp] theorem rulePBlock_frame (z s : State) (r : Run) (d : Desc) (sigma : Word) (p u : Obj) (j : Nat) : Frame z (rulePBlock s r d sigma p u j) ↔ Frame z s := by
  unfold rulePBlock
  simp (maxDischargeDepth := 9)

@[simp] theorem blockRoots_frame (z s : State) (r : Run) (d : Desc) (p : Obj) (j : Nat) : Frame z (blockRoots s r d p j).1 ↔ Frame z s := by
  unfold blockRoots
  repeat' first
    | exact Iff.rfl
    | exact Frame.refl _
    | (simp (maxDischargeDepth := 9); done)
    | split
    | (refine (frame_foldl (fun t x => ?_) _ _ _).trans ?_ <;> try dsimp only)
    | (refine (frame_foldl (fun t x => ?_) _ _ _).2 ?_ <;> try dsimp only)
    | (refine (frame_setRun ?_).2 ?_; (intro _; rfl))
    | (simp; split)

@[simp] theorem rulePRoots_frame (z s : State) (r : Run) (d : Desc) (p : Obj) (blocks : List Nat) : Frame z (rulePRoots s r d p blocks) ↔ Frame z s := by
  unfold rulePRoots
  repeat' first
    | exact Iff.rfl
    | exact Frame.refl _
    | (simp (maxDischargeDepth := 9); done)
    | split
    | (refine (frame_foldl (fun t x => ?_) _ _ _).trans ?_ <;> try dsimp only)
    | (refine (frame_foldl (fun t x => ?_) _ _ _).2 ?_ <;> try dsimp only)
    | (refine (frame_setRun ?_).2 ?_; (intro _; rfl))
    | (simp; split)

@[simp] theorem readonlyUpdate_frame (z s : State) (r : Run) (d : Desc) (g : Obj) (home : Nat → Nat) : Frame z (readonlyUpdate s r d g home) ↔ Frame z s := by
  unfold readonlyUpdate
  repeat' first
    | exact Iff.rfl
    | exact Frame.refl _
    | (simp (maxDischargeDepth := 9); done)
    | split
    | (refine (frame_foldl (fun t x => ?_) _ _ _).trans ?_ <;> try dsimp only)
    | (refine (frame_foldl (fun t x => ?_) _ _ _).2 ?_ <;> try dsimp only)
    | (refine (frame_setRun ?_).2 ?_; (intro _; rfl))
    | (simp; split)

@[simp] theorem updateDo_frame (z s : State) (home : Nat → Nat) (r : Run) (d : Desc) : Frame z (updateDo home r d s) ↔ Frame z s := by
  unfold updateDo
  repeat' first
    | exact Iff.rfl
    | exact Frame.refl _
    | (simp (maxDischargeDepth := 9); done)
    | split
    | (refine (frame_foldl (fun t x => ?_) _ _ _).trans ?_ <;> try dsimp only)
    | (refine (frame_foldl (fun t x => ?_) _ _ _).2 ?_ <;> try dsimp only)
    | (refine (frame_setRun ?_).2 ?_; (intro _; rfl))
    | (simp; split)

@[simp] theorem updateComplete_frame (z s : State) (r : Run) (d : Desc) : Frame z (updateComplete s r d) ↔ Frame z s := by
  unfold updateComplete
  simp (maxDischargeDepth := 9)

@[simp] theorem clearGradients_frame (z s : State) (job : Nat) (ctx : Nat) : Frame z (clearGradients s job ctx) ↔ Frame z s := by
  unfold clearGradients
  repeat' first
    | exact Iff.rfl
    | exact Frame.refl _
    | (simp (maxDischargeDepth := 9); done)
    | split
    | (refine (frame_foldl (fun t x => ?_) _ _ _).trans ?_ <;> try dsimp only)
    | (refine (frame_foldl (fun t x => ?_) _ _ _).2 ?_ <;> try dsimp only)
    | (refine (frame_setRun ?_).2 ?_; (intro _; rfl))
    | (simp; split)

@[simp] theorem sendChunk_frame (z s : State) (r : Run) (coll : Nat) (chunk : Nat) (phase : Nat) (x : Part) : Frame z (sendChunk s r coll chunk phase x) ↔ Frame z s := by
  unfold sendChunk
  repeat' first
    | exact Iff.rfl
    | exact Frame.refl _
    | (simp (maxDischargeDepth := 9); done)
    | split
    | (refine (frame_foldl (fun t x => ?_) _ _ _).trans ?_ <;> try dsimp only)
    | (refine (frame_foldl (fun t x => ?_) _ _ _).2 ?_ <;> try dsimp only)
    | (refine (frame_setRun ?_).2 ?_; (intro _; rfl))
    | (simp; split)

@[simp] theorem takeFlags_frame (z s : State) (f : BitVec 8) : Frame z (takeFlags s f) ↔ Frame z s := by
  unfold takeFlags
  simp (maxDischargeDepth := 9)

@[simp] theorem Reduction.send_frame (z s : State) (x : Reduction) (r : Run) : Frame z (Reduction.send x s r) ↔ Frame z s := by
  unfold Reduction.send
  repeat' first
    | exact Iff.rfl
    | exact Frame.refl _
    | (simp (maxDischargeDepth := 9); done)
    | split
    | (refine (frame_foldl (fun t x => ?_) _ _ _).trans ?_ <;> try dsimp only)
    | (refine (frame_foldl (fun t x => ?_) _ _ _).2 ?_ <;> try dsimp only)
    | (refine (frame_setRun ?_).2 ?_; (intro _; rfl))
    | (simp; split)

@[simp] theorem writeReduced_frame (z s : State) (img : Image) (d : Desc) (src : Format) (eS : Int) (t : Nat) (b : List Byte) (pres : Bool) : Frame z (writeReduced s img d src eS t b pres) ↔ Frame z s := by
  unfold writeReduced
  repeat' first
    | exact Iff.rfl
    | exact Frame.refl _
    | (simp (maxDischargeDepth := 9); done)
    | split
    | (refine (frame_foldl (fun t x => ?_) _ _ _).trans ?_ <;> try dsimp only)
    | (refine (frame_foldl (fun t x => ?_) _ _ _).2 ?_ <;> try dsimp only)
    | (refine (frame_setRun ?_).2 ?_; (intro _; rfl))
    | (simp; split)

@[simp] theorem writeShare_frame (z s : State) (img : Image) (i : InstId) (r : Run) (d : Desc) (x : Reduction) (ts : List (Nat × List Byte × Bool)) (mine : Nat → Bool) : Frame z (writeShare s img i r d x ts mine) ↔ Frame z s := by
  unfold writeShare
  repeat' first
    | exact Iff.rfl
    | exact Frame.refl _
    | (simp (maxDischargeDepth := 9); done)
    | split
    | (refine (frame_foldl (fun t x => ?_) _ _ _).trans ?_ <;> try dsimp only)
    | (refine (frame_foldl (fun t x => ?_) _ _ _).2 ?_ <;> try dsimp only)
    | (refine (frame_setRun ?_).2 ?_; (intro _; rfl))
    | (simp; split)

@[simp] theorem reduceSend_frame (z s : State) (i : InstId) (r : Run) (d : Desc) : Frame z (reduceSend i r d s) ↔ Frame z s := by
  unfold reduceSend
  repeat' first
    | exact Iff.rfl
    | exact Frame.refl _
    | (simp (maxDischargeDepth := 9); done)
    | split
    | (refine (frame_foldl (fun t x => ?_) _ _ _).trans ?_ <;> try dsimp only)
    | (refine (frame_foldl (fun t x => ?_) _ _ _).2 ?_ <;> try dsimp only)
    | (refine (frame_setRun ?_).2 ?_; (intro _; rfl))
    | (simp; split)

@[simp] theorem inShadow_frame {z s : State} {job h} {f : State → State} (hf : ∀ u, Frame u (f u)) : Frame z (inShadow s job h f) ↔ Frame z s := by
  refine Frame.iff ?_
  unfold inShadow
  have := hf { s with ctxs := h.ctx :: s.ctxs }
  exact Frame.trans (by simp) (Frame.trans this (by simp))

@[simp] theorem updateAll_frame {z s : State} {i r d} : Frame z (updateAll i r d s) ↔ Frame z s := by
  unfold updateAll
  refine (frame_foldl (fun t x => ?_) _ _ _).trans (by simp)
  split
  · exact (inShadow_frame fun u => by simp).2 (Frame.refl _)
  · exact Frame.refl _

theorem reduceShadow_frame {i r d s h t} (e : reduceShadow i r d s h = some t) : Frame s t := by
  simp only [reduceShadow, Option.bind_eq_some_iff, Option.map_eq_some_iff] at e
  obtain ⟨x, _, y, _, rfl⟩ := e
  simp

theorem foldShadows_frame {i r d} {l : List Shadow} {a : Option State} {t : State}
    (e : (l.foldl (fun s h => s.bind fun s => reduceShadow i r d s h) a) = some t) : ∃ s, a = some s ∧ Frame s t := by
  induction l generalizing a with
  | nil => exact ⟨t, e, Frame.refl t⟩
  | cons h l ih =>
    obtain ⟨u, hu, hf⟩ := ih e
    simp only [Option.bind_eq_some_iff] at hu
    obtain ⟨s, hs, hu⟩ := hu
    exact ⟨s, hs, (reduceShadow_frame hu).trans hf⟩

theorem reduceDo_frame {i r d s t} (h : reduceDo i r d s = some t) : Frame s t := by
  unfold reduceDo at h
  dsimp only at h
  repeat' split at h
  all_goals first | (cases h; done) | skip
  obtain ⟨u, hu, hf⟩ := foldShadows_frame h
  cases hu
  exact Frame.trans (by simp) hf

@[simp] theorem copyTile_frame (z s : State) (img : Image) (n t : Nat) (b : List Byte) (pres : Bool) : Frame z (copyTile s img n t b pres) ↔ Frame z s := by
  unfold copyTile
  repeat' first
    | exact Iff.rfl
    | exact Frame.refl _
    | (simp (maxDischargeDepth := 9); done)
    | split
    | (refine (frame_foldl (fun t x => ?_) _ _ _).trans ?_ <;> try dsimp only)
    | (refine (frame_foldl (fun t x => ?_) _ _ _).2 ?_ <;> try dsimp only)
    | (refine (frame_setRun ?_).2 ?_; (intro _; rfl))
    | (simp; split)

@[simp] theorem gatherSend_frame (z s : State) (i : InstId) (r : Run) (d : Desc) : Frame z (gatherSend i r d s) ↔ Frame z s := by
  unfold gatherSend
  repeat' first
    | exact Iff.rfl
    | exact Frame.refl _
    | (simp (maxDischargeDepth := 9); done)
    | split
    | (refine (frame_foldl (fun t x => ?_) _ _ _).trans ?_ <;> try dsimp only)
    | (refine (frame_foldl (fun t x => ?_) _ _ _).2 ?_ <;> try dsimp only)
    | (refine (frame_setRun ?_).2 ?_; (intro _; rfl))
    | (simp; split)

@[simp] theorem copyPart_frame (z s : State) (img : Image) (i : InstId) (r : Run) (d : Desc) (tiles : List Nat) (p : Part) : Frame z (copyPart s img i r d tiles p) ↔ Frame z s := by
  unfold copyPart
  repeat' first
    | exact Iff.rfl
    | exact Frame.refl _
    | (simp (maxDischargeDepth := 9); done)
    | split
    | (refine (frame_foldl (fun t x => ?_) _ _ _).trans ?_ <;> try dsimp only)
    | (refine (frame_foldl (fun t x => ?_) _ _ _).2 ?_ <;> try dsimp only)
    | (refine (frame_setRun ?_).2 ?_; (intro _; rfl))
    | (simp; split)

theorem stageDo_frame {i r d b s t} (h : stageDo i r d b s = some t) : Frame s t := by
  unfold stageDo at h
  dsimp only at h
  repeat' split at h
  all_goals first
    | (cases h; done)
    | (simp only [Option.map_eq_some_iff] at h; obtain ⟨x, _, rfl⟩ := h; repeat' first
        | exact Iff.rfl
        | exact Frame.refl _
        | (simp (maxDischargeDepth := 9); done)
        | split
        | (refine (frame_foldl (fun t x => ?_) _ _ _).trans ?_ <;> try dsimp only)
        | (refine (frame_foldl (fun t x => ?_) _ _ _).2 ?_ <;> try dsimp only)
        | (refine (frame_setRun ?_).2 ?_; (intro _; rfl))
        | (simp; split))
    | (cases h; repeat' first
        | exact Iff.rfl
        | exact Frame.refl _
        | (simp (maxDischargeDepth := 9); done)
        | split
        | (refine (frame_foldl (fun t x => ?_) _ _ _).trans ?_ <;> try dsimp only)
        | (refine (frame_foldl (fun t x => ?_) _ _ _).2 ?_ <;> try dsimp only)
        | (refine (frame_setRun ?_).2 ?_; (intro _; rfl))
        | (simp; split))

@[simp] theorem recordVersions_frame (z s : State) (i : InstId) (x : Gathering) (ps : List (Nat × Part)) : Frame z (recordVersions i x ps s) ↔ Frame z s := by
  unfold recordVersions
  repeat' first
    | exact Iff.rfl
    | exact Frame.refl _
    | (simp (maxDischargeDepth := 9); done)
    | split
    | (refine (frame_foldl (fun t x => ?_) _ _ _).trans ?_ <;> try dsimp only)
    | (refine (frame_foldl (fun t x => ?_) _ _ _).2 ?_ <;> try dsimp only)
    | (refine (frame_setRun ?_).2 ?_; (intro _; rfl))
    | (simp; split)

@[simp] theorem replacedShards_frame (z s : State) (i : InstId) (r : Run) (x : Gathering) (ps : List (Nat × Part)) : Frame z (replacedShards i r x ps s) ↔ Frame z s := by
  unfold replacedShards
  repeat' first
    | exact Iff.rfl
    | exact Frame.refl _
    | (simp (maxDischargeDepth := 9); done)
    | split
    | (refine (frame_foldl (fun t x => ?_) _ _ _).trans ?_ <;> try dsimp only)
    | (refine (frame_foldl (fun t x => ?_) _ _ _).2 ?_ <;> try dsimp only)
    | (refine (frame_setRun ?_).2 ?_; (intro _; rfl))
    | (simp; split)

theorem gatherDo_frame {i r d s t} (h : gatherDo i r d s = some t) : Frame s t := by
  unfold gatherDo at h
  dsimp only at h
  repeat' split at h
  all_goals first
    | (cases h; done)
    | (simp only [Option.map_eq_some_iff] at h; obtain ⟨x, _, rfl⟩ := h; repeat' first
        | exact Iff.rfl
        | exact Frame.refl _
        | (simp (maxDischargeDepth := 9); done)
        | split
        | (refine (frame_foldl (fun t x => ?_) _ _ _).trans ?_ <;> try dsimp only)
        | (refine (frame_foldl (fun t x => ?_) _ _ _).2 ?_ <;> try dsimp only)
        | (refine (frame_setRun ?_).2 ?_; (intro _; rfl))
        | (simp; split))
    | (simp only [Option.bind_eq_some_iff] at h; obtain ⟨x, _, h⟩ := h; exact stageDo_frame h)
    | (cases h; repeat' first
        | exact Iff.rfl
        | exact Frame.refl _
        | (simp (maxDischargeDepth := 9); done)
        | split
        | (refine (frame_foldl (fun t x => ?_) _ _ _).trans ?_ <;> try dsimp only)
        | (refine (frame_foldl (fun t x => ?_) _ _ _).2 ?_ <;> try dsimp only)
        | (refine (frame_setRun ?_).2 ?_; (intro _; rfl))
        | (simp; split))

@[simp] theorem syncScales_frame (z s : State) (ctx : Nat) (es : List Nat) (own : Bool) (parts : List ScalePart) : Frame z (syncScales s ctx es own parts) ↔ Frame z s := by
  unfold syncScales
  repeat' first
    | exact Iff.rfl
    | exact Frame.refl _
    | (simp (maxDischargeDepth := 9); done)
    | split
    | (refine (frame_foldl (fun t x => ?_) _ _ _).trans ?_ <;> try dsimp only)
    | (refine (frame_foldl (fun t x => ?_) _ _ _).2 ?_ <;> try dsimp only)
    | (refine (frame_setRun ?_).2 ?_; (intro _; rfl))
    | (simp; split)

@[simp] theorem skipUpdate_frame (z s : State) (r : Run) (cause : Nat) (nC : Nat) : Frame z (skipUpdate s r cause nC) ↔ Frame z s := by
  unfold skipUpdate
  repeat' first
    | exact Iff.rfl
    | exact Frame.refl _
    | (simp (maxDischargeDepth := 9); done)
    | split
    | (refine (frame_foldl (fun t x => ?_) _ _ _).trans ?_ <;> try dsimp only)
    | (refine (frame_foldl (fun t x => ?_) _ _ _).2 ?_ <;> try dsimp only)
    | (refine (frame_setRun ?_).2 ?_; (intro _; rfl))
    | (simp; split)

@[simp] theorem recountScales_frame (z s : State)  : Frame z (recountScales s) ↔ Frame z s := by
  unfold recountScales
  repeat' first
    | exact Iff.rfl
    | exact Frame.refl _
    | (simp (maxDischargeDepth := 9); done)
    | split
    | (refine (frame_foldl (fun t x => ?_) _ _ _).trans ?_ <;> try dsimp only)
    | (refine (frame_foldl (fun t x => ?_) _ _ _).2 ?_ <;> try dsimp only)
    | (refine (frame_setRun ?_).2 ?_; (intro _; rfl))
    | (simp; split)

@[simp] theorem freeFilters_frame (z s : State) (gone : InstId → Bool) : Frame z (freeFilters s gone) ↔ Frame z s := by
  unfold freeFilters
  repeat' first
    | exact Iff.rfl
    | exact Frame.refl _
    | (simp (maxDischargeDepth := 9); done)
    | split
    | (refine (frame_foldl (fun t x => ?_) _ _ _).trans ?_ <;> try dsimp only)
    | (refine (frame_foldl (fun t x => ?_) _ _ _).2 ?_ <;> try dsimp only)
    | (refine (frame_setRun ?_).2 ?_; (intro _; rfl))
    | (simp; split)

@[simp] theorem releaseVersions_frame (z s : State) (ctx : Nat) (mb : Nat) : Frame z (releaseVersions s ctx mb) ↔ Frame z s := by
  unfold releaseVersions
  repeat' first
    | exact Iff.rfl
    | exact Frame.refl _
    | (simp (maxDischargeDepth := 9); done)
    | split
    | (refine (frame_foldl (fun t x => ?_) _ _ _).trans ?_ <;> try dsimp only)
    | (refine (frame_foldl (fun t x => ?_) _ _ _).2 ?_ <;> try dsimp only)
    | (refine (frame_setRun ?_).2 ?_; (intro _; rfl))
    | (simp; split)

@[simp] theorem dropMicro_frame (z s : State) (r : Run) (mb : Nat) : Frame z (dropMicro s r mb) ↔ Frame z s := by
  unfold dropMicro
  repeat' first
    | exact Iff.rfl
    | exact Frame.refl _
    | (simp (maxDischargeDepth := 9); done)
    | split
    | (refine (frame_foldl (fun t x => ?_) _ _ _).trans ?_ <;> try dsimp only)
    | (refine (frame_foldl (fun t x => ?_) _ _ _).2 ?_ <;> try dsimp only)
    | (refine (frame_setRun ?_).2 ?_; (intro _; rfl))
    | (simp; split)

@[simp] theorem moveTile_frame (z s : State) (img : Image) (src : Obj) (dst : Nat) (t : Nat) (u : Nat) : Frame z (moveTile s img src dst t u) ↔ Frame z s := by
  unfold moveTile
  repeat' first
    | exact Iff.rfl
    | exact Frame.refl _
    | (simp (maxDischargeDepth := 9); done)
    | split
    | (refine (frame_foldl (fun t x => ?_) _ _ _).trans ?_ <;> try dsimp only)
    | (refine (frame_foldl (fun t x => ?_) _ _ _).2 ?_ <;> try dsimp only)
    | (refine (frame_setRun ?_).2 ?_; (intro _; rfl))
    | (simp; split)

@[simp] theorem moveDo_frame (i : InstId) (r : Run) (d : Desc) (z s : State) : Frame z (moveDo i r d s) ↔ Frame z s := by
  unfold moveDo
  repeat' first
    | exact Iff.rfl
    | exact Frame.refl _
    | (simp (maxDischargeDepth := 9); done)
    | split
    | (refine (frame_foldl (fun t x => ?_) _ _ _).trans ?_ <;> try dsimp only)
    | (refine (frame_foldl (fun t x => ?_) _ _ _).2 ?_ <;> try dsimp only)
    | (refine (frame_setRun ?_).2 ?_; (intro _; rfl))
    | (simp; split)

@[simp] theorem narrowTile_frame (z s : State) (ctx n t : Nat) : Frame z (narrowTile s ctx n t) ↔ Frame z s := by
  unfold narrowTile
  repeat' first
    | exact Iff.rfl
    | exact Frame.refl _
    | (simp (maxDischargeDepth := 9); done)
    | split
    | (refine (frame_foldl (fun t x => ?_) _ _ _).trans ?_ <;> try dsimp only)
    | (refine (frame_foldl (fun t x => ?_) _ _ _).2 ?_ <;> try dsimp only)
    | (refine (frame_setRun ?_).2 ?_; (intro _; rfl))
    | (simp; split)

@[simp] theorem narrowIteration_frame {z s : State} {r n mb} : Frame z (narrowIteration s r n mb) ↔ Frame z s := by
  unfold narrowIteration
  refine (frame_foldl (fun t x => ?_) _ _ _)
  split <;> simp

@[simp] theorem moved_frame (z s : State) (kind : MoveKind) (n b : Nat) : Frame z (moved s kind n b) ↔ Frame z s := by
  unfold moved
  simp (maxDischargeDepth := 9)

@[simp] theorem evictObject_frame (z s : State) (ctx : Nat) (o : Obj) : Frame z (evictObject s ctx o) ↔ Frame z s := by
  unfold evictObject
  simp (maxDischargeDepth := 9)

@[simp] theorem setStream_frame (z s : State) (st : Nat) (f : Stream → Stream) : Frame z (setStream s st f) ↔ Frame z s := by
  unfold setStream
  simp (maxDischargeDepth := 9)

@[simp] theorem blankTile_frame (z s : State) (img : Image) (n t : Nat) : Frame z (blankTile s img n t) ↔ Frame z s := by
  unfold blankTile
  repeat' first
    | exact Iff.rfl
    | exact Frame.refl _
    | (simp (maxDischargeDepth := 9); done)
    | split
    | (refine (frame_foldl (fun t x => ?_) _ _ _).trans ?_ <;> try dsimp only)
    | (refine (frame_foldl (fun t x => ?_) _ _ _).2 ?_ <;> try dsimp only)
    | (refine (frame_setRun ?_).2 ?_; (intro _; rfl))
    | (simp; split)

@[simp] theorem takeSlot_frame (z s : State) (r : Run) (y' : InstId) (d : Desc) (c : StreamCfg) (i : Nat) (y : Staged) : Frame z (takeSlot s r y' d c i y) ↔ Frame z s := by
  unfold takeSlot
  repeat' first
    | exact Iff.rfl
    | exact Frame.refl _
    | (simp (maxDischargeDepth := 9); done)
    | split
    | (refine (frame_foldl (fun t x => ?_) _ _ _).trans ?_ <;> try dsimp only)
    | (refine (frame_foldl (fun t x => ?_) _ _ _).2 ?_ <;> try dsimp only)
    | (refine (frame_setRun ?_).2 ?_; (intro _; rfl))
    | (simp; split)

@[simp] theorem takeDo_frame (z s : State) (i : InstId) (r : Run) (d : Desc) : Frame z (takeDo i r d s) ↔ Frame z s := by
  unfold takeDo
  repeat' first
    | exact Iff.rfl
    | exact Frame.refl _
    | (simp (maxDischargeDepth := 9); done)
    | split
    | (refine (frame_foldl (fun t x => ?_) _ _ _).trans ?_ <;> try dsimp only)
    | (refine (frame_foldl (fun t x => ?_) _ _ _).2 ?_ <;> try dsimp only)
    | (refine (frame_setRun ?_).2 ?_; (intro _; rfl))
    | (simp; split)

@[simp] theorem freeTake_frame (z s : State) (st k : Nat) : Frame z (freeTake s st k) ↔ Frame z s := by
  unfold freeTake
  simp (maxDischargeDepth := 9)

@[simp] theorem dropTiles_frame (z s : State) (ctx : Nat) (t : Touch) : Frame z (dropTiles s ctx t) ↔ Frame z s := by
  unfold dropTiles
  simp (maxDischargeDepth := 9)

@[simp] theorem replayInst_frame {z s : State} {n i r d} : Frame z (replayInst n i r d s) ↔ Frame z s := by
  refine Frame.iff ?_
  induction n generalizing i r d s with
  | zero => simp [replayInst]
  | succ n ih =>
    unfold replayInst
    split
    all_goals first
      | (simp; done)
      | (cases h : reduceDo i r d s; · simp
         · simpa using reduceDo_frame h)
      | (cases h : gatherDo i r d s; · simp
         · simpa using gatherDo_frame h)
      | (split <;> simp <;> done)
      | skip
    dsimp only
    refine (frame_foldl (fun t x => ?_) _ _ _).2 ((frame_foldl (fun t x => ?_) _ _ _).2 (Frame.refl _))
    · exact Frame.trans (by simp) (ih (s := _))
    · split
      · exact Frame.refl _
      · simp

@[simp] theorem recomputeDo_frame {z s : State} {i r d} : Frame z (recomputeDo i r d s) ↔ Frame z s := by simp [recomputeDo]

theorem makeRoom_frame {n need : Nat} {s t : State} (h : makeRoom n s need = some t) : Frame s t := by
  induction n generalizing s with
  | zero => simp only [makeRoom] at h; split at h <;> simp_all
  | succ n ih =>
    simp only [makeRoom] at h
    split at h
    · simp_all
    · split at h
      · simp_all
      · exact (by simp : Frame s _).trans (ih h)

theorem room_frame {need : Nat} {s t : State} (h : room s need = some t) : Frame s t := makeRoom_frame h

@[simp] theorem keepImage_frame (z s : State) (img : Image) : Frame z (keepImage s img) ↔ Frame z s := by
  unfold keepImage
  simp (maxDischargeDepth := 9)

theorem planRoom_frame {s : State} {img : Image} {peak x} (h : planRoom s img peak = some x) : Frame s x.1 := by
  unfold planRoom at h
  dsimp only at h
  split at h
  · cases h
  · rename_i t ht
    cases h
    refine (frame_foldl (fun t x => ?_) _ _ _).2 (Frame.refl _)
    split <;> simp

@[simp] theorem codedFor_frame (z s : State) (gone : List (Nat × Nat × Nat)) (step : Nat) : Frame z (codedFor s gone step) ↔ Frame z s := by
  unfold codedFor
  repeat' first
    | exact Iff.rfl
    | exact Frame.refl _
    | (simp (maxDischargeDepth := 9); done)
    | split
    | (refine (frame_foldl (fun t x => ?_) _ _ _).trans ?_ <;> try dsimp only)
    | (refine (frame_foldl (fun t x => ?_) _ _ _).2 ?_ <;> try dsimp only)
    | (refine (frame_setRun ?_).2 ?_; (intro _; rfl))
    | (simp; split)

theorem settleRoom_frame {b fuel peak t gone x pk} (h : settleRoom b fuel peak = some (t, gone, x, pk)) : Frame b.s t := by
  induction fuel generalizing peak with
  | zero => simp [settleRoom] at h
  | succ n ih =>
    unfold settleRoom at h
    split at h
    · cases h
    · rename_i hp
      dsimp only at h
      split at h
      · cases h
        simpa using planRoom_frame hp
      · exact ih h

theorem seek_frame {s t : State} {prior img step takes b peak rests t0}
    (h : seek s prior img step takes = .found b t peak rests t0) : Frame s t := by
  unfold seek at h
  dsimp only at h
  split at h
  · cases h
  · split at h
    · cases h
    · split at h
      · cases h
      · rename_i hp
        have hf := settleRoom_frame hp
        split at h
        · cases h
        · split at h
          · cases h
          · cases h
            exact hf

@[simp] theorem cacheSchedule_frame (z s : State) (img : Image) : Frame z (cacheSchedule s img) ↔ Frame z s := by
  unfold cacheSchedule
  simp (maxDischargeDepth := 9)

@[simp] theorem bookTakes_frame (z s : State) (ts : List (Nat × Nat × Nat)) : Frame z (bookTakes s ts) ↔ Frame z s := by
  unfold bookTakes
  simp (maxDischargeDepth := 9)

@[simp] theorem useObjects_frame (z s : State) (img : Image) (n : Nat) : Frame z (useObjects s img n) ↔ Frame z s := by
  unfold useObjects
  simp (maxDischargeDepth := 9)

@[simp] theorem enqueue_frame (z s : State) (a : Admitted) : Frame z (enqueue s a) ↔ Frame z s := by
  unfold enqueue
  simp (maxDischargeDepth := 9)

@[simp] theorem refuseSubmit_frame (z s : State) (m : Nat) (status detail : Nat) (job step : Nat) : Frame z (refuseSubmit s m status detail job step) ↔ Frame z s := by
  unfold refuseSubmit
  simp (maxDischargeDepth := 9)

@[simp] theorem submitSchedule_frame {z s : State} {m w q img} : Frame z (submitSchedule s m w q img) ↔ Frame z s := by
  refine Frame.iff ?_
  unfold submitSchedule
  dsimp only
  split
  · simp
  · rename_i h
    have := seek_frame h
    simp [this]
    try (repeat' split) <;> simp_all

@[simp] theorem dropImage_frame (z s : State) (q : Submission) : Frame z (dropImage s q) ↔ Frame z s := by
  unfold dropImage
  repeat' first
    | exact Iff.rfl
    | exact Frame.refl _
    | (simp (maxDischargeDepth := 9); done)
    | split
    | (refine (frame_foldl (fun t x => ?_) _ _ _).trans ?_ <;> try dsimp only)
    | (refine (frame_foldl (fun t x => ?_) _ _ _).2 ?_ <;> try dsimp only)
    | (refine (frame_setRun ?_).2 ?_; (intro _; rfl))
    | (simp; split)

@[simp] theorem submitDo_frame {z s : State} {m w} : Frame z (submitDo s m w) ↔ Frame z s := by
  unfold submitDo
  dsimp only
  repeat' split
  all_goals simp

@[simp] theorem releaseTakes_frame (z s : State) (a : Admitted) : Frame z (releaseTakes s a) ↔ Frame z s := by
  unfold releaseTakes
  simp (maxDischargeDepth := 9)

@[simp] theorem removeQueued_frame (z s : State) (a : Admitted) : Frame z (removeQueued s a) ↔ Frame z s := by
  unfold removeQueued
  simp (maxDischargeDepth := 9)

@[simp] theorem setQueued_frame (z s : State) (a : Admitted) (f : Admitted → Admitted) : Frame z (setQueued s a f) ↔ Frame z s := by
  unfold setQueued
  simp (maxDischargeDepth := 9)

@[simp] theorem readmitOne_frame {z s : State} {a before} : Frame z (readmitOne s a before) ↔ Frame z s := by
  refine Frame.iff ?_
  unfold readmitOne
  dsimp only
  split
  · simp
  · rename_i h
    have : Frame s _ := Frame.trans (by simp) (seek_frame h)
    simp [this]

@[simp] theorem setGrove_frame (z s : State) (g : Nat) (f : Grove → Grove) : Frame z (setGrove s g f) ↔ Frame z s := by
  unfold setGrove
  simp (maxDischargeDepth := 9)

@[simp] theorem mapGrove_frame (z s : State) (g : Nat) (f : GroveMap → GroveMap) : Frame z (mapGrove s g f) ↔ Frame z s := by
  unfold mapGrove
  simp (maxDischargeDepth := 9)

@[simp] theorem readySpare_frame (z s : State) (die : Nat) : Frame z (readySpare s die).1 ↔ Frame z s := by
  unfold readySpare
  repeat' first
    | exact Iff.rfl
    | exact Frame.refl _
    | (simp (maxDischargeDepth := 9); done)
    | split
    | (refine (frame_foldl (fun t x => ?_) _ _ _).trans ?_ <;> try dsimp only)
    | (refine (frame_foldl (fun t x => ?_) _ _ _).2 ?_ <;> try dsimp only)
    | (refine (frame_setRun ?_).2 ?_; (intro _; rfl))
    | (simp; split)

@[simp] theorem retireGrove_frame (z s : State) (g : Nat) : Frame z (retireGrove s g) ↔ Frame z s := by
  unfold retireGrove
  simp (maxDischargeDepth := 9)

@[simp] theorem takeOver_frame (z s : State) (g spare step : Nat) : Frame z (takeOver s g spare step) ↔ Frame z s := by
  unfold takeOver
  simp (maxDischargeDepth := 9)

@[simp] theorem settleGrove_frame (z s : State) (step g : Nat) : Frame z (settleGrove step s g) ↔ Frame z s := by
  unfold settleGrove
  split
  · simp
  · split
    · rfl
    · split
      · simp
      · split <;> simp

@[simp] theorem retireIdle_frame (z s : State) (x : Nat × Nat) : Frame z (retireIdle s x) ↔ Frame z s := by
  unfold retireIdle
  simp (maxDischargeDepth := 9)

@[simp] theorem answerRetire_frame (z s : State) (x : Nat × Nat) : Frame z (answerRetire s x) ↔ Frame z s := by
  unfold answerRetire
  simp (maxDischargeDepth := 9)

@[simp] theorem saveChecker_frame (z s : State) (g : Nat) : Frame z (saveChecker s g) ↔ Frame z s := by
  unfold saveChecker
  repeat' first
    | exact Iff.rfl
    | exact Frame.refl _
    | (simp (maxDischargeDepth := 9); done)
    | split
    | (refine (frame_foldl (fun t x => ?_) _ _ _).trans ?_ <;> try dsimp only)
    | (refine (frame_foldl (fun t x => ?_) _ _ _).2 ?_ <;> try dsimp only)
    | (refine (frame_setRun ?_).2 ?_; (intro _; rfl))
    | (simp; split)

@[simp] theorem groveBoundary_frame (z s : State) (step : Nat) : Frame z (groveBoundary s step) ↔ Frame z s := by
  unfold groveBoundary
  simp (maxDischargeDepth := 9)

@[simp] theorem needSpare_frame (z s : State) (g : Nat) : Frame z (needSpare s g) ↔ Frame z s := by
  unfold needSpare
  repeat' first
    | exact Iff.rfl
    | exact Frame.refl _
    | (simp (maxDischargeDepth := 9); done)
    | split
    | (refine (frame_foldl (fun t x => ?_) _ _ _).trans ?_ <;> try dsimp only)
    | (refine (frame_foldl (fun t x => ?_) _ _ _).2 ?_ <;> try dsimp only)
    | (refine (frame_setRun ?_).2 ?_; (intro _; rfl))
    | (simp; split)

@[simp] theorem markSuspect_frame (z s : State) (g : Nat) : Frame z (markSuspect s g) ↔ Frame z s := by
  unfold markSuspect
  repeat' first
    | exact Iff.rfl
    | exact Frame.refl _
    | (simp (maxDischargeDepth := 9); done)
    | split
    | (refine (frame_foldl (fun t x => ?_) _ _ _).trans ?_ <;> try dsimp only)
    | (refine (frame_foldl (fun t x => ?_) _ _ _).2 ?_ <;> try dsimp only)
    | (refine (frame_setRun ?_).2 ?_; (intro _; rfl))
    | (simp; split)

@[simp] theorem countMismatch_frame (z s : State) (g : Nat) : Frame z (countMismatch s g) ↔ Frame z s := by
  unfold countMismatch
  simp (maxDischargeDepth := 9)

@[simp] theorem setPower_frame (z s : State) (i : Nat) (p : PowerState) : Frame z (setPower s i p) ↔ Frame z s := by
  unfold setPower
  simp (maxDischargeDepth := 9)

@[simp] theorem loseSram_frame (z s : State) (i : Nat) : Frame z (loseSram s i) ↔ Frame z s := by
  unfold loseSram
  repeat' first
    | exact Iff.rfl
    | exact Frame.refl _
    | (simp (maxDischargeDepth := 9); done)
    | split
    | (refine (frame_foldl (fun t x => ?_) _ _ _).trans ?_ <;> try dsimp only)
    | (refine (frame_foldl (fun t x => ?_) _ _ _).2 ?_ <;> try dsimp only)
    | (refine (frame_setRun ?_).2 ?_; (intro _; rfl))
    | (simp; split)

@[simp] theorem idleIslands_frame (z s : State) : Frame z (idleIslands s) ↔ Frame z s := by
  unfold idleIslands
  simp (maxDischargeDepth := 9)

@[simp] theorem countPosition_frame (z s : State) (stack pch frame pos : Nat) : Frame z (countPosition s stack pch frame pos) ↔ Frame z s := by
  unfold countPosition
  repeat' first
    | exact Iff.rfl
    | exact Frame.refl _
    | (simp (maxDischargeDepth := 9); done)
    | split
    | (refine (frame_foldl (fun t x => ?_) _ _ _).trans ?_ <;> try dsimp only)
    | (refine (frame_foldl (fun t x => ?_) _ _ _).2 ?_ <;> try dsimp only)
    | (refine (frame_setRun ?_).2 ?_; (intro _; rfl))
    | (simp; split)

@[simp] theorem correctBurst_frame (z s : State) (e : BurstError) (positions : List Nat) : Frame z (correctBurst s e positions) ↔ Frame z s := by
  unfold correctBurst
  repeat' first
    | exact Iff.rfl
    | exact Frame.refl _
    | (simp (maxDischargeDepth := 9); done)
    | split
    | (refine (frame_foldl (fun t x => ?_) _ _ _).trans ?_ <;> try dsimp only)
    | (refine (frame_foldl (fun t x => ?_) _ _ _).2 ?_ <;> try dsimp only)
    | (refine (frame_setRun ?_).2 ?_; (intro _; rfl))
    | (simp; split)

@[simp] theorem closeSequence_frame (z s : State) (ctx table entry : Nat) : Frame z (closeSequence s ctx table entry) ↔ Frame z s := by
  unfold closeSequence
  repeat' first
    | exact Iff.rfl
    | exact Frame.refl _
    | (simp (maxDischargeDepth := 9); done)
    | split
    | (refine (frame_foldl (fun t x => ?_) _ _ _).trans ?_ <;> try dsimp only)
    | (refine (frame_foldl (fun t x => ?_) _ _ _).2 ?_ <;> try dsimp only)
    | (refine (frame_setRun ?_).2 ?_; (intro _; rfl))
    | (simp; split)

@[simp] theorem pinPage_frame (z s : State) (ctx : Nat) (k : KvName) (pin : Bool) : Frame z (pinPage s ctx k pin) ↔ Frame z s := by
  unfold pinPage
  repeat' first
    | exact Iff.rfl
    | exact Frame.refl _
    | (simp (maxDischargeDepth := 9); done)
    | split
    | (refine (frame_foldl (fun t x => ?_) _ _ _).trans ?_ <;> try dsimp only)
    | (refine (frame_foldl (fun t x => ?_) _ _ _).2 ?_ <;> try dsimp only)
    | (refine (frame_setRun ?_).2 ?_; (intro _; rfl))
    | (simp; split)

@[simp] theorem kvAct_frame (z s : State) (op ctx : Nat) (k : KvName) : Frame z (kvAct s op ctx k) ↔ Frame z s := by
  unfold kvAct
  simp (maxDischargeDepth := 9)

@[simp] theorem kvBoundary_frame (z s : State) : Frame z (kvBoundary s) ↔ Frame z s := by
  unfold kvBoundary
  repeat' first
    | exact Iff.rfl
    | exact Frame.refl _
    | (simp (maxDischargeDepth := 9); done)
    | split
    | (refine (frame_foldl (fun t x => ?_) _ _ _).trans ?_ <;> try dsimp only)
    | (refine (frame_foldl (fun t x => ?_) _ _ _).2 ?_ <;> try dsimp only)
    | (refine (frame_setRun ?_).2 ?_; (intro _; rfl))
    | (simp; split)

@[simp] theorem kvCommand_frame {z s : State} {m op p} : Frame z (kvCommand s m op p) ↔ Frame z s := by
  unfold kvCommand
  refine command_frame ?_
  intro w x
  repeat' first
    | exact Iff.rfl
    | exact Frame.refl _
    | (simp (maxDischargeDepth := 9); done)
    | split
    | (refine (frame_foldl (fun t x => ?_) _ _ _).trans ?_ <;> try dsimp only)
    | (refine (frame_foldl (fun t x => ?_) _ _ _).2 ?_ <;> try dsimp only)
    | (refine (frame_setRun ?_).2 ?_; (intro _; rfl))
    | (simp; split)

@[simp] theorem closeContext_frame (z s : State) (ctx : Nat) : Frame z (closeContext s ctx) ↔ Frame z s := by
  unfold closeContext
  simp (maxDischargeDepth := 9)

@[simp] theorem rejected_frame (z s : State) (step : Nat) (m : Mem) (when_ : Nat) : Frame z (rejected s step m when_) ↔ Frame z s := by
  unfold rejected
  simp (maxDischargeDepth := 9)

@[simp] theorem failTrial_frame (z s : State) (k step : Nat) : Frame z (failTrial s k step) ↔ Frame z s := by
  unfold failTrial
  simp (maxDischargeDepth := 9)

@[simp] theorem promote_frame {z s : State} : Frame z (promote s) ↔ Frame z s := by
  have h : ∀ b : FwSlot, (if b.state = .active then { b with state := .valid } else b : FwSlot).image = b.image := by
    intro b; split <;> rfl
  unfold promote
  dsimp only
  split
  · rfl
  · simp [h]

@[simp] theorem setPort_frame (z s : State) (p : Nat) (f : Port → Port) : Frame z (setPort s p f) ↔ Frame z s := by
  unfold setPort
  simp (maxDischargeDepth := 9)

@[simp] theorem notice_frame (z s : State) (device kind value : Nat) : Frame z (notice s device kind value) ↔ Frame z s := by
  unfold notice
  simp (maxDischargeDepth := 9)

@[simp] theorem portDown_frame (z s : State) (p cause : Nat) : Frame z (portDown s p cause) ↔ Frame z s := by
  unfold portDown
  simp (maxDischargeDepth := 9)

@[simp] theorem transmit_frame (z s : State) (p : Nat) (f : Flit) : Frame z (transmit s p f) ↔ Frame z s := by
  unfold transmit
  repeat' first
    | exact Iff.rfl
    | exact Frame.refl _
    | (simp (maxDischargeDepth := 9); done)
    | split
    | (refine (frame_foldl (fun t x => ?_) _ _ _).trans ?_ <;> try dsimp only)
    | (refine (frame_foldl (fun t x => ?_) _ _ _).2 ?_ <;> try dsimp only)
    | (refine (frame_setRun ?_).2 ?_; (intro _; rfl))
    | (simp; split)

@[simp] theorem sendFlit_frame (z s : State) (p : Nat) (f : Flit) : Frame z (sendFlit s p f) ↔ Frame z s := by
  unfold sendFlit
  simp (maxDischargeDepth := 9)

@[simp] theorem requestRetry_frame (z s : State) (p : Nat) : Frame z (requestRetry s p) ↔ Frame z s := by
  unfold requestRetry
  repeat' first
    | exact Iff.rfl
    | exact Frame.refl _
    | (simp (maxDischargeDepth := 9); done)
    | split
    | (refine (frame_foldl (fun t x => ?_) _ _ _).trans ?_ <;> try dsimp only)
    | (refine (frame_foldl (fun t x => ?_) _ _ _).2 ?_ <;> try dsimp only)
    | (refine (frame_setRun ?_).2 ?_; (intro _; rfl))
    | (simp; split)

@[simp] theorem releaseStandby_frame (z s : State) : Frame z (releaseStandby s) ↔ Frame z s := by
  unfold releaseStandby
  repeat' first
    | exact Iff.rfl
    | exact Frame.refl _
    | (simp (maxDischargeDepth := 9); done)
    | split
    | (refine (frame_foldl (fun t x => ?_) _ _ _).trans ?_ <;> try dsimp only)
    | (refine (frame_foldl (fun t x => ?_) _ _ _).2 ?_ <;> try dsimp only)
    | (refine (frame_setRun ?_).2 ?_; (intro _; rfl))
    | (simp; split)

@[simp] theorem retirePort_frame {z s : State} {p} : Frame z (retirePort s p) ↔ Frame z s := by
  simp [retirePort, setPort]

@[simp] theorem leaveJob_frame (z s : State) (job : Nat) : Frame z (leaveJob s job) ↔ Frame z s := by
  unfold leaveJob
  simp (maxDischargeDepth := 9)

@[simp] theorem publishPlan_frame (z s : State) (img : Image) : Frame z (publishPlan s img) ↔ Frame z s := by
  unfold publishPlan
  repeat' first
    | exact Iff.rfl
    | exact Frame.refl _
    | (simp (maxDischargeDepth := 9); done)
    | split
    | (refine (frame_foldl (fun t x => ?_) _ _ _).trans ?_ <;> try dsimp only)
    | (refine (frame_foldl (fun t x => ?_) _ _ _).2 ?_ <;> try dsimp only)
    | (refine (frame_setRun ?_).2 ?_; (intro _; rfl))
    | (simp; split)

@[simp] theorem extendPromises_frame {z s : State} {ns} : Frame z (extendPromises s ns) ↔ Frame z s := by
  unfold extendPromises
  dsimp only
  split
  · rfl
  · rename_i r hr
    have key : ∀ u : State, Frame s u → (u.sched.run.map fun r => { r with peerWait := r.peerWait + ns, adm := { r.adm with extension := r.adm.extension + ns } }).map (fun r => r.executed) = u.sched.run.map (fun r => r.executed) := by
      intro u _; cases u.sched.run <;> rfl
    refine Iff.trans (frame_mk rfl rfl rfl rfl rfl rfl rfl rfl rfl rfl rfl rfl rfl rfl ?_) ?_
    · simp [Option.map_map, Function.comp_def]
    · simp only [setRecord_frame]
      refine (frame_foldl (fun t x => ?_) _ _ _)
      split <;> simp

@[simp] theorem announceNext_frame (z s : State) (job : Nat) : Frame z (announceNext s job) ↔ Frame z s := by
  unfold announceNext
  repeat' first
    | exact Iff.rfl
    | exact Frame.refl _
    | (simp (maxDischargeDepth := 9); done)
    | split
    | (refine (frame_foldl (fun t x => ?_) _ _ _).trans ?_ <;> try dsimp only)
    | (refine (frame_foldl (fun t x => ?_) _ _ _).2 ?_ <;> try dsimp only)
    | (refine (frame_setRun ?_).2 ?_; (intro _; rfl))
    | (simp; split)

@[simp] theorem takeBack_frame (z s : State) (job : Nat) (x : Returned) : Frame z (takeBack s job x) ↔ Frame z s := by
  unfold takeBack
  split
  · rfl
  · dsimp only
    rw [setJob_frame]
    refine frame_foldl (fun t x => ?_) _ _ _
    split <;> simp

@[simp] theorem freeLent_frame (z s : State) (device : Nat) : Frame z (freeLent s device) ↔ Frame z s := by
  unfold freeLent
  simp (maxDischargeDepth := 9)

@[simp] theorem declareFailed_frame (z s : State) (job device : Nat) : Frame z (declareFailed s job device) ↔ Frame z s := by
  unfold declareFailed
  repeat' first
    | exact Iff.rfl
    | exact Frame.refl _
    | (simp (maxDischargeDepth := 9); done)
    | split
    | (refine (frame_foldl (fun t x => ?_) _ _ _).trans ?_ <;> try dsimp only)
    | (refine (frame_foldl (fun t x => ?_) _ _ _).2 ?_ <;> try dsimp only)
    | (refine (frame_setRun ?_).2 ?_; (intro _; rfl))
    | (simp; split)

@[simp] theorem dropAfter_frame {z s : State} {job device} : Frame z (dropAfter s job device) ↔ Frame z s := by
  have key : ∀ l : List Nat, Frame z (l.foldl (fun s mb => match s.sched.run with | some r => dropMicro s r mb | none => s) s) ↔
      Frame z s := fun l => by
    refine (frame_foldl (fun t x => ?_) _ _ _)
    split <;> simp
  unfold dropAfter
  split
  · rfl
  · dsimp only
    rw [frame_ite]
    generalize (!(_ && _)) = c
    cases c
    · exact key _
    · exact Iff.rfl

@[simp] theorem groupLost_frame {z s : State} {job g} : Frame z (groupLost s job g) ↔ Frame z s := by
  have hrun : ∀ r : Run, (if r.adm.job = job then { r with mismatchEnd := true } else r : Run).executed = r.executed := by
    intro r; split <;> rfl
  have key : ∀ (l : List Admitted) (u : State), Frame z (l.foldl (fun s a =>
      deviceEvent (setRecord (removeQueued s a) job a.step fun x => { x with state := 4, status := St.groupLost }) 0) u) ↔
      Frame z u := fun l u => by simp
  unfold groupLost
  split
  · rfl
  · dsimp only
    simp only [frame_ite, key, setJob_frame, ite_self]
    repeat' split
    all_goals simp only [setRecord_frame, frame_setRun hrun, voidSteps_frame, tally_frame]

@[simp] theorem adopt_frame (z s : State) (job : Nat) (device : Nat) (x : Secured) (tiles : List (Nat × List Nat)) (first : Bool) : Frame z (adopt s job device x tiles first) ↔ Frame z s := by
  unfold adopt
  repeat' first
    | exact Iff.rfl
    | exact Frame.refl _
    | (simp (maxDischargeDepth := 9); done)
    | split
    | (refine (frame_foldl (fun t x => ?_) _ _ _).trans ?_ <;> try dsimp only)
    | (refine (frame_foldl (fun t x => ?_) _ _ _).2 ?_ <;> try dsimp only)
    | (refine (frame_setRun ?_).2 ?_; (intro _; rfl))
    | (simp; split)

@[simp] theorem rebuild_frame (z s : State) (job : Nat) (device : Nat) (b : Rebuild) : Frame z (rebuild s job device b) ↔ Frame z s := by
  unfold rebuild
  repeat' first
    | exact Iff.rfl
    | exact Frame.refl _
    | (simp (maxDischargeDepth := 9); done)
    | split
    | (refine (frame_foldl (fun t x => ?_) _ _ _).trans ?_ <;> try dsimp only)
    | (refine (frame_foldl (fun t x => ?_) _ _ _).2 ?_ <;> try dsimp only)
    | (refine (frame_setRun ?_).2 ?_; (intro _; rfl))
    | (simp; split)

@[simp] theorem configBoundary_frame (z s : State) : Frame z (configBoundary s) ↔ Frame z s := by
  unfold configBoundary
  simp (maxDischargeDepth := 9)

@[simp] theorem setStage_frame (z s : State) (m i : Nat) (x : Option StageSlot) : Frame z (setStage s m i x) ↔ Frame z s := by
  unfold setStage
  simp (maxDischargeDepth := 9)

@[simp] theorem commitRefused_frame (z s : State) (m i cause : Nat) : Frame z (commitRefused s m i cause) ↔ Frame z s := by
  unfold commitRefused
  simp (maxDischargeDepth := 9)

@[simp] theorem beginObjects_frame (z s : State) (img : Image) : Frame z (beginObjects s img) ↔ Frame z s := by
  unfold beginObjects
  simp (maxDischargeDepth := 9)

@[simp] theorem completeEffect_frame (z s : State) (r : Run) (i : InstId) (d : Desc) : Frame z (completeEffect s r i d) ↔ Frame z s := by
  unfold completeEffect
  split
  · simp
  · dsimp only
    split
    · rw [clearGradients_frame]
      exact (frame_foldl (fun t x => by simp) _ _ _).trans (by simp)
    · exact (frame_foldl (fun t x => by simp) _ _ _).trans (by simp)
  · simp
  · rfl

@[simp] theorem endObjects_frame (z s : State) (r : Run) : Frame z (endObjects s r) ↔ Frame z s := by
  unfold endObjects
  simp (maxDischargeDepth := 9)

@[simp] theorem undoUpdate_frame (z s : State) (r : Run) : Frame z (undoUpdate s r) ↔ Frame z s := by
  unfold undoUpdate
  simp (maxDischargeDepth := 9)

@[simp] theorem advanceScales_frame (z s : State) (r : Run) : Frame z (advanceScales s r) ↔ Frame z s := by
  unfold advanceScales
  simp (maxDischargeDepth := 9)

@[simp] theorem closeRecord_frame (z s : State) (r : Run) : Frame z (closeRecord s r) ↔ Frame z s := by
  unfold closeRecord
  simp (maxDischargeDepth := 9)

@[simp] theorem trimRecords_frame (z s : State) (job : Nat) : Frame z (trimRecords s job) ↔ Frame z s := by
  unfold trimRecords
  simp (maxDischargeDepth := 9)

@[simp] theorem retireOthers_frame (z s : State) : Frame z (retireOthers s) ↔ Frame z s := by
  unfold retireOthers
  simp (maxDischargeDepth := 9)

@[simp] theorem boundary_frame (z s : State) (step : Nat) : Frame z (boundary s step) ↔ Frame z s := by
  unfold boundary
  simp (maxDischargeDepth := 9)

@[simp] theorem endTakes_frame (z s : State) (a : Admitted) : Frame z (endTakes s a) ↔ Frame z s := by
  unfold endTakes
  simp (maxDischargeDepth := 9)

@[simp] theorem endShadows_frame (z s : State) (r : Run) : Frame z (endShadows s r) ↔ Frame z s := by
  unfold endShadows
  repeat' first
    | exact Iff.rfl
    | exact Frame.refl _
    | (simp (maxDischargeDepth := 9); done)
    | split
    | (refine (frame_foldl (fun t x => ?_) _ _ _).trans ?_ <;> try dsimp only)
    | (refine (frame_foldl (fun t x => ?_) _ _ _).2 ?_ <;> try dsimp only)
    | (refine (frame_setRun ?_).2 ?_; (intro _; rfl))
    | (simp; split)

@[simp] theorem hostDiscard_frame (z s : State) (kind number offset : Nat) : Frame z (hostDiscard s kind number offset) ↔ Frame z s := by
  unfold hostDiscard
  simp (maxDischargeDepth := 9)

@[simp] theorem writePi_frame (z s : State) (st v : Nat) : Frame z (writePi s st v) ↔ Frame z s := by
  unfold writePi
  repeat' first
    | exact Iff.rfl
    | exact Frame.refl _
    | (simp (maxDischargeDepth := 9); done)
    | split
    | (refine (frame_foldl (fun t x => ?_) _ _ _).trans ?_ <;> try dsimp only)
    | (refine (frame_foldl (fun t x => ?_) _ _ _).2 ?_ <;> try dsimp only)
    | (refine (frame_setRun ?_).2 ?_; (intro _; rfl))
    | (simp; split)

@[simp] theorem patrolBurst_frame (z s : State) (stack : Nat) (e : BurstError) : Frame z (patrolBurst stack s e) ↔ Frame z s := by
  unfold patrolBurst
  repeat' first
    | exact Iff.rfl
    | exact Frame.refl _
    | (simp (maxDischargeDepth := 9); done)
    | split
    | (refine (frame_foldl (fun t x => ?_) _ _ _).trans ?_ <;> try dsimp only)
    | (refine (frame_foldl (fun t x => ?_) _ _ _).2 ?_ <;> try dsimp only)
    | (refine (frame_setRun ?_).2 ?_; (intro _; rfl))
    | (simp; split)

@[simp] theorem presenceRefused_frame (z s : State) (m : Nat) (w : Work) : Frame z (presenceRefused s m w) ↔ Frame z s := by
  unfold presenceRefused
  simp (maxDischargeDepth := 9)

@[simp] theorem countClassP_frame (z s : State) : Frame z (countClassP s) ↔ Frame z s := by
  unfold countClassP
  simp (maxDischargeDepth := 9)

@[simp] theorem unsupported_frame (z s : State) : Frame z (unsupported s) ↔ Frame z s := by
  unfold unsupported
  simp (maxDischargeDepth := 9)

@[simp] theorem ringMailbox_frame (z s : State) (m : Nat) : Frame z (ringMailbox s m) ↔ Frame z s := by
  unfold ringMailbox
  simp (maxDischargeDepth := 9)

@[simp] theorem writeReg_frame (z s : State) (o : Nat) (data : List Byte) : Frame z (writeReg s o data) ↔ Frame z s := by
  unfold writeReg
  simp (maxDischargeDepth := 9)

@[simp] theorem viewWrite_frame (z s : State) (ctx : Nat) (o : Obj) (i : Nat) (data : List Byte) : Frame z (viewWrite s ctx o i data) ↔ Frame z s := by
  unfold viewWrite
  simp (maxDischargeDepth := 9)

@[simp] theorem configDo_frame {z s : State} {q} : Frame z (configDo s q) ↔ Frame z s := by
  cases q <;> simp [configDo]

@[simp] theorem endHold_frame (z s : State) (x0 : HoldEnd) : Frame z (endHold s x0) ↔ Frame z s := by
  unfold endHold
  repeat' first
    | exact Iff.rfl
    | exact Frame.refl _
    | (simp (maxDischargeDepth := 9); done)
    | split
    | (refine (frame_foldl (fun t x => ?_) _ _ _).trans ?_ <;> try dsimp only)
    | (refine (frame_foldl (fun t x => ?_) _ _ _).2 ?_ <;> try dsimp only)
    | (refine (frame_setRun ?_).2 ?_; (intro _; rfl))
    | (simp; split)

@[simp] theorem answerOnly_frame (z s : State) (m : Nat) (q : ReqHeader) (opcode status detail : Nat) : Frame z (answerOnly s m q opcode status detail) ↔ Frame z s := by
  unfold answerOnly
  simp (maxDischargeDepth := 9)

@[simp] theorem replay_frame (z s : State) (m : Nat) (q : ReqHeader) (crc : Word) : Frame z (replay s m q crc) ↔ Frame z s := by
  unfold replay
  repeat' first
    | exact Iff.rfl
    | exact Frame.refl _
    | (simp (maxDischargeDepth := 9); done)
    | split
    | (refine (frame_foldl (fun t x => ?_) _ _ _).trans ?_ <;> try dsimp only)
    | (refine (frame_foldl (fun t x => ?_) _ _ _).2 ?_ <;> try dsimp only)
    | (refine (frame_setRun ?_).2 ?_; (intro _; rfl))
    | (simp; split)

@[simp] theorem beginWork_frame (z s : State) (m : Nat) (w : Work) : Frame z (beginWork s m w) ↔ Frame z s := by
  unfold beginWork
  simp (maxDischargeDepth := 9)

@[simp] theorem checkWork_frame (z s : State) (m : Nat) (w : Work) : Frame z (checkWork s m w) ↔ Frame z s := by
  unfold checkWork
  repeat' first
    | exact Iff.rfl
    | exact Frame.refl _
    | (simp (maxDischargeDepth := 9); done)
    | split
    | (refine (frame_foldl (fun t x => ?_) _ _ _).trans ?_ <;> try dsimp only)
    | (refine (frame_foldl (fun t x => ?_) _ _ _).2 ?_ <;> try dsimp only)
    | (refine (frame_setRun ?_).2 ?_; (intro _; rfl))
    | (simp; split)

@[simp] theorem takeRequest_frame {z s : State} {m} : Frame z (takeRequest s m) ↔ Frame z s := by
  unfold takeRequest
  dsimp only
  generalize headerFails _ = a
  cases a
  · dsimp only
    generalize classify _ _ = k
    cases k <;> simp
  · simp

theorem bringBack_frame {s c o t} (h : bringBack s c o = some t) : Frame s t := by
  unfold bringBack at h
  repeat' split at h
  all_goals first | (cases h; done) | (cases h; simp; done) | (simp only [Option.map_eq_some_iff] at h; obtain ⟨x, hx, rfl⟩ := h; exact Frame.trans (room_frame hx) (by simp)) | (rename_i hr; cases h; exact Frame.trans (room_frame hr) (by simp))

@[simp] theorem accessError_frame (z s : State) (cause address : Nat) : Frame z (accessError s cause address) ↔ Frame z s := by
  unfold accessError
  simp (maxDischargeDepth := 9)

@[simp] theorem withoutImage_frame (z s : State) (ctx job : Nat) : Frame z (withoutImage s ctx job) ↔ Frame z s := by
  unfold withoutImage
  simp (maxDischargeDepth := 9)

@[simp] theorem keepFetched_frame {z s : State} {m w b c} : Frame z (keepFetched s m w b c) ↔ Frame z s := by
  refine Frame.iff ?_
  unfold keepFetched
  dsimp only
  repeat' split
  all_goals first | (simp; done) | skip
  all_goals (rename_i h; have : Frame s _ := Frame.trans (by simp) (room_frame h); simp [this])

@[simp] theorem replaceSample_frame (z s : State) (st u position cause : Nat) : Frame z (replaceSample s st u position cause) ↔ Frame z s := by
  unfold replaceSample
  repeat' first
    | exact Iff.rfl
    | exact Frame.refl _
    | (simp (maxDischargeDepth := 9); done)
    | split
    | (refine (frame_foldl (fun t x => ?_) _ _ _).trans ?_ <;> try dsimp only)
    | (refine (frame_foldl (fun t x => ?_) _ _ _).2 ?_ <;> try dsimp only)
    | (refine (frame_setRun ?_).2 ?_; (intro _; rfl))
    | (simp; split)

@[simp] theorem rejectSample_frame (z s : State) (st u position reason : Nat) (tag : DWord) : Frame z (rejectSample s st u position reason tag) ↔ Frame z s := by
  unfold rejectSample
  repeat' first
    | exact Iff.rfl
    | exact Frame.refl _
    | (simp (maxDischargeDepth := 9); done)
    | split
    | (refine (frame_foldl (fun t x => ?_) _ _ _).trans ?_ <;> try dsimp only)
    | (refine (frame_foldl (fun t x => ?_) _ _ _).2 ?_ <;> try dsimp only)
    | (refine (frame_setRun ?_).2 ?_; (intro _; rfl))
    | (simp; split)

@[simp] theorem setPin_frame (z s : State) (pin : ResetPin) (v : Bool) : Frame z (setPin s pin v) ↔ Frame z s := by
  unfold setPin
  repeat' first
    | exact Iff.rfl
    | exact Frame.refl _
    | (simp (maxDischargeDepth := 9); done)
    | split
    | (refine (frame_foldl (fun t x => ?_) _ _ _).trans ?_ <;> try dsimp only)
    | (refine (frame_foldl (fun t x => ?_) _ _ _).2 ?_ <;> try dsimp only)
    | (refine (frame_setRun ?_).2 ?_; (intro _; rfl))
    | (simp; split)

@[simp] theorem retrained_frame (z s : State) (speed width : Nat) : Frame z (retrained s speed width) ↔ Frame z s := by
  unfold retrained
  simp (maxDischargeDepth := 9)

@[simp] theorem bootSlot_frame (z s : State) : Frame z (bootSlot s).1 ↔ Frame z s := by
  unfold bootSlot
  repeat' first
    | exact Iff.rfl
    | exact Frame.refl _
    | (simp (maxDischargeDepth := 9); done)
    | split
    | (refine (frame_foldl (fun t x => ?_) _ _ _).trans ?_ <;> try dsimp only)
    | (refine (frame_foldl (fun t x => ?_) _ _ _).2 ?_ <;> try dsimp only)
    | (refine (frame_setRun ?_).2 ?_; (intro _; rfl))
    | (simp; split)

@[simp] theorem loadFlash_frame {z s : State} (h : s.groves.length = s.flash.groves.length) :
    Frame z (loadFlash s) ↔ Frame z s := by
  refine Frame.iff ?_
  unfold loadFlash
  dsimp only
  split <;> (split <;> simp [loadGroves, h])

@[simp] theorem bootTrust_frame (z s : State) (env : BootEnv) : Frame z (bootTrust s env) ↔ Frame z s := by
  unfold bootTrust
  simp (maxDischargeDepth := 9)

@[simp] theorem readyDo_frame (z s : State) : Frame z (readyDo s) ↔ Frame z s := by
  unfold readyDo
  simp (maxDischargeDepth := 9)

@[simp] theorem answerEnter_frame {z s : State} : Frame z (answerEnter s) ↔ Frame z s := by
  unfold answerEnter
  refine (frame_foldl (fun t x => ?_) _ _ _)
  split <;> simp

@[simp] theorem askShutdown_frame (z s : State) (by_ : Option Nat) : Frame z (askShutdown s by_) ↔ Frame z s := by
  unfold askShutdown
  simp (maxDischargeDepth := 9)

@[simp] theorem askRetire_frame (z s : State) (m : Nat) (i : Nat) : Frame z (askRetire s m i) ↔ Frame z s := by
  unfold askRetire
  repeat' first
    | exact Iff.rfl
    | exact Frame.refl _
    | (simp (maxDischargeDepth := 9); done)
    | split
    | (refine (frame_foldl (fun t x => ?_) _ _ _).trans ?_ <;> try dsimp only)
    | (refine (frame_foldl (fun t x => ?_) _ _ _).2 ?_ <;> try dsimp only)
    | (refine (frame_setRun ?_).2 ?_; (intro _; rfl))
    | (simp; split)

@[simp] theorem applyEdit_frame (z s : State) (x0 : RepairEdit) : Frame z (applyEdit s x0) ↔ Frame z s := by
  unfold applyEdit
  repeat' first
    | exact Iff.rfl
    | exact Frame.refl _
    | (simp (maxDischargeDepth := 9); done)
    | split
    | (refine (frame_foldl (fun t x => ?_) _ _ _).trans ?_ <;> try dsimp only)
    | (refine (frame_foldl (fun t x => ?_) _ _ _).2 ?_ <;> try dsimp only)
    | (refine (frame_setRun ?_).2 ?_; (intro _; rfl))
    | (simp; split)

@[simp] theorem shutRefuse_frame {z s : State} : Frame z (shutRefuse s) ↔ Frame z s := by
  unfold shutRefuse
  refine (frame_foldl (fun t x => ?_) _ _ _)
  split <;> simp

@[simp] theorem leaveAll_frame (z s : State) : Frame z (leaveAll s) ↔ Frame z s := by
  unfold leaveAll
  simp (maxDischargeDepth := 9)

@[simp] theorem closeStreams_frame (z s : State) : Frame z (closeStreams s) ↔ Frame z s := by
  unfold closeStreams
  simp (maxDischargeDepth := 9)

@[simp] theorem saveGroves_frame (z s : State) : Frame z (saveGroves s) ↔ Frame z s := by
  unfold saveGroves
  simp (maxDischargeDepth := 9)

@[simp] theorem setSensor_frame (z s : State) (x : Sensor) (c : Nat) : Frame z (setSensor s x c) ↔ Frame z s := by
  unfold setSensor
  repeat' first
    | exact Iff.rfl
    | exact Frame.refl _
    | (simp (maxDischargeDepth := 9); done)
    | split
    | (refine (frame_foldl (fun t x => ?_) _ _ _).trans ?_ <;> try dsimp only)
    | (refine (frame_foldl (fun t x => ?_) _ _ _).2 ?_ <;> try dsimp only)
    | (refine (frame_setRun ?_).2 ?_; (intro _; rfl))
    | (simp; split)

@[simp] theorem spdmAnswer_frame (z s : State) (code : Nat) (body : List Byte) : Frame z (spdmAnswer s code body) ↔ Frame z s := by
  unfold spdmAnswer
  simp (maxDischargeDepth := 9)

@[simp] theorem spdmError_frame (z s : State) (code : Nat) : Frame z (spdmError s code) ↔ Frame z s := by
  unfold spdmError
  simp (maxDischargeDepth := 9)

@[simp] theorem signedAnswer_frame (z s : State) (code : Nat) (nonce body : List Byte) : Frame z (signedAnswer s code nonce body) ↔ Frame z s := by
  unfold signedAnswer
  simp (maxDischargeDepth := 9)

end Sys2Proof.Machine
end

