-- ==== Sys2Proof/Laws/Memory.lean ====
section
/-!
SUPPORT. The sparse memories: every operation keeps the canonical form, a read after a write gives the value written
and leaves every other address alone, and memories that read alike are equal.
-/

namespace Sys2Proof.Machine

/-- The canonical form says that addresses rise strictly and no entry is zero. -/
theorem Mem.wfFrom_iff {lo : Nat} {m : Mem} :
    Mem.wfFrom lo m = true ↔ m.Pairwise (fun x y => x.1 < y.1) ∧ ∀ c ∈ m, lo ≤ c.1 ∧ c.2 ≠ 0 := by
  induction m generalizing lo with
  | nil => simp [Mem.wfFrom]
  | cons x m ih =>
    obtain ⟨a, b⟩ := x
    simp only [Mem.wfFrom, Bool.and_eq_true, decide_eq_true_eq, ih, List.pairwise_cons, List.mem_cons]
    constructor
    · rintro ⟨⟨h1, h2⟩, h3, h4⟩
      refine ⟨⟨fun y hy => (h4 y hy).1, h3⟩, ?_⟩
      rintro c (rfl | hc)
      · exact ⟨h1, h2⟩
      · exact ⟨by have := (h4 c hc).1; omega, (h4 c hc).2⟩
    · rintro ⟨⟨h1, h2⟩, h3⟩
      exact ⟨h3 (a, b) (.inl rfl), h2, fun c hc => ⟨h1 c hc, (h3 c (.inr hc)).2⟩⟩

theorem Mem.wf_iff {m : Mem} :
    Mem.wf m = true ↔ m.Pairwise (fun x y => x.1 < y.1) ∧ ∀ c ∈ m, c.2 ≠ 0 := by
  simp [Mem.wf, Mem.wfFrom_iff]

@[simp] theorem Mem.wf_nil : Mem.wf [] = true := rfl

/-- Dropping entries keeps the canonical form. -/
theorem Mem.filter_wf {m : Mem} (p : Host.Cell → Bool) (h : Mem.wf m = true) : Mem.wf (m.filter p) = true := by
  rw [Mem.wf_iff] at h ⊢
  exact ⟨h.1.filter _, fun c hc => h.2 c (List.mem_filter.1 hc).1⟩

theorem Mem.clear_wf {m : Mem} (a n : Nat) (h : Mem.wf m = true) : Mem.wf (Mem.clear m a n) = true :=
  Mem.filter_wf _ h

theorem Mem.slice_wf {m : Mem} (a n dst : Nat) (h : Mem.wf m = true) : Mem.wf (Mem.slice m a n dst) = true := by
  rw [Mem.wf_iff] at h
  simp only [Mem.slice, Mem.wf_iff, List.pairwise_map, List.mem_map]
  refine ⟨?_, ?_⟩
  · refine (h.1.filter _).imp_of_mem ?_
    intro x y hx hy hxy
    simp only [List.mem_filter, Bool.and_eq_true, decide_eq_true_eq] at hx hy
    omega
  · rintro _ ⟨c, hc, rfl⟩
    exact h.2 c (List.mem_filter.1 hc).1

/-- A write of one byte keeps the form, from any lower bound of the address on. -/
theorem Mem.set_wfFrom {m : Mem} {lo i : Nat} (v : Byte) (h : Mem.wfFrom lo m = true) (hi : lo ≤ i) :
    Mem.wfFrom lo (Mem.set m i v) = true := by
  induction m generalizing lo with
  | nil => simp only [Mem.set]; split <;> simp_all [Mem.wfFrom]
  | cons x m ih =>
    obtain ⟨a, b⟩ := x
    simp only [Mem.wfFrom, Bool.and_eq_true, decide_eq_true_eq] at h
    obtain ⟨⟨h1, h2⟩, h3⟩ := h
    have raise : ∀ {k : Nat}, k ≤ a + 1 → Mem.wfFrom k m = true := fun hk => by
      rw [Mem.wfFrom_iff] at h3 ⊢
      exact ⟨h3.1, fun c hc => ⟨by have := (h3.2 c hc).1; omega, (h3.2 c hc).2⟩⟩
    simp only [Mem.set]
    split
    · split
      · simp only [Mem.wfFrom, Bool.and_eq_true, decide_eq_true_eq]; exact ⟨⟨h1, h2⟩, h3⟩
      · simp only [Mem.wfFrom, Bool.and_eq_true, decide_eq_true_eq]
        exact ⟨⟨hi, by assumption⟩, ⟨by omega, h2⟩, h3⟩
    · split
      · split
        · exact raise (by omega)
        · simp only [Mem.wfFrom, Bool.and_eq_true, decide_eq_true_eq]
          exact ⟨⟨hi, by assumption⟩, by subst_vars; exact h3⟩
      · simp only [Mem.wfFrom, Bool.and_eq_true, decide_eq_true_eq]
        exact ⟨⟨h1, h2⟩, ih h3 (by omega)⟩

theorem Mem.set_wf {m : Mem} (i : Nat) (v : Byte) (h : Mem.wf m = true) : Mem.wf (Mem.set m i v) = true :=
  Mem.set_wfFrom v h (Nat.zero_le _)

theorem Mem.store_wf {m : Mem} (a : Nat) (bs : List Byte) (h : Mem.wf m = true) : Mem.wf (Mem.store m a bs) = true := by
  induction bs generalizing m a with
  | nil => exact h
  | cons b bs ih => exact ih _ (Mem.set_wf _ _ h)

/-- Bytes laid out from an address on, the zeros left out. -/
theorem Mem.laid_wf (a : Nat) (bs : List Byte) :
    let l : Mem := (bs.zipIdx a).filterMap fun x => if x.1 = 0 then none else some (x.2, x.1)
    l.Pairwise (fun x y => x.1 < y.1) ∧ ∀ c ∈ l, (a ≤ c.1 ∧ c.1 < a + bs.length) ∧ c.2 ≠ 0 := by
  induction bs generalizing a with
  | nil => simp
  | cons b bs ih =>
    obtain ⟨h1, h2⟩ := ih (a + 1)
    simp only [List.zipIdx_cons, List.filterMap_cons, List.length_cons]
    split
    · exact ⟨h1, fun c hc => ⟨by have := (h2 c hc).1; omega, (h2 c hc).2⟩⟩
    · rename_i x hx
      split at hx
      · cases hx
      · cases hx
        rw [List.pairwise_cons]
        refine ⟨⟨fun y hy => by have := (h2 y hy).1; omega, h1⟩, ?_⟩
        intro c hc
        rcases List.mem_cons.1 hc with rfl | hc
        · exact ⟨by dsimp only; omega, by assumption⟩
        · exact ⟨by have := (h2 c hc).1; omega, (h2 c hc).2⟩

theorem Mem.splice_wf {m : Mem} (a : Nat) (bs : List Byte) (h : Mem.wf m = true) : Mem.wf (Mem.splice m a bs) = true := by
  rw [Mem.wf_iff] at h
  obtain ⟨h1, h2⟩ := Mem.laid_wf a bs
  rw [Mem.wf_iff]
  simp only [Mem.splice, List.pairwise_append, List.mem_append, List.mem_filter, decide_eq_true_eq]
  refine ⟨⟨⟨h.1.filter _, h1, ?_⟩, h.1.filter _, ?_⟩, ?_⟩
  · intro x hx y hy; have := (h2 y hy).1; omega
  · rintro x (hx | hx) y hy
    · omega
    · have := (h2 x hx).1; omega
  · rintro c ((hc | hc) | hc)
    · exact h.2 c hc.1
    · exact (h2 c hc).2
    · exact h.2 c hc.1

/-! ### Reading -/

/-- Below every entry a memory reads as zero. -/
theorem Mem.get_below {m : Mem} {lo i : Nat} (h : Mem.wfFrom lo m = true) (hi : i < lo) : Mem.get m i = 0 := by
  cases m with
  | nil => rfl
  | cons x m =>
    obtain ⟨a, b⟩ := x
    simp only [Mem.wfFrom, Bool.and_eq_true, decide_eq_true_eq] at h
    have := h.1.1
    simp [Mem.get, show ¬ i = a by omega, show i < a by omega]

theorem Mem.get_set_same {m : Mem} {lo i : Nat} (v : Byte) (h : Mem.wfFrom lo m = true) :
    Mem.get (Mem.set m i v) i = v := by
  induction m generalizing lo with
  | nil => simp only [Mem.set]; split <;> simp_all [Mem.get]
  | cons x m ih =>
    obtain ⟨a, b⟩ := x
    simp only [Mem.wfFrom, Bool.and_eq_true, decide_eq_true_eq] at h
    simp only [Mem.set]
    split
    · split
      · simp [Mem.get, show ¬ i = a by omega, *]
      · simp [Mem.get]
    · split
      · subst_vars
        split
        · rw [Mem.get_below h.2 (by omega)]; simp [*]
        · simp [Mem.get]
      · simp [Mem.get, show ¬ i = a by omega, show ¬ i < a by omega, ih h.2]

/-- A read after a write of the same byte gives the value written. -/
theorem Mem.get_set {m : Mem} (i : Nat) (v : Byte) (h : Mem.wf m = true) : Mem.get (Mem.set m i v) i = v :=
  Mem.get_set_same v h

/-- A write leaves every other address as it was. -/
theorem Mem.get_set_other {m : Mem} {lo i j : Nat} (v : Byte) (h : Mem.wfFrom lo m = true) (hij : j ≠ i) :
    Mem.get (Mem.set m i v) j = Mem.get m j := by
  induction m generalizing lo with
  | nil =>
    simp only [Mem.set]
    split
    · rfl
    · simp only [Mem.get, if_neg hij]; split <;> rfl
  | cons x m ih =>
    obtain ⟨a, b⟩ := x
    simp only [Mem.wfFrom, Bool.and_eq_true, decide_eq_true_eq] at h
    simp only [Mem.set]
    split
    · split
      · rfl
      · simp only [Mem.get, if_neg hij]
        split
        · rw [if_neg (by omega), if_pos (by omega)]
        · rfl
    · split
      · subst_vars
        split
        · by_cases hj : j < a
          · rw [Mem.get_below h.2 (by omega), Mem.get, if_neg hij, if_pos hj]
          · simp [Mem.get, hij, hj]
        · simp only [Mem.get, if_neg hij]
      · simp only [Mem.get, ih h.2]

/-- Bytes below a stored range keep their value. -/
theorem Mem.get_store_below {m : Mem} (a : Nat) (bs : List Byte) {j : Nat} (h : Mem.wf m = true) (hj : j < a) :
    Mem.get (Mem.store m a bs) j = Mem.get m j := by
  induction bs generalizing m a with
  | nil => rfl
  | cons b bs ih =>
    rw [Mem.store, ih _ (Mem.set_wf _ _ h) (by omega), Mem.get_set_other b h (by omega)]

/-- Bytes above a stored range keep their value. -/
theorem Mem.get_store_above {m : Mem} (a : Nat) (bs : List Byte) {j : Nat} (h : Mem.wf m = true)
    (hj : a + bs.length ≤ j) : Mem.get (Mem.store m a bs) j = Mem.get m j := by
  induction bs generalizing m a with
  | nil => rfl
  | cons b bs ih =>
    simp only [List.length_cons] at hj
    rw [Mem.store, ih _ (Mem.set_wf _ _ h) (by omega), Mem.get_set_other b h (by omega)]

/-- A stored range reads as the bytes stored. -/
theorem Mem.get_store {m : Mem} (a : Nat) (bs : List Byte) {k : Nat} (h : Mem.wf m = true) (hk : k < bs.length) :
    Mem.get (Mem.store m a bs) (a + k) = bs[k] := by
  induction bs generalizing m a k with
  | nil => simp at hk
  | cons b bs ih =>
    cases k with
    | zero =>
      simp only [Nat.add_zero, List.getElem_cons_zero]
      rw [Mem.store, Mem.get_store_below _ _ (Mem.set_wf _ _ h) (by omega), Mem.get_set _ _ h]
    | succ k =>
      rw [Mem.store, show a + (k + 1) = (a + 1) + k by omega, ih _ (Mem.set_wf _ _ h) (by simpa using hk)]
      rfl

/-- Memories in canonical form that read alike everywhere are equal. -/
theorem Mem.ext_get {m n : Mem} {lo : Nat} (hm : Mem.wfFrom lo m = true) (hn : Mem.wfFrom lo n = true)
    (h : ∀ i, Mem.get m i = Mem.get n i) : m = n := by
  induction m generalizing n lo with
  | nil =>
    cases n with
    | nil => rfl
    | cons y n =>
      obtain ⟨a, b⟩ := y
      simp only [Mem.wfFrom, Bool.and_eq_true, decide_eq_true_eq] at hn
      have := h a
      simp only [Mem.get, if_true] at this
      exact absurd this.symm hn.1.2
  | cons x m ih =>
    obtain ⟨a, b⟩ := x
    cases n with
    | nil =>
      simp only [Mem.wfFrom, Bool.and_eq_true, decide_eq_true_eq] at hm
      have := h a
      simp only [Mem.get, if_true] at this
      exact absurd this hm.1.2
    | cons y n =>
      obtain ⟨c, d⟩ := y
      simp only [Mem.wfFrom, Bool.and_eq_true, decide_eq_true_eq] at hm hn
      have ha := h a
      have hc := h c
      simp only [Mem.get, if_true] at ha hc
      have hac : a = c := by
        rcases Nat.lt_trichotomy a c with hlt | heq | hgt
        · rw [if_neg (by omega), if_pos hlt] at ha; exact absurd ha hm.1.2
        · exact heq
        · rw [if_neg (by omega), if_pos hgt] at hc; exact absurd hc.symm hn.1.2
      subst hac
      simp only [if_true] at ha
      subst ha
      congr 1
      refine ih hm.2 hn.2 fun i => ?_
      have hi := h i
      simp only [Mem.get] at hi
      by_cases h1 : i < a + 1
      · rw [Mem.get_below hm.2 h1, Mem.get_below hn.2 h1]
      · rwa [if_neg (by omega), if_neg (by omega), if_neg (by omega), if_neg (by omega)] at hi

end Sys2Proof.Machine
end

