-- ==== Sys2Proof/Laws/State.lean ====
section
/-!
SUPPORT. What each named setter of State leaves alone, one simplification lemma for every field, so that no proof
unfolds a record update.
-/

namespace Sys2Proof.Machine

variable (s : State)

@[simp] theorem setMbx_keeps (m : Nat) (f : Mailbox → Mailbox) :
    (setMbx s m f).time = s.time ∧ (setMbx s m f).fresh = s.fresh ∧ (setMbx s m f).pending = s.pending ∧ (setMbx
    s m f).board = s.board ∧ (setMbx s m f).dev = s.dev ∧ (setMbx s m f).link = s.link ∧ (setMbx s m f).regs =
    s.regs ∧ (setMbx s m f).cfg = s.cfg ∧ (setMbx s m f).flash = s.flash ∧ (setMbx s m f).tally = s.tally ∧
    (setMbx s m f).groves = s.groves ∧ (setMbx s m f).hbm = s.hbm ∧ (setMbx s m f).islands = s.islands ∧
    (setMbx s m f).mem = s.mem ∧ (setMbx s m f).ctxs = s.ctxs ∧ (setMbx s m f).kv = s.kv ∧ (setMbx s m f).jobs =
    s.jobs ∧ (setMbx s m f).sched = s.sched ∧ (setMbx s m f).streams = s.streams ∧ (setMbx s m f).fabric =
    s.fabric ∧ (setMbx s m f).vec = s.vec ∧ (setMbx s m f).spdm = s.spdm :=
  ⟨rfl, rfl, rfl, rfl, rfl, rfl, rfl, rfl, rfl, rfl, rfl, rfl, rfl, rfl, rfl, rfl, rfl, rfl, rfl, rfl, rfl, rfl⟩

@[simp] theorem reply_keeps (c : Completion) :
    (reply s c).time = s.time ∧ (reply s c).fresh = s.fresh ∧ (reply s c).pending = s.pending ∧ (reply s
    c).board = s.board ∧ (reply s c).dev = s.dev ∧ (reply s c).link = s.link ∧ (reply s c).mbx = s.mbx ∧ (reply
    s c).cfg = s.cfg ∧ (reply s c).flash = s.flash ∧ (reply s c).tally = s.tally ∧ (reply s c).groves = s.groves
    ∧ (reply s c).hbm = s.hbm ∧ (reply s c).islands = s.islands ∧ (reply s c).mem = s.mem ∧ (reply s
    c).ctxs = s.ctxs ∧ (reply s c).kv = s.kv ∧ (reply s c).jobs = s.jobs ∧ (reply s c).sched = s.sched ∧ (reply
    s c).streams = s.streams ∧ (reply s c).fabric = s.fabric ∧ (reply s c).vec = s.vec ∧ (reply s c).spdm =
    s.spdm :=
  ⟨rfl, rfl, rfl, rfl, rfl, rfl, rfl, rfl, rfl, rfl, rfl, rfl, rfl, rfl, rfl, rfl, rfl, rfl, rfl, rfl, rfl, rfl⟩

@[simp] theorem setPort_keeps (p : Nat) (f : Port → Port) :
    (setPort s p f).time = s.time ∧ (setPort s p f).fresh = s.fresh ∧ (setPort s p f).pending = s.pending ∧
    (setPort s p f).board = s.board ∧ (setPort s p f).dev = s.dev ∧ (setPort s p f).link = s.link ∧ (setPort s p
    f).regs = s.regs ∧ (setPort s p f).mbx = s.mbx ∧ (setPort s p f).cfg = s.cfg ∧ (setPort s p f).flash =
    s.flash ∧ (setPort s p f).tally = s.tally ∧ (setPort s p f).groves = s.groves ∧ (setPort s p f).hbm =
    s.hbm ∧ (setPort s p f).islands = s.islands ∧ (setPort s p f).mem = s.mem ∧ (setPort s p f).ctxs = s.ctxs
    ∧ (setPort s p f).kv = s.kv ∧ (setPort s p f).jobs = s.jobs ∧ (setPort s p f).sched = s.sched ∧ (setPort s p
    f).streams = s.streams ∧ (setPort s p f).vec = s.vec ∧ (setPort s p f).spdm = s.spdm :=
  ⟨rfl, rfl, rfl, rfl, rfl, rfl, rfl, rfl, rfl, rfl, rfl, rfl, rfl, rfl, rfl, rfl, rfl, rfl, rfl, rfl, rfl, rfl⟩

@[simp] theorem setGrove_keeps (g : Nat) (f : Grove → Grove) :
    (setGrove s g f).time = s.time ∧ (setGrove s g f).fresh = s.fresh ∧ (setGrove s g f).pending = s.pending ∧
    (setGrove s g f).board = s.board ∧ (setGrove s g f).dev = s.dev ∧ (setGrove s g f).link = s.link ∧ (setGrove
    s g f).regs = s.regs ∧ (setGrove s g f).mbx = s.mbx ∧ (setGrove s g f).cfg = s.cfg ∧ (setGrove s g f).flash
    = s.flash ∧ (setGrove s g f).tally = s.tally ∧ (setGrove s g f).hbm = s.hbm ∧ (setGrove s g f).islands
    = s.islands ∧ (setGrove s g f).mem = s.mem ∧ (setGrove s g f).ctxs = s.ctxs ∧ (setGrove s g f).kv = s.kv ∧
    (setGrove s g f).jobs = s.jobs ∧ (setGrove s g f).sched = s.sched ∧ (setGrove s g f).streams = s.streams ∧
    (setGrove s g f).fabric = s.fabric ∧ (setGrove s g f).vec = s.vec ∧ (setGrove s g f).spdm = s.spdm :=
  ⟨rfl, rfl, rfl, rfl, rfl, rfl, rfl, rfl, rfl, rfl, rfl, rfl, rfl, rfl, rfl, rfl, rfl, rfl, rfl, rfl, rfl, rfl⟩

@[simp] theorem mapGrove_keeps (g : Nat) (f : GroveMap → GroveMap) :
    (mapGrove s g f).time = s.time ∧ (mapGrove s g f).fresh = s.fresh ∧ (mapGrove s g f).pending = s.pending ∧
    (mapGrove s g f).board = s.board ∧ (mapGrove s g f).dev = s.dev ∧ (mapGrove s g f).link = s.link ∧ (mapGrove
    s g f).regs = s.regs ∧ (mapGrove s g f).mbx = s.mbx ∧ (mapGrove s g f).cfg = s.cfg ∧ (mapGrove s g f).tally
    = s.tally ∧ (mapGrove s g f).groves = s.groves ∧ (mapGrove s g f).hbm = s.hbm ∧ (mapGrove s g
    f).islands = s.islands ∧ (mapGrove s g f).mem = s.mem ∧ (mapGrove s g f).ctxs = s.ctxs ∧ (mapGrove s g f).kv
    = s.kv ∧ (mapGrove s g f).jobs = s.jobs ∧ (mapGrove s g f).sched = s.sched ∧ (mapGrove s g f).streams =
    s.streams ∧ (mapGrove s g f).fabric = s.fabric ∧ (mapGrove s g f).vec = s.vec ∧ (mapGrove s g f).spdm =
    s.spdm :=
  ⟨rfl, rfl, rfl, rfl, rfl, rfl, rfl, rfl, rfl, rfl, rfl, rfl, rfl, rfl, rfl, rfl, rfl, rfl, rfl, rfl, rfl, rfl⟩

@[simp] theorem setSlot_keeps (k : Nat) (f : FwSlot → FwSlot) :
    (setSlot s k f).time = s.time ∧ (setSlot s k f).fresh = s.fresh ∧ (setSlot s k f).pending = s.pending ∧
    (setSlot s k f).board = s.board ∧ (setSlot s k f).dev = s.dev ∧ (setSlot s k f).link = s.link ∧ (setSlot s k
    f).regs = s.regs ∧ (setSlot s k f).mbx = s.mbx ∧ (setSlot s k f).cfg = s.cfg ∧ (setSlot s k f).tally =
    s.tally ∧ (setSlot s k f).groves = s.groves ∧ (setSlot s k f).hbm = s.hbm ∧ (setSlot s k f).islands =
    s.islands ∧ (setSlot s k f).mem = s.mem ∧ (setSlot s k f).ctxs = s.ctxs ∧ (setSlot s k f).kv = s.kv ∧
    (setSlot s k f).jobs = s.jobs ∧ (setSlot s k f).sched = s.sched ∧ (setSlot s k f).streams = s.streams ∧
    (setSlot s k f).fabric = s.fabric ∧ (setSlot s k f).vec = s.vec ∧ (setSlot s k f).spdm = s.spdm :=
  ⟨rfl, rfl, rfl, rfl, rfl, rfl, rfl, rfl, rfl, rfl, rfl, rfl, rfl, rfl, rfl, rfl, rfl, rfl, rfl, rfl, rfl, rfl⟩

@[simp] theorem setStream_keeps (k : Nat) (f : Stream → Stream) :
    (setStream s k f).time = s.time ∧ (setStream s k f).fresh = s.fresh ∧ (setStream s k f).pending = s.pending
    ∧ (setStream s k f).board = s.board ∧ (setStream s k f).dev = s.dev ∧ (setStream s k f).link = s.link ∧
    (setStream s k f).regs = s.regs ∧ (setStream s k f).mbx = s.mbx ∧ (setStream s k f).cfg = s.cfg ∧ (setStream
    s k f).flash = s.flash ∧ (setStream s k f).tally = s.tally ∧ (setStream s k f).groves = s.groves ∧
    (setStream s k f).hbm = s.hbm ∧ (setStream s k f).islands = s.islands ∧ (setStream s k f).mem = s.mem
    ∧ (setStream s k f).ctxs = s.ctxs ∧ (setStream s k f).kv = s.kv ∧ (setStream s k f).jobs = s.jobs ∧
    (setStream s k f).sched = s.sched ∧ (setStream s k f).fabric = s.fabric ∧ (setStream s k f).vec = s.vec ∧
    (setStream s k f).spdm = s.spdm :=
  ⟨rfl, rfl, rfl, rfl, rfl, rfl, rfl, rfl, rfl, rfl, rfl, rfl, rfl, rfl, rfl, rfl, rfl, rfl, rfl, rfl, rfl, rfl⟩

@[simp] theorem setRun_keeps (f : Run → Run) :
    (setRun s f).time = s.time ∧ (setRun s f).fresh = s.fresh ∧ (setRun s f).pending = s.pending ∧ (setRun s
    f).board = s.board ∧ (setRun s f).dev = s.dev ∧ (setRun s f).link = s.link ∧ (setRun s f).regs = s.regs ∧
    (setRun s f).mbx = s.mbx ∧ (setRun s f).cfg = s.cfg ∧ (setRun s f).flash = s.flash ∧ (setRun s f).tally =
    s.tally ∧ (setRun s f).groves = s.groves ∧ (setRun s f).hbm = s.hbm ∧ (setRun s f).islands = s.islands
    ∧ (setRun s f).mem = s.mem ∧ (setRun s f).ctxs = s.ctxs ∧ (setRun s f).kv = s.kv ∧ (setRun s f).jobs =
    s.jobs ∧ (setRun s f).streams = s.streams ∧ (setRun s f).fabric = s.fabric ∧ (setRun s f).vec = s.vec ∧
    (setRun s f).spdm = s.spdm :=
  ⟨rfl, rfl, rfl, rfl, rfl, rfl, rfl, rfl, rfl, rfl, rfl, rfl, rfl, rfl, rfl, rfl, rfl, rfl, rfl, rfl, rfl, rfl⟩

@[simp] theorem setRecord_keeps (j n : Nat) (f : StepRec → StepRec) :
    (setRecord s j n f).time = s.time ∧ (setRecord s j n f).fresh = s.fresh ∧ (setRecord s j n f).pending =
    s.pending ∧ (setRecord s j n f).board = s.board ∧ (setRecord s j n f).dev = s.dev ∧ (setRecord s j n f).link
    = s.link ∧ (setRecord s j n f).regs = s.regs ∧ (setRecord s j n f).mbx = s.mbx ∧ (setRecord s j n f).cfg =
    s.cfg ∧ (setRecord s j n f).flash = s.flash ∧ (setRecord s j n f).tally = s.tally ∧ (setRecord s j n
    f).groves = s.groves ∧ (setRecord s j n f).hbm = s.hbm ∧ (setRecord s j n f).islands = s.islands ∧
    (setRecord s j n f).mem = s.mem ∧ (setRecord s j n f).ctxs = s.ctxs ∧ (setRecord s j n f).kv = s.kv ∧
    (setRecord s j n f).jobs = s.jobs ∧ (setRecord s j n f).streams = s.streams ∧ (setRecord s j n f).fabric =
    s.fabric ∧ (setRecord s j n f).vec = s.vec ∧ (setRecord s j n f).spdm = s.spdm :=
  ⟨rfl, rfl, rfl, rfl, rfl, rfl, rfl, rfl, rfl, rfl, rfl, rfl, rfl, rfl, rfl, rfl, rfl, rfl, rfl, rfl, rfl, rfl⟩

@[simp] theorem setCtx_keeps (c : Nat) (f : Context → Context) :
    (setCtx s c f).time = s.time ∧ (setCtx s c f).fresh = s.fresh ∧ (setCtx s c f).pending = s.pending ∧ (setCtx
    s c f).board = s.board ∧ (setCtx s c f).dev = s.dev ∧ (setCtx s c f).link = s.link ∧ (setCtx s c f).regs =
    s.regs ∧ (setCtx s c f).mbx = s.mbx ∧ (setCtx s c f).cfg = s.cfg ∧ (setCtx s c f).flash = s.flash ∧ (setCtx
    s c f).tally = s.tally ∧ (setCtx s c f).groves = s.groves ∧ (setCtx s c f).hbm = s.hbm ∧ (setCtx s c
    f).islands = s.islands ∧ (setCtx s c f).mem = s.mem ∧ (setCtx s c f).kv = s.kv ∧ (setCtx s c f).jobs =
    s.jobs ∧ (setCtx s c f).sched = s.sched ∧ (setCtx s c f).streams = s.streams ∧ (setCtx s c f).fabric =
    s.fabric ∧ (setCtx s c f).vec = s.vec ∧ (setCtx s c f).spdm = s.spdm :=
  ⟨rfl, rfl, rfl, rfl, rfl, rfl, rfl, rfl, rfl, rfl, rfl, rfl, rfl, rfl, rfl, rfl, rfl, rfl, rfl, rfl, rfl, rfl⟩

@[simp] theorem setVec_keeps (g : Nat) (e : VecEngine) :
    (setVec s g e).time = s.time ∧ (setVec s g e).fresh = s.fresh ∧ (setVec s g e).pending = s.pending ∧ (setVec
    s g e).board = s.board ∧ (setVec s g e).dev = s.dev ∧ (setVec s g e).link = s.link ∧ (setVec s g e).regs =
    s.regs ∧ (setVec s g e).mbx = s.mbx ∧ (setVec s g e).cfg = s.cfg ∧ (setVec s g e).flash = s.flash ∧ (setVec
    s g e).tally = s.tally ∧ (setVec s g e).groves = s.groves ∧ (setVec s g e).hbm = s.hbm ∧ (setVec s g
    e).islands = s.islands ∧ (setVec s g e).mem = s.mem ∧ (setVec s g e).ctxs = s.ctxs ∧ (setVec s g e).kv =
    s.kv ∧ (setVec s g e).jobs = s.jobs ∧ (setVec s g e).sched = s.sched ∧ (setVec s g e).streams = s.streams ∧
    (setVec s g e).fabric = s.fabric ∧ (setVec s g e).spdm = s.spdm :=
  ⟨rfl, rfl, rfl, rfl, rfl, rfl, rfl, rfl, rfl, rfl, rfl, rfl, rfl, rfl, rfl, rfl, rfl, rfl, rfl, rfl, rfl, rfl⟩

@[simp] theorem addTiles_keeps (i : InstId) (g n : Nat) :
    (addTiles s i g n).time = s.time ∧ (addTiles s i g n).fresh = s.fresh ∧ (addTiles s i g n).pending = s.pending ∧
    (addTiles s i g n).board = s.board ∧ (addTiles s i g n).dev = s.dev ∧ (addTiles s i g n).link = s.link ∧ (addTiles
    s i g n).regs = s.regs ∧ (addTiles s i g n).mbx = s.mbx ∧ (addTiles s i g n).cfg = s.cfg ∧ (addTiles s i g n).flash
    = s.flash ∧ (addTiles s i g n).tally = s.tally ∧ (addTiles s i g n).hbm = s.hbm ∧ (addTiles s i g n).islands
    = s.islands ∧ (addTiles s i g n).mem = s.mem ∧ (addTiles s i g n).ctxs = s.ctxs ∧ (addTiles s i g n).kv = s.kv ∧
    (addTiles s i g n).jobs = s.jobs ∧ (addTiles s i g n).sched = s.sched ∧ (addTiles s i g n).streams = s.streams ∧
    (addTiles s i g n).fabric = s.fabric ∧ (addTiles s i g n).vec = s.vec ∧ (addTiles s i g n).spdm = s.spdm :=
  ⟨rfl, rfl, rfl, rfl, rfl, rfl, rfl, rfl, rfl, rfl, rfl, rfl, rfl, rfl, rfl, rfl, rfl, rfl, rfl, rfl, rfl, rfl⟩

@[simp] theorem countClassP_keeps  :
    (countClassP s).time = s.time ∧ (countClassP s).fresh = s.fresh ∧ (countClassP s).pending = s.pending ∧
    (countClassP s).board = s.board ∧ (countClassP s).link = s.link ∧ (countClassP s).regs = s.regs ∧
    (countClassP s).mbx = s.mbx ∧ (countClassP s).cfg = s.cfg ∧ (countClassP s).flash = s.flash ∧ (countClassP
    s).tally = s.tally ∧ (countClassP s).groves = s.groves ∧ (countClassP s).hbm = s.hbm ∧ (countClassP
    s).islands = s.islands ∧ (countClassP s).mem = s.mem ∧ (countClassP s).ctxs = s.ctxs ∧ (countClassP s).kv =
    s.kv ∧ (countClassP s).jobs = s.jobs ∧ (countClassP s).sched = s.sched ∧ (countClassP s).streams = s.streams
    ∧ (countClassP s).fabric = s.fabric ∧ (countClassP s).vec = s.vec ∧ (countClassP s).spdm = s.spdm :=
  ⟨rfl, rfl, rfl, rfl, rfl, rfl, rfl, rfl, rfl, rfl, rfl, rfl, rfl, rfl, rfl, rfl, rfl, rfl, rfl, rfl, rfl, rfl⟩

@[simp] theorem tally_keeps (a b c p q r t : Nat) :
    (tally s a b c p q r t).time = s.time ∧ (tally s a b c p q r t).fresh = s.fresh ∧ (tally s a b c p q r
    t).pending = s.pending ∧ (tally s a b c p q r t).board = s.board ∧ (tally s a b c p q r t).dev = s.dev ∧
    (tally s a b c p q r t).link = s.link ∧ (tally s a b c p q r t).regs = s.regs ∧ (tally s a b c p q r t).mbx
    = s.mbx ∧ (tally s a b c p q r t).cfg = s.cfg ∧ (tally s a b c p q r t).groves = s.groves ∧ (tally s a b c p
    q r t).hbm = s.hbm ∧ (tally s a b c p q r t).islands = s.islands ∧ (tally s a b c p q r t).mem = s.mem
    ∧ (tally s a b c p q r t).ctxs = s.ctxs ∧ (tally s a b c p q r t).kv = s.kv ∧ (tally s a b c p q r t).jobs =
    s.jobs ∧ (tally s a b c p q r t).sched = s.sched ∧ (tally s a b c p q r t).streams = s.streams ∧ (tally s a
    b c p q r t).fabric = s.fabric ∧ (tally s a b c p q r t).vec = s.vec ∧ (tally s a b c p q r t).spdm = s.spdm :=
  ⟨rfl, rfl, rfl, rfl, rfl, rfl, rfl, rfl, rfl, rfl, rfl, rfl, rfl, rfl, rfl, rfl, rfl, rfl, rfl, rfl, rfl⟩

@[simp] theorem setObj_keeps (c o : Nat) (f : Obj → Obj) :
    (setObj s c o f).time = s.time ∧ (setObj s c o f).fresh = s.fresh ∧ (setObj s c o f).pending = s.pending ∧
    (setObj s c o f).board = s.board ∧ (setObj s c o f).dev = s.dev ∧ (setObj s c o f).link = s.link ∧ (setObj s
    c o f).regs = s.regs ∧ (setObj s c o f).mbx = s.mbx ∧ (setObj s c o f).cfg = s.cfg ∧ (setObj s c o f).flash
    = s.flash ∧ (setObj s c o f).tally = s.tally ∧ (setObj s c o f).groves = s.groves ∧ (setObj s c o f).hbm
    = s.hbm ∧ (setObj s c o f).islands = s.islands ∧ (setObj s c o f).mem = s.mem ∧ (setObj s c o f).kv =
    s.kv ∧ (setObj s c o f).jobs = s.jobs ∧ (setObj s c o f).sched = s.sched ∧ (setObj s c o f).streams =
    s.streams ∧ (setObj s c o f).fabric = s.fabric ∧ (setObj s c o f).vec = s.vec ∧ (setObj s c o f).spdm =
    s.spdm :=
  ⟨rfl, rfl, rfl, rfl, rfl, rfl, rfl, rfl, rfl, rfl, rfl, rfl, rfl, rfl, rfl, rfl, rfl, rfl, rfl, rfl, rfl, rfl⟩

@[simp] theorem setScale_keeps (c o : Nat) (f : ScaleEntry → ScaleEntry) :
    (setScale s c o f).time = s.time ∧ (setScale s c o f).fresh = s.fresh ∧ (setScale s c o f).pending =
    s.pending ∧ (setScale s c o f).board = s.board ∧ (setScale s c o f).dev = s.dev ∧ (setScale s c o f).link =
    s.link ∧ (setScale s c o f).regs = s.regs ∧ (setScale s c o f).mbx = s.mbx ∧ (setScale s c o f).cfg = s.cfg
    ∧ (setScale s c o f).flash = s.flash ∧ (setScale s c o f).tally = s.tally ∧ (setScale s c o f).groves =
    s.groves ∧ (setScale s c o f).hbm = s.hbm ∧ (setScale s c o f).islands = s.islands ∧ (setScale s c o
    f).mem = s.mem ∧ (setScale s c o f).kv = s.kv ∧ (setScale s c o f).jobs = s.jobs ∧ (setScale s c o f).sched
    = s.sched ∧ (setScale s c o f).streams = s.streams ∧ (setScale s c o f).fabric = s.fabric ∧ (setScale s c o
    f).vec = s.vec ∧ (setScale s c o f).spdm = s.spdm :=
  ⟨rfl, rfl, rfl, rfl, rfl, rfl, rfl, rfl, rfl, rfl, rfl, rfl, rfl, rfl, rfl, rfl, rfl, rfl, rfl, rfl, rfl, rfl⟩

@[simp] theorem setStage_keeps (m i : Nat) (x : Option StageSlot) :
    (setStage s m i x).time = s.time ∧ (setStage s m i x).fresh = s.fresh ∧ (setStage s m i x).pending =
    s.pending ∧ (setStage s m i x).board = s.board ∧ (setStage s m i x).dev = s.dev ∧ (setStage s m i x).link =
    s.link ∧ (setStage s m i x).regs = s.regs ∧ (setStage s m i x).cfg = s.cfg ∧ (setStage s m i x).flash =
    s.flash ∧ (setStage s m i x).tally = s.tally ∧ (setStage s m i x).groves = s.groves ∧ (setStage s m i
    x).hbm = s.hbm ∧ (setStage s m i x).islands = s.islands ∧ (setStage s m i x).mem = s.mem ∧ (setStage s
    m i x).ctxs = s.ctxs ∧ (setStage s m i x).kv = s.kv ∧ (setStage s m i x).jobs = s.jobs ∧ (setStage s m i
    x).sched = s.sched ∧ (setStage s m i x).streams = s.streams ∧ (setStage s m i x).fabric = s.fabric ∧
    (setStage s m i x).vec = s.vec ∧ (setStage s m i x).spdm = s.spdm :=
  ⟨rfl, rfl, rfl, rfl, rfl, rfl, rfl, rfl, rfl, rfl, rfl, rfl, rfl, rfl, rfl, rfl, rfl, rfl, rfl, rfl, rfl, rfl⟩

@[simp] theorem recordStats_keeps (c : Nat) (e : ObjEntry) (st : Stats) :
    (recordStats s c e st).time = s.time ∧ (recordStats s c e st).fresh = s.fresh ∧ (recordStats s c e
    st).pending = s.pending ∧ (recordStats s c e st).board = s.board ∧ (recordStats s c e st).dev = s.dev ∧
    (recordStats s c e st).link = s.link ∧ (recordStats s c e st).regs = s.regs ∧ (recordStats s c e st).mbx =
    s.mbx ∧ (recordStats s c e st).cfg = s.cfg ∧ (recordStats s c e st).flash = s.flash ∧ (recordStats s c e
    st).tally = s.tally ∧ (recordStats s c e st).groves = s.groves ∧ (recordStats s c e st).hbm = s.hbm ∧
    (recordStats s c e st).islands = s.islands ∧ (recordStats s c e st).mem = s.mem ∧ (recordStats s c e st).kv
    = s.kv ∧ (recordStats s c e st).jobs = s.jobs ∧ (recordStats s c e
    st).streams = s.streams ∧ (recordStats s c e st).fabric = s.fabric ∧ (recordStats s c e st).vec = s.vec ∧
    (recordStats s c e st).spdm = s.spdm :=
  by unfold recordStats; split <;> simp

/-- Statistics go into the running step's parts and leave the rest of the schedule alone. -/
@[simp] theorem recordStats_sched (c : Nat) (e : ObjEntry) (st : Stats) :
    (recordStats s c e st).sched.queue = s.sched.queue ∧ (recordStats s c e st).sched.current = s.sched.current ∧
    (recordStats s c e st).sched.run.map (fun r => r.adm) = s.sched.run.map (fun r => r.adm) ∧
    (recordStats s c e st).sched.run.map (fun r => r.executed) = s.sched.run.map (fun r => r.executed) ∧
    (recordStats s c e st).sched.run.map (fun r => r.complete) = s.sched.run.map (fun r => r.complete) := by
  unfold recordStats; split
  · simp
  · cases h : s.sched.run <;> simp [setRun, h]

/-- A change of a grove's repair-map record leaves the flash's other parts alone. -/
@[simp] theorem mapGrove_flash (g : Nat) (f : GroveMap → GroveMap) :
    (mapGrove s g f).flash.slots = s.flash.slots ∧ (mapGrove s g f).flash.configs = s.flash.configs := ⟨rfl, rfl⟩

@[simp] theorem markExecuted_keeps (i : InstId) :
    (markExecuted s i).time = s.time ∧ (markExecuted s i).pending = s.pending ∧ (markExecuted s i).board =
    s.board ∧ (markExecuted s i).dev = s.dev ∧ (markExecuted s i).link = s.link ∧ (markExecuted s i).regs =
    s.regs ∧ (markExecuted s i).mbx = s.mbx ∧ (markExecuted s i).cfg = s.cfg ∧ (markExecuted s i).flash =
    s.flash ∧ (markExecuted s i).tally = s.tally ∧ (markExecuted s i).groves = s.groves ∧ (markExecuted s
    i).hbm = s.hbm ∧ (markExecuted s i).islands = s.islands ∧ (markExecuted s i).mem = s.mem ∧
    (markExecuted s i).ctxs = s.ctxs ∧ (markExecuted s i).kv = s.kv ∧ (markExecuted s i).jobs = s.jobs ∧
    (markExecuted s i).streams = s.streams ∧ (markExecuted s i).fabric = s.fabric ∧ (markExecuted s i).vec =
    s.vec ∧ (markExecuted s i).spdm = s.spdm :=
  ⟨rfl, rfl, rfl, rfl, rfl, rfl, rfl, rfl, rfl, rfl, rfl, rfl, rfl, rfl, rfl, rfl, rfl, rfl, rfl, rfl, rfl⟩

@[simp] theorem signal_keeps (v : Nat) :
    (signal s v).time = s.time ∧ (signal s v).fresh = s.fresh ∧ (signal s v).pending = s.pending ∧ (signal s
    v).board = s.board ∧ (signal s v).dev = s.dev ∧ (signal s v).regs = s.regs ∧ (signal s v).mbx = s.mbx ∧
    (signal s v).cfg = s.cfg ∧ (signal s v).flash = s.flash ∧ (signal s v).tally = s.tally ∧ (signal s v).groves
    = s.groves ∧ (signal s v).hbm = s.hbm ∧ (signal s v).islands = s.islands ∧ (signal s v).mem = s.mem ∧
    (signal s v).ctxs = s.ctxs ∧ (signal s v).kv = s.kv ∧ (signal s v).jobs = s.jobs ∧ (signal s v).sched =
    s.sched ∧ (signal s v).streams = s.streams ∧ (signal s v).fabric = s.fabric ∧ (signal s v).vec = s.vec ∧
    (signal s v).spdm = s.spdm :=
  by unfold signal; split <;> simp

@[simp] theorem setJob_keeps (j : Nat) (f : Job → Job) :
    (setJob s j f).time = s.time ∧ (setJob s j f).fresh = s.fresh ∧ (setJob s j f).pending = s.pending ∧ (setJob
    s j f).board = s.board ∧ (setJob s j f).dev = s.dev ∧ (setJob s j f).link = s.link ∧ (setJob s j f).regs =
    s.regs ∧ (setJob s j f).mbx = s.mbx ∧ (setJob s j f).cfg = s.cfg ∧ (setJob s j f).flash = s.flash ∧ (setJob
    s j f).tally = s.tally ∧ (setJob s j f).groves = s.groves ∧ (setJob s j f).hbm = s.hbm ∧ (setJob s j
    f).islands = s.islands ∧ (setJob s j f).mem = s.mem ∧ (setJob s j f).ctxs = s.ctxs ∧ (setJob s j f).kv =
    s.kv ∧ (setJob s j f).sched = s.sched ∧ (setJob s j f).streams = s.streams ∧ (setJob s j f).fabric =
    s.fabric ∧ (setJob s j f).vec = s.vec ∧ (setJob s j f).spdm = s.spdm :=
  by unfold setJob; split <;> simp

@[simp] theorem deviceEvent_keeps (b : Nat) :
    (deviceEvent s b).time = s.time ∧ (deviceEvent s b).fresh = s.fresh ∧ (deviceEvent s b).pending = s.pending
    ∧ (deviceEvent s b).board = s.board ∧ (deviceEvent s b).dev = s.dev ∧ (deviceEvent s b).mbx = s.mbx ∧
    (deviceEvent s b).cfg = s.cfg ∧ (deviceEvent s b).flash = s.flash ∧ (deviceEvent s b).tally = s.tally ∧
    (deviceEvent s b).groves = s.groves ∧ (deviceEvent s b).hbm = s.hbm ∧ (deviceEvent s b).islands =
    s.islands ∧ (deviceEvent s b).mem = s.mem ∧ (deviceEvent s b).ctxs = s.ctxs ∧ (deviceEvent s b).kv = s.kv ∧
    (deviceEvent s b).jobs = s.jobs ∧ (deviceEvent s b).sched = s.sched ∧ (deviceEvent s b).streams = s.streams
    ∧ (deviceEvent s b).fabric = s.fabric ∧ (deviceEvent s b).vec = s.vec ∧ (deviceEvent s b).spdm = s.spdm :=
  by simp [deviceEvent]

@[simp] theorem presenceEvent_keeps  :
    (presenceEvent s).time = s.time ∧ (presenceEvent s).fresh = s.fresh ∧ (presenceEvent s).pending = s.pending
    ∧ (presenceEvent s).board = s.board ∧ (presenceEvent s).dev = s.dev ∧ (presenceEvent s).mbx = s.mbx ∧
    (presenceEvent s).cfg = s.cfg ∧ (presenceEvent s).flash = s.flash ∧ (presenceEvent s).tally = s.tally ∧
    (presenceEvent s).groves = s.groves ∧ (presenceEvent s).hbm = s.hbm ∧ (presenceEvent s).islands =
    s.islands ∧ (presenceEvent s).mem = s.mem ∧ (presenceEvent s).ctxs = s.ctxs ∧ (presenceEvent s).kv = s.kv ∧
    (presenceEvent s).jobs = s.jobs ∧ (presenceEvent s).sched = s.sched ∧ (presenceEvent s).streams = s.streams
    ∧ (presenceEvent s).fabric = s.fabric ∧ (presenceEvent s).vec = s.vec ∧ (presenceEvent s).spdm = s.spdm :=
  by simp [presenceEvent]

@[simp] theorem count_keeps (j : Nat) (f : Counters → Counters) :
    (count s j f).time = s.time ∧ (count s j f).fresh = s.fresh ∧ (count s j f).pending = s.pending ∧ (count s j
    f).board = s.board ∧ (count s j f).dev = s.dev ∧ (count s j f).link = s.link ∧ (count s j f).regs = s.regs ∧
    (count s j f).mbx = s.mbx ∧ (count s j f).cfg = s.cfg ∧ (count s j f).flash = s.flash ∧ (count s j f).tally
    = s.tally ∧ (count s j f).groves = s.groves ∧ (count s j f).hbm = s.hbm ∧ (count s j f).islands =
    s.islands ∧ (count s j f).mem = s.mem ∧ (count s j f).ctxs = s.ctxs ∧ (count s j f).kv = s.kv ∧ (count s j
    f).sched = s.sched ∧ (count s j f).streams = s.streams ∧ (count s j f).fabric = s.fabric ∧ (count s j f).vec
    = s.vec ∧ (count s j f).spdm = s.spdm :=
  by simp [count]

end Sys2Proof.Machine
end

