-- ==== Sys2Proof/Laws/Ops.lean ====
section
/-!
SUPPORT. What the shared operations do, said once: the end of a command, a Tally event, a message, a fatal error, the
complete reset and an instance of the running step.
-/

namespace Sys2Proof.Machine

/-! ### Commands -/

/-- A command in progress is ended by `finished`. -/
theorem respond_eq {s : State} {m : Nat} {w : Work} (h : (mbxAt s m).work = some w) (status : Nat) (p : Resp) (d e : Nat) :
    respond s m status p d e = finished s m w status p d e := by
  simp only [respond, h, finished, signalled, answerHeader, setMbx]
  split
  · rfl
  · simp only [signal]
    split <;> rfl

/-- Without a command in progress nothing is answered. -/
theorem respond_none {s : State} {m : Nat} (h : (mbxAt s m).work = none) (status : Nat) (p : Resp) (d e : Nat) :
    respond s m status p d e = s := by simp [respond, h]

/-- A refusal ends the command with no payload, but for SUBMIT's. -/
theorem refuse_eq {s : State} {m : Nat} {w : Work} (h : (mbxAt s m).work = some w) (status d : Nat) :
    refuse s m status d = finished s m w status (refusalPayload w.opcode s.time) d 0 := by
  simp only [refuse, h]
  exact respond_eq h status _ d 0

/-- The command that may run now is the one in progress, with its opcode. -/
theorem workOf_some {s : State} {m op : Nat} {w : Work} (h : workOf s m op = some w) :
    (mbxAt s m).work = some w ∧ w.opcode = op ∧ mustWait s m w = false ∧ s.dev.foremanDead = false := by
  unfold workOf at h
  split at h
  · rename_i w' hw
    split at h
    · cases h
      simp_all
    · cases h
  · cases h

/-- A command whose fields are in range goes on with them. -/
theorem command_fields {α : Type} {s : State} {m op : Nat} {w : Work} (h : workOf s m op = some w) (x : α)
    (go : Work → α → State) : command s m op (.fields x) go = go w x := by simp [command, h]

/-- A command without fields goes on when its length is zero. -/
theorem commandBare_go {s : State} {m op : Nat} {w : Work} (h : workOf s m op = some w) (hl : w.length = 0)
    (go : Work → State) : commandBare s m op go = go w := by simp [commandBare, h, hl]

/-- The mailbox that an answer leaves. -/
theorem finished_mbx {s : State} {m : Nat} {w : Work} {st p d e} :
    (finished s m w st p d e).mbx = s.mbx.modify m fun b =>
      { b with header := answerHeader s w st p d e, payload := p,
               stored := (⟨w.seq, w.opcode, w.ctx, w.length, w.crc, answerHeader s w st p d e, p⟩ :: b.stored).take 64,
               work := none } := rfl

/-- Mailbox m after a change of it. -/
theorem mbxAt_setMbx_same {s : State} {m : Nat} {f : Mailbox → Mailbox} (h : m < s.mbx.length) :
    mbxAt (setMbx s m f) m = f (mbxAt s m) := by
  simp [mbxAt, setMbx, at', h]

/-- Another mailbox after a change. -/
theorem mbxAt_setMbx_other {s : State} {m k : Nat} {f : Mailbox → Mailbox} (h : k ≠ m) :
    mbxAt (setMbx s m f) k = mbxAt s k := by
  simp [mbxAt, setMbx, at', Ne.symm h]

/-- A command in progress stands on an existing mailbox. -/
theorem work_lt {s : State} {m : Nat} {w : Work} (h : (mbxAt s m).work = some w) : m < s.mbx.length := by
  apply Nat.lt_of_not_le
  intro hle
  simp [mbxAt, at', List.getElem?_eq_none hle] at h

/-! ### The Tally (R387, R388) -/

/-- An event that does not merge becomes the newest record of the ring, under the next SEQUENCE. -/
theorem event_new {t : Tally} {r : TallyRec} (h : t.merges r = false) :
    (t.event r).count = t.count + 1 ∧
    (t.event r).ring = keepLast 4096 (t.ring ++ [{ r with repeats := 0, seq := t.count % 65536 }]) := by
  simp [Tally.event, h]

/-- A merged event makes no record. -/
theorem event_merged {t : Tally} {r : TallyRec} (h : t.merges r = true) :
    (t.event r).count = t.count ∧ (t.event r).ring = modifyLast TallyRec.again t.ring := by
  simp [Tally.event, h]

theorem modifyLast_length {α : Type} (f : α → α) (l : List α) : (modifyLast f l).length = l.length := by
  induction l with
  | nil => rfl
  | cons x l ih => cases l with
    | nil => rfl
    | cons y l => simpa [modifyLast] using ih

/-! ### Messages (R319) -/

/-- A message that nothing holds is sent. -/
theorem signal_sent {s : State} {v : Nat} (h : s.link.holds v = false) :
    signal s v = { s with link := { s.link with sent := s.link.sent ++ [v] } } := by simp [signal, h]

/-- A held message waits. -/
theorem signal_held {s : State} {v : Nat} (h : s.link.holds v = true) :
    signal s v = { s with link := { s.link with pendingBits := s.link.pendingBits.set v true } } := by simp [signal, h]

/-! ### Fatal errors and resets (R373, R334) -/

/-- Outside OFF and HALT a fatal error ends in HALT; in them it changes nothing. -/
theorem fatalWith_off {a n} {s : State} {c o p q r t : Nat} (h : s.dev.state = .off ∨ s.dev.state = .halt) :
    fatalWith a n s c o p q r t = s := by
  unfold fatalWith
  rcases h with h | h <;> simp [h]

@[simp] theorem deviceReset_state (s : State) : (deviceReset s).dev.state = .off := rfl
@[simp] theorem deviceReset_pending (s : State) : (deviceReset s).pending = s.pending := rfl
@[simp] theorem deviceReset_flash (s : State) : (deviceReset s).flash = s.flash := rfl
@[simp] theorem deviceReset_mbx (s : State) : (deviceReset s).mbx = List.replicate 64 {} := rfl
@[simp] theorem beginStart_state (s : State) : (beginStart s).dev.state = .start := rfl

/-! ### Instances of the running step (R55) -/

/-- An instance that may start has its effect, on its length table as read, and is marked. -/
theorem onInstance_runs {s : State} {i : InstId} {op : Nat} {go : Run → Desc → State → State} {r : Run} {d : Desc}
    (hr : s.sched.run = some r) (hd : r.adm.image.descs[i.index]? = some d) (ho : d.opcode = op)
    (hm : mayStart s r i d = true) (hs : s.dev.state ≠ .halt) : onInstance s i op go = startInstance s r i d go := by
  simp [onInstance, hr, hd, ho, hm, hs]

/-- What mayStart tests. -/
theorem mayStart_iff {s : State} {r : Run} {i : InstId} {d : Desc} : mayStart s r i d = true ↔ startable s r i d := by
  unfold mayStart startable
  simp only [Bool.and_eq_true, Bool.not_eq_true', Bool.or_eq_true, List.all_eq_true, List.contains_eq_mem, decide_eq_false_iff_not,
    beq_eq_false_iff_ne, Bool.and_eq_false_iff]
  constructor
  · rintro ⟨⟨⟨⟨⟨⟨⟨⟨⟨h1, h2⟩, h3⟩, h4⟩, h5⟩, h6⟩, h7⟩, h8⟩, h9⟩, h10⟩
    refine ⟨h1, h2, h3, ?_, ?_, h6, h7, h8, h9, h10⟩
    · rintro ⟨a, b⟩
      rcases h4 with h | h
      · simp [a] at h
      · exact h b
    · intro ho
      rcases h5 with h | h
      · exact absurd ho h
      · refine ⟨h.1.1, fun hs => ?_, h.2⟩
        rcases h.1.2 with q | q
        · simp [hs] at q
        · exact q
  · rintro ⟨h1, h2, h3, h4, h5, h6, h7, h8, h9, h10⟩
    refine ⟨⟨⟨⟨⟨⟨⟨⟨⟨h1, h2⟩, h3⟩, ?_⟩, ?_⟩, h6⟩, h7⟩, h8⟩, h9⟩, h10⟩
    · by_cases a : (mbLoopOf r.adm.image d).isSome = true
      · exact .inr fun b => h4 ⟨a, b⟩
      · exact .inl (by simpa using a)
    · by_cases ho : d.opcode = 8
      · have := h5 ho
        refine .inr ⟨⟨this.1, ?_⟩, this.2.2⟩
        cases hs : r.adm.securing
        · exact .inl rfl
        · exact .inr (this.2.1 hs)
      · exact .inl ho

end Sys2Proof.Machine
end

