-- ==== Sys2Proof/Laws/Still.lean ====
section
/-!
SUPPORT. What no instance of the running step changes: for each shared operation and each instance's effect, one lemma that says
the fields of `Still` stay as they are.
-/

namespace Sys2Proof.Machine

set_option maxRecDepth 8000
set_option linter.unreachableTactic false
set_option linter.unusedTactic false

/-- `t` differs from `s` in none of these fields. -/
structure Still (s t : State) : Prop where
  time : t.time = s.time
  pending : t.pending = s.pending
  board : t.board = s.board
  dev : t.dev = s.dev
  link : t.link = s.link
  regs : t.regs = s.regs
  mbx : t.mbx = s.mbx
  cfg : t.cfg = s.cfg
  hbm : t.hbm = s.hbm
  mem : t.mem = s.mem
  spdm : t.spdm = s.spdm
  queue : t.sched.queue = s.sched.queue
  current : t.sched.current = s.sched.current
  slots : t.flash.slots = s.flash.slots
  configs : t.flash.configs = s.flash.configs
  adm : t.sched.run.map (fun r => r.adm) = s.sched.run.map (fun r => r.adm)
  executed : t.sched.run.map (fun r => r.executed) = s.sched.run.map (fun r => r.executed)
  complete : t.sched.run.map (fun r => r.complete) = s.sched.run.map (fun r => r.complete)

@[simp] theorem Still.refl (s : State) : Still s s := by constructor <;> rfl

theorem Still.trans {s t u : State} (a : Still s t) (b : Still t u) : Still s u := by
  cases a; cases b; constructor <;> simp_all

theorem Still.symm {s t : State} (a : Still s t) : Still t s := by
  cases a; constructor <;> simp_all

theorem Still.iff {s t u : State} (a : Still t u) : Still s u ↔ Still s t :=
  ⟨fun h => h.trans a.symm, fun h => h.trans a⟩

@[simp] theorem still_ite {s a b : State} {c : Prop} [Decidable c] :
    Still s (if c then a else b) ↔ if c then Still s a else Still s b := by split <;> rfl

@[simp] theorem still_foldl {α : Type} {f : State → α → State} (h : ∀ t x, Still t (f t x)) (s t : State) (l : List α) :
    Still s (l.foldl f t) ↔ Still s t := by
  refine Still.iff ?_
  induction l generalizing t with
  | nil => exact Still.refl _
  | cons x l ih => exact (h t x).trans (ih _)

@[simp] theorem still_foldl_fst {α β : Type} {f : State × β → α → State × β} (h : ∀ t x, Still t.1 (f t x).1) (s : State) (t : State × β) (l : List α) :
    Still s (l.foldl f t).1 ↔ Still s t.1 := by
  refine Still.iff ?_
  induction l generalizing t with
  | nil => exact Still.refl _
  | cons x l ih => exact (h t x).trans (ih _)

@[simp] theorem still_mk {s t : State} {fr f ta g i cx k j sc stm fa v}
    (h1 : f.slots = t.flash.slots) (h2 : f.configs = t.flash.configs)
    (h3 : sc.queue = t.sched.queue) (h4 : sc.current = t.sched.current)
    (h5 : sc.run.map (fun r => r.adm) = t.sched.run.map (fun r => r.adm))
    (h6 : sc.run.map (fun r => r.executed) = t.sched.run.map (fun r => r.executed))
    (h7 : sc.run.map (fun r => r.complete) = t.sched.run.map (fun r => r.complete)) :
    Still s ⟨t.time, fr, t.pending, t.board, t.dev, t.link, t.regs, t.mbx, t.cfg, f, ta, g, t.hbm, i, t.mem, cx, k, j, sc, stm, fa, v, t.spdm⟩ ↔ Still s t :=
  Still.iff ⟨rfl, rfl, rfl, rfl, rfl, rfl, rfl, rfl, rfl, rfl, rfl, h3, h4, h1, h2, h5, h6, h7⟩

@[simp] theorem freshValue_still {s t : State} {n : Nat} : Still s (freshValue t n).2 ↔ Still s t := by simp [freshValue]

@[simp] theorem still_setRun {s t : State} {f : Run → Run} (h1 : ∀ r, (f r).adm = r.adm) (h2 : ∀ r, (f r).executed = r.executed)
    (h3 : ∀ r, (f r).complete = r.complete) : Still s (setRun t f) ↔ Still s t := by
  have a : (t.sched.run.map f).map (fun r => r.adm) = t.sched.run.map (fun r => r.adm) := by
    cases t.sched.run <;> simp [h1]
  have b : (t.sched.run.map f).map (fun r => r.executed) = t.sched.run.map (fun r => r.executed) := by
    cases t.sched.run <;> simp [h2]
  have c : (t.sched.run.map f).map (fun r => r.complete) = t.sched.run.map (fun r => r.complete) := by
    cases t.sched.run <;> simp [h3]
  simp [setRun, a, b, c]

@[simp] theorem tally_still (z s : State) (code source severity p0 p1 p2 p3 : Nat) : Still z (tally s code source severity p0 p1 p2 p3) ↔ Still z s := by
  unfold tally
  simp (maxDischargeDepth := 9)

@[simp] theorem setJob_still (z s : State) (j : Nat) (f : Job → Job) : Still z (setJob s j f) ↔ Still z s := by
  unfold setJob
  repeat' first
    | exact Iff.rfl
    | exact Still.refl _
    | (simp (maxDischargeDepth := 9); done)
    | split
    | (refine (still_foldl (fun t x => ?_) _ _ _).trans ?_ <;> try dsimp only)
    | (refine (still_foldl (fun t x => ?_) _ _ _).2 ?_ <;> try dsimp only)
    | (refine (still_setRun ?_ ?_ ?_).2 ?_ <;> (try (intro _; rfl)))
    | (simp; split)

@[simp] theorem count_still (z s : State) (j : Nat) (f : Counters → Counters) : Still z (count s j f) ↔ Still z s := by
  unfold count
  simp (maxDischargeDepth := 9)

@[simp] theorem setCtx_still (z s : State) (c : Nat) (f : Context → Context) : Still z (setCtx s c f) ↔ Still z s := by
  unfold setCtx
  simp (maxDischargeDepth := 9)

@[simp] theorem setObj_still (z s : State) (c o : Nat) (f : Obj → Obj) : Still z (setObj s c o f) ↔ Still z s := by
  unfold setObj
  simp (maxDischargeDepth := 9)

@[simp] theorem setScale_still (z s : State) (c i : Nat) (f : ScaleEntry → ScaleEntry) : Still z (setScale s c i f) ↔ Still z s := by
  unfold setScale
  simp (maxDischargeDepth := 9)

@[simp] theorem setRecord_still (z s : State) (job step : Nat) (f : StepRec → StepRec) : Still z (setRecord s job step f) ↔ Still z s := by
  unfold setRecord
  simp (maxDischargeDepth := 9)

@[simp] theorem voidRecords_still {z s : State} {c : Nat} {l : List Admitted} {seen : List Nat} :
    Still z (voidRecords s c l seen) ↔ Still z s := by
  induction l generalizing s seen with
  | nil => simp [voidRecords]
  | cons a l ih => unfold voidRecords; split <;> simp [ih]

@[simp] theorem stopPorts_still (z s : State) : Still z (stopPorts s) ↔ Still z s := by
  unfold stopPorts
  simp (maxDischargeDepth := 9)

@[simp] theorem stopIslands_still (z s : State) : Still z (stopIslands s) ↔ Still z s := by
  unfold stopIslands
  simp (maxDischargeDepth := 9)

@[simp] theorem recordStats_still (z s : State) (ctx : Nat) (e : ObjEntry) (st : Stats) : Still z (recordStats s ctx e st) ↔ Still z s := by
  unfold recordStats
  repeat' first
    | exact Iff.rfl
    | exact Still.refl _
    | (simp (maxDischargeDepth := 9); done)
    | split
    | (refine (still_foldl (fun t x => ?_) _ _ _).trans ?_ <;> try dsimp only)
    | (refine (still_foldl (fun t x => ?_) _ _ _).2 ?_ <;> try dsimp only)
    | (refine (still_setRun ?_ ?_ ?_).2 ?_ <;> (try (intro _; rfl)))
    | (simp; split)

@[simp] theorem countTiles_still (z s : State) (ctx : Nat) (o : Obj) (eT : Int) (limit : Dy) (tiles : List Nat) : Still z (countTiles s ctx o eT limit tiles) ↔ Still z s := by
  unfold countTiles
  repeat' first
    | exact Iff.rfl
    | exact Still.refl _
    | (simp (maxDischargeDepth := 9); done)
    | split
    | (refine (still_foldl (fun t x => ?_) _ _ _).trans ?_ <;> try dsimp only)
    | (refine (still_foldl (fun t x => ?_) _ _ _).2 ?_ <;> try dsimp only)
    | (refine (still_setRun ?_ ?_ ?_).2 ?_ <;> (try (intro _; rfl)))
    | (simp; split)

@[simp] theorem ensureObj_still (z s : State) (img : Image) (n : Nat) : Still z (ensureObj s img n) ↔ Still z s := by
  unfold ensureObj
  repeat' first
    | exact Iff.rfl
    | exact Still.refl _
    | (simp (maxDischargeDepth := 9); done)
    | split
    | (refine (still_foldl (fun t x => ?_) _ _ _).trans ?_ <;> try dsimp only)
    | (refine (still_foldl (fun t x => ?_) _ _ _).2 ?_ <;> try dsimp only)
    | (refine (still_setRun ?_ ?_ ?_).2 ?_ <;> (try (intro _; rfl)))
    | (simp; split)

@[simp] theorem writeTile_still (z s : State) (img : Image) (n t : Nat) (val : Nat → Nat → FVal) (pres : Bool) : Still z (writeTile s img n t val pres) ↔ Still z s := by
  unfold writeTile
  repeat' first
    | exact Iff.rfl
    | exact Still.refl _
    | (simp (maxDischargeDepth := 9); done)
    | split
    | (refine (still_foldl (fun t x => ?_) _ _ _).trans ?_ <;> try dsimp only)
    | (refine (still_foldl (fun t x => ?_) _ _ _).2 ?_ <;> try dsimp only)
    | (refine (still_setRun ?_ ?_ ?_).2 ?_ <;> (try (intro _; rfl)))
    | (simp; split)

@[simp] theorem writeIntBytes_still (z s : State) (img : Image) (n : Nat) (pos : Nat) (bs : List Byte) (st : Stats) : Still z (writeIntBytes s img n pos bs st) ↔ Still z s := by
  unfold writeIntBytes
  repeat' first
    | exact Iff.rfl
    | exact Still.refl _
    | (simp (maxDischargeDepth := 9); done)
    | split
    | (refine (still_foldl (fun t x => ?_) _ _ _).trans ?_ <;> try dsimp only)
    | (refine (still_foldl (fun t x => ?_) _ _ _).2 ?_ <;> try dsimp only)
    | (refine (still_setRun ?_ ?_ ?_).2 ?_ <;> (try (intro _; rfl)))
    | (simp; split)

@[simp] theorem writeRange_still (z s : State) (img : Image) (n : Nat) (base : Nat) (kx : Nat) (nx : Nat) (acc : Bool) (val : Nat → Nat → FVal) (keep : Nat → Bool) (pres : Nat → Nat → Bool) (skip : Nat → Bool) : Still z (writeRange s img n base kx nx acc val keep pres skip) ↔ Still z s := by
  unfold writeRange
  repeat' first
    | exact Iff.rfl
    | exact Still.refl _
    | (simp (maxDischargeDepth := 9); done)
    | split
    | (refine (still_foldl (fun t x => ?_) _ _ _).trans ?_ <;> try dsimp only)
    | (refine (still_foldl (fun t x => ?_) _ _ _).2 ?_ <;> try dsimp only)
    | (refine (still_setRun ?_ ?_ ?_).2 ?_ <;> (try (intro _; rfl)))
    | (simp; split)

@[simp] theorem inShadow_still {z s : State} {job h} {f : State → State} (hf : ∀ u, Still u (f u)) : Still z (inShadow s job h f) ↔ Still z s := by
  refine Still.iff ?_
  unfold inShadow
  have := hf { s with ctxs := h.ctx :: s.ctxs }
  exact Still.trans (by simp) (Still.trans this (by simp))

@[simp] theorem lengthsFor_still (z s : State) (r : Run) (d : Desc) : Still z (lengthsFor s r d).2 ↔ Still z s := by
  unfold lengthsFor
  repeat' first
    | exact Iff.rfl
    | exact Still.refl _
    | (simp (maxDischargeDepth := 9); done)
    | split
    | (refine (still_foldl (fun t x => ?_) _ _ _).trans ?_ <;> try dsimp only)
    | (refine (still_foldl (fun t x => ?_) _ _ _).2 ?_ <;> try dsimp only)
    | (refine (still_setRun ?_ ?_ ?_).2 ?_ <;> (try (intro _; rfl)))
    | (simp; split)

@[simp] theorem readLens_still (z s : State) (r : Run) (i : InstId) (d : Desc) : Still z (readLens s r i d).1 ↔ Still z s := by
  unfold readLens
  repeat' first
    | exact Iff.rfl
    | exact Still.refl _
    | (simp (maxDischargeDepth := 9); done)
    | split
    | (refine (still_foldl (fun t x => ?_) _ _ _).trans ?_ <;> try dsimp only)
    | (refine (still_foldl (fun t x => ?_) _ _ _).2 ?_ <;> try dsimp only)
    | (refine (still_setRun ?_ ?_ ?_).2 ?_ <;> (try (intro _; rfl)))
    | (simp; split)

@[simp] theorem addTiles_still (z s : State) (i : InstId) (g : Nat) (n : Nat) : Still z (addTiles s i g n) ↔ Still z s := by
  unfold addTiles
  repeat' first
    | exact Iff.rfl
    | exact Still.refl _
    | (simp (maxDischargeDepth := 9); done)
    | split
    | (refine (still_foldl (fun t x => ?_) _ _ _).trans ?_ <;> try dsimp only)
    | (refine (still_foldl (fun t x => ?_) _ _ _).2 ?_ <;> try dsimp only)
    | (refine (still_setRun ?_ ?_ ?_).2 ?_ <;> (try (intro _; rfl)))
    | (simp; split)

@[simp] theorem dealList_still (z s : State) (i : InstId) (gs : List Nat) (share : Nat) (units : List Nat) : Still z (dealList s i gs share units) ↔ Still z s := by
  unfold dealList
  repeat' first
    | exact Iff.rfl
    | exact Still.refl _
    | (simp (maxDischargeDepth := 9); done)
    | split
    | (refine (still_foldl (fun t x => ?_) _ _ _).trans ?_ <;> try dsimp only)
    | (refine (still_foldl (fun t x => ?_) _ _ _).2 ?_ <;> try dsimp only)
    | (refine (still_setRun ?_ ?_ ?_).2 ?_ <;> (try (intro _; rfl)))
    | (simp; split)

@[simp] theorem dealDeclared_still (z s : State) (i : InstId) (gs : List Nat) (declared : Nat) (units : Nat) (tilesEach : Nat) : Still z (dealDeclared s i gs declared units tilesEach) ↔ Still z s := by
  unfold dealDeclared
  repeat' first
    | exact Iff.rfl
    | exact Still.refl _
    | (simp (maxDischargeDepth := 9); done)
    | split
    | (refine (still_foldl (fun t x => ?_) _ _ _).trans ?_ <;> try dsimp only)
    | (refine (still_foldl (fun t x => ?_) _ _ _).2 ?_ <;> try dsimp only)
    | (refine (still_setRun ?_ ?_ ?_).2 ?_ <;> (try (intro _; rfl)))
    | (simp; split)

@[simp] theorem dealUnits_still (z s : State) (i : InstId) (gs : List Nat) (units tilesEach : Nat) : Still z (dealUnits s i gs units tilesEach) ↔ Still z s := by
  simp [dealUnits]

@[simp] theorem setTag_still (z s : State) (t : Option Nat) : Still z (setTag s t) ↔ Still z s := by
  unfold setTag
  repeat' first
    | exact Iff.rfl
    | exact Still.refl _
    | (simp (maxDischargeDepth := 9); done)
    | split
    | (refine (still_foldl (fun t x => ?_) _ _ _).trans ?_ <;> try dsimp only)
    | (refine (still_foldl (fun t x => ?_) _ _ _).2 ?_ <;> try dsimp only)
    | (refine (still_setRun ?_ ?_ ?_).2 ?_ <;> (try (intro _; rfl)))
    | (simp; split)

@[simp] theorem setVec_still (z s : State) (g : Nat) (e : VecEngine) : Still z (setVec s g e) ↔ Still z s := by
  unfold setVec
  simp (maxDischargeDepth := 9)

@[simp] theorem vecDo_still (z s : State) (g : Nat) (f : VecEngine → VecEngine) : Still z (vecDo s g f) ↔ Still z s := by
  unfold vecDo
  simp (maxDischargeDepth := 9)

@[simp] theorem lanes1_still (z s : State) (g : Nat) (f : VFields) (op : Word → Word) : Still z (lanes1 s g f op) ↔ Still z s := by
  unfold lanes1
  simp (maxDischargeDepth := 9)

@[simp] theorem lanes2_still (z s : State) (g : Nat) (f : VFields) (op : Word → Word → Word) : Still z (lanes2 s g f op) ↔ Still z s := by
  unfold lanes2
  simp (maxDischargeDepth := 9)

@[simp] theorem scalars2_still (z s : State) (g : Nat) (f : VFields) (op : Word → Word → Word) : Still z (scalars2 s g f op) ↔ Still z s := by
  unfold scalars2
  simp (maxDischargeDepth := 9)

@[simp] theorem scalars1_still (z s : State) (g : Nat) (f : VFields) (op : Word → Word) : Still z (scalars1 s g f op) ↔ Still z s := by
  unfold scalars1
  simp (maxDischargeDepth := 9)

@[simp] theorem compareLanes_still (z s : State) (g : Nat) (f : VFields) (op : Word → Word → Bool) : Still z (compareLanes s g f op) ↔ Still z s := by
  unfold compareLanes
  simp (maxDischargeDepth := 9)

@[simp] theorem recordRun_still (z s : State) (e : VecEngine) (scale : Nat) (st : Stats) : Still z (recordRun s e scale st) ↔ Still z s := by
  unfold recordRun
  repeat' first
    | exact Iff.rfl
    | exact Still.refl _
    | (simp (maxDischargeDepth := 9); done)
    | split
    | (refine (still_foldl (fun t x => ?_) _ _ _).trans ?_ <;> try dsimp only)
    | (refine (still_foldl (fun t x => ?_) _ _ _).2 ?_ <;> try dsimp only)
    | (refine (still_setRun ?_ ?_ ?_).2 ?_ <;> (try (intro _; rfl)))
    | (simp; split)

@[simp] theorem recordOperand_still (z s : State) (e : VecEngine) (m : Nat) (st : Stats) : Still z (recordOperand s e m st) ↔ Still z s := by
  unfold recordOperand
  repeat' first
    | exact Iff.rfl
    | exact Still.refl _
    | (simp (maxDischargeDepth := 9); done)
    | split
    | (refine (still_foldl (fun t x => ?_) _ _ _).trans ?_ <;> try dsimp only)
    | (refine (still_foldl (fun t x => ?_) _ _ _).2 ?_ <;> try dsimp only)
    | (refine (still_setRun ?_ ?_ ?_).2 ?_ <;> (try (intro _; rfl)))
    | (simp; split)

@[simp] theorem recordStore_still (z s : State) (g : Nat) (m : Nat) (slot : Nat) (st : Stats) : Still z (recordStore s g m slot st) ↔ Still z s := by
  unfold recordStore
  repeat' first
    | exact Iff.rfl
    | exact Still.refl _
    | (simp (maxDischargeDepth := 9); done)
    | split
    | (refine (still_foldl (fun t x => ?_) _ _ _).trans ?_ <;> try dsimp only)
    | (refine (still_foldl (fun t x => ?_) _ _ _).2 ?_ <;> try dsimp only)
    | (refine (still_setRun ?_ ?_ ?_).2 ?_ <;> (try (intro _; rfl)))
    | (simp; split)

@[simp] theorem reduceLanes_still (z s : State) (g : Nat) (f : VFields) (unit : Word) (op : Word → Word → Word) : Still z (reduceLanes s g f unit op) ↔ Still z s := by
  unfold reduceLanes
  simp (maxDischargeDepth := 9)

@[simp] theorem windowFault_still (z s : State) (g : Nat) (slot : Nat) : Still z (windowFault s g slot) ↔ Still z s := by
  unfold windowFault
  repeat' first
    | exact Iff.rfl
    | exact Still.refl _
    | (simp (maxDischargeDepth := 9); done)
    | split
    | (refine (still_foldl (fun t x => ?_) _ _ _).trans ?_ <;> try dsimp only)
    | (refine (still_foldl (fun t x => ?_) _ _ _).2 ?_ <;> try dsimp only)
    | (refine (still_setRun ?_ ?_ ?_).2 ?_ <;> (try (intro _; rfl)))
    | (simp; split)

@[simp] theorem setWindow_still (z s : State) (g m : Nat) (at_ : Nat) (bs : List Byte) : Still z (setWindow s g m at_ bs) ↔ Still z s := by
  unfold setWindow
  simp (maxDischargeDepth := 9)

@[simp] theorem storeBlocks_still (z s : State) (g m : Nat) (w : Window) (slot : Nat) (bs : List (Nat × List Int)) : Still z (storeBlocks s g m w slot bs) ↔ Still z s := by
  unfold storeBlocks
  simp (maxDischargeDepth := 9)

@[simp] theorem storeSlot_still (z s : State) (g : Nat) (m : Nat) (w : Window) (slot : Nat) (act : Nat) (lo : List Word) (hi : List Word) : Still z (storeSlot s g m w slot act lo hi) ↔ Still z s := by
  unfold storeSlot
  repeat' first
    | exact Iff.rfl
    | exact Still.refl _
    | (simp (maxDischargeDepth := 9); done)
    | split
    | (refine (still_foldl (fun t x => ?_) _ _ _).trans ?_ <;> try dsimp only)
    | (refine (still_foldl (fun t x => ?_) _ _ _).2 ?_ <;> try dsimp only)
    | (refine (still_setRun ?_ ?_ ?_).2 ?_ <;> (try (intro _; rfl)))
    | (simp; split)

theorem exec_still_vec {op f} (h : vecOp op = some f) (g : Fin 128) (v : VFields) (s : State) :
    ∃ t, f g v s = .next t ∧ Still s t := by
  unfold vecOp at h
  repeat' split at h
  all_goals first
    | (cases h; done)
    | (cases h; refine ⟨_, rfl, ?_⟩; repeat' first
        | exact Iff.rfl
        | exact Still.refl _
        | (simp (maxDischargeDepth := 9); done)
        | split
        | (refine (still_foldl (fun t x => ?_) _ _ _).trans ?_ <;> try dsimp only)
        | (refine (still_foldl (fun t x => ?_) _ _ _).2 ?_ <;> try dsimp only)
        | (refine (still_setRun ?_ ?_ ?_).2 ?_ <;> (try (intro _; rfl)))
        | (simp; split))

@[simp] theorem vecWord_still {z s : State} {g w} : Still z (vecWord g w s) ↔ Still z s := by
  refine Still.iff ?_
  unfold vecWord
  split
  · simp [Outcome.orKeep, execHdr, done]
  · split
    · rename_i f h
      obtain ⟨t, ht, hf⟩ := exec_still_vec h g (vfieldsOfWord w.toNat) s
      simp only [ht, Outcome.orKeep, hf]
    · simp

@[simp] theorem runWords_still {z s : State} {g p n} : Still z (runWords g p n s) ↔ Still z s := by
  induction n generalizing s with
  | zero => simp [runWords]
  | succ n ih => unfold runWords; split <;> simp [ih]

@[simp] theorem Product.countBias_still (z s : State) (ctx : Nat) (p : Product) : Still z (Product.countBias s ctx p) ↔ Still z s := by
  unfold Product.countBias
  repeat' first
    | exact Iff.rfl
    | exact Still.refl _
    | (simp (maxDischargeDepth := 9); done)
    | split
    | (refine (still_foldl (fun t x => ?_) _ _ _).trans ?_ <;> try dsimp only)
    | (refine (still_foldl (fun t x => ?_) _ _ _).2 ?_ <;> try dsimp only)
    | (refine (still_setRun ?_ ?_ ?_).2 ?_ <;> (try (intro _; rfl)))
    | (simp; split)

@[simp] theorem keepCovered_still (z s : State) (i : InstId) (p : Product) (keep : Nat → Bool) (val : Nat → Nat → Dy) : Still z (keepCovered s i p keep val) ↔ Still z s := by
  unfold keepCovered
  repeat' first
    | exact Iff.rfl
    | exact Still.refl _
    | (simp (maxDischargeDepth := 9); done)
    | split
    | (refine (still_foldl (fun t x => ?_) _ _ _).trans ?_ <;> try dsimp only)
    | (refine (still_foldl (fun t x => ?_) _ _ _).2 ?_ <;> try dsimp only)
    | (refine (still_setRun ?_ ?_ ?_).2 ?_ <;> (try (intro _; rfl)))
    | (simp; split)

@[simp] theorem denseProduct_still (z s : State) (img : Image) (i : InstId) (p : Product) (keep : Nat → Bool) : Still z (denseProduct s img i p keep) ↔ Still z s := by
  unfold denseProduct
  repeat' first
    | exact Iff.rfl
    | exact Still.refl _
    | (simp (maxDischargeDepth := 9); done)
    | split
    | (refine (still_foldl (fun t x => ?_) _ _ _).trans ?_ <;> try dsimp only)
    | (refine (still_foldl (fun t x => ?_) _ _ _).2 ?_ <;> try dsimp only)
    | (refine (still_setRun ?_ ?_ ?_).2 ?_ <;> (try (intro _; rfl)))
    | (simp; split)

@[simp] theorem wideProduct_still (z s : State) (img : Image) (i : InstId) (p : Product) (limbs : Nat) (keep : Nat → Bool) : Still z (wideProduct s img i p limbs keep) ↔ Still z s := by
  unfold wideProduct
  repeat' first
    | exact Iff.rfl
    | exact Still.refl _
    | (simp (maxDischargeDepth := 9); done)
    | split
    | (refine (still_foldl (fun t x => ?_) _ _ _).trans ?_ <;> try dsimp only)
    | (refine (still_foldl (fun t x => ?_) _ _ _).2 ?_ <;> try dsimp only)
    | (refine (still_setRun ?_ ?_ ?_).2 ?_ <;> (try (intro _; rfl)))
    | (simp; split)

@[simp] theorem packedProblem_still (z s : State) (img : Image) (i : InstId) (p : Problem) (acc : Bool) (keep : Nat → Bool) : Still z (packedProblem s img i p acc keep) ↔ Still z s := by
  unfold packedProblem
  repeat' first
    | exact Iff.rfl
    | exact Still.refl _
    | (simp (maxDischargeDepth := 9); done)
    | split
    | (refine (still_foldl (fun t x => ?_) _ _ _).trans ?_ <;> try dsimp only)
    | (refine (still_foldl (fun t x => ?_) _ _ _).2 ?_ <;> try dsimp only)
    | (refine (still_setRun ?_ ?_ ?_).2 ?_ <;> (try (intro _; rfl)))
    | (simp; split)

@[simp] theorem matmulDo_still (z s : State) (i : InstId) (r : Run) (d : Desc) : Still z (matmulDo i r d s) ↔ Still z s := by
  unfold matmulDo
  repeat' first
    | exact Iff.rfl
    | exact Still.refl _
    | (simp (maxDischargeDepth := 9); done)
    | split
    | (refine (still_foldl (fun t x => ?_) _ _ _).trans ?_ <;> try dsimp only)
    | (refine (still_foldl (fun t x => ?_) _ _ _).2 ?_ <;> try dsimp only)
    | (refine (still_setRun ?_ ?_ ?_).2 ?_ <;> (try (intro _; rfl)))
    | (simp; split)

@[simp] theorem convDo_still (i : InstId) (r : Run) (d : Desc) (z s : State) : Still z (convDo i r d s) ↔ Still z s := by
  unfold convDo
  repeat' first
    | exact Iff.rfl
    | exact Still.refl _
    | (simp (maxDischargeDepth := 9); done)
    | split
    | (refine (still_foldl (fun t x => ?_) _ _ _).trans ?_ <;> try dsimp only)
    | (refine (still_foldl (fun t x => ?_) _ _ _).2 ?_ <;> try dsimp only)
    | (refine (still_setRun ?_ ?_ ?_).2 ?_ <;> (try (intro _; rfl)))
    | (simp; split)

@[simp] theorem convDeal_still (z s : State) (i : InstId) (r : Run) (d : Desc) : Still z (convDeal i r d s) ↔ Still z s := by
  unfold convDeal
  repeat' first
    | exact Iff.rfl
    | exact Still.refl _
    | (simp (maxDischargeDepth := 9); done)
    | split
    | (refine (still_foldl (fun t x => ?_) _ _ _).trans ?_ <;> try dsimp only)
    | (refine (still_foldl (fun t x => ?_) _ _ _).2 ?_ <;> try dsimp only)
    | (refine (still_setRun ?_ ?_ ?_).2 ?_ <;> (try (intro _; rfl)))
    | (simp; split)

@[simp] theorem freeFilter_still (z s : State) (die : Nat) (i : InstId) : Still z (freeFilter s die i) ↔ Still z s := by
  unfold freeFilter
  simp (maxDischargeDepth := 9)

@[simp] theorem attnDeal_still (z s : State) (i : InstId) (r : Run) (d : Desc) (live : List (List Nat)) : Still z (attnDeal s i r d live) ↔ Still z s := by
  unfold attnDeal
  repeat' first
    | exact Iff.rfl
    | exact Still.refl _
    | (simp (maxDischargeDepth := 9); done)
    | split
    | (refine (still_foldl (fun t x => ?_) _ _ _).trans ?_ <;> try dsimp only)
    | (refine (still_foldl (fun t x => ?_) _ _ _).2 ?_ <;> try dsimp only)
    | (refine (still_setRun ?_ ?_ ?_).2 ?_ <;> (try (intro _; rfl)))
    | (simp; split)

@[simp] theorem countTokens_still (z s : State) (ctx : Nat) (o : Obj) (base : Nat) (features : Nat) (alongK : Bool) (tokens : List (Nat × Nat)) : Still z (countTokens s ctx o base features alongK tokens) ↔ Still z s := by
  unfold countTokens
  repeat' first
    | exact Iff.rfl
    | exact Still.refl _
    | (simp (maxDischargeDepth := 9); done)
    | split
    | (refine (still_foldl (fun t x => ?_) _ _ _).trans ?_ <;> try dsimp only)
    | (refine (still_foldl (fun t x => ?_) _ _ _).2 ?_ <;> try dsimp only)
    | (refine (still_setRun ?_ ?_ ?_).2 ?_ <;> (try (intro _; rfl)))
    | (simp; split)

@[simp] theorem evictedRead_still (z s : State) (r : Run) (d : Desc) (kv : Obj) (v : SeqView) (g : Nat) (att : List Nat) : Still z (evictedRead s r d kv v g att) ↔ Still z s := by
  unfold evictedRead
  simp (maxDischargeDepth := 9)

@[simp] theorem scoreDo_still (i : InstId) (r : Run) (d : Desc) (z s : State) : Still z (scoreDo i r d s) ↔ Still z s := by
  unfold scoreDo
  repeat' first
    | exact Iff.rfl
    | exact Still.refl _
    | (simp (maxDischargeDepth := 9); done)
    | split
    | (refine (still_foldl (fun t x => ?_) _ _ _).trans ?_ <;> try dsimp only)
    | (refine (still_foldl (fun t x => ?_) _ _ _).2 ?_ <;> try dsimp only)
    | (refine (still_setRun ?_ ?_ ?_).2 ?_ <;> (try (intro _; rfl)))
    | (simp; split)

@[simp] theorem applyDo_still (i : InstId) (r : Run) (d : Desc) (z s : State) : Still z (applyDo i r d s) ↔ Still z s := by
  unfold applyDo
  repeat' first
    | exact Iff.rfl
    | exact Still.refl _
    | (simp (maxDischargeDepth := 9); done)
    | split
    | (refine (still_foldl (fun t x => ?_) _ _ _).trans ?_ <;> try dsimp only)
    | (refine (still_foldl (fun t x => ?_) _ _ _).2 ?_ <;> try dsimp only)
    | (refine (still_setRun ?_ ?_ ?_).2 ?_ <;> (try (intro _; rfl)))
    | (simp; split)

/-- The page pool and the counter of free values are no field of `Still`. -/
theorem still_kvFresh {z t : State} (k : KvPool) (n : Nat) :
    Still z { t with kv := k, fresh := n } ↔ Still z t :=
  ⟨fun h => { h with }, fun h => { h with }⟩

@[simp] theorem evictPage_still (z s : State) (i : InstId) (step : Nat) (p : Page) : Still z (evictPage s i step p) ↔ Still z s := by
  unfold evictPage
  extract_lets e kv s1 s2 s3 k reg
  have h1 : Still z s1 ↔ Still z s := by simp [s1]
  have h2 : Still z s2 ↔ Still z s1 := by
    simp only [s2]
    generalize e = e'
    cases e'
    · exact Iff.rfl
    · exact still_setRun (fun _ => rfl) (fun _ => rfl) (fun _ => rfl)
  have h3 : Still z s3 ↔ Still z s2 := tally_still ..
  refine Iff.trans ?_ (h3.trans (h2.trans h1))
  clear_value s3
  split
  · split
    · simp
    · exact still_kvFresh _ _
  · rfl

@[simp] theorem storeGroup_still {z s : State} {r d t bx4 eK eV a g key val} :
    Still z (storeGroup s r d t bx4 eK eV a g key val) ↔ Still z s := by
  unfold storeGroup
  refine (still_foldl (fun t x => ?_) _ _ _)
  dsimp only
  split <;> simp

@[simp] theorem appendFailed_still (z s : State) (d : Desc) (status need avail : Nat) : Still z (appendFailed s d status need avail) ↔ Still z s := by
  unfold appendFailed
  simp (maxDischargeDepth := 9)

@[simp] theorem appendDo_still (z s : State) (i : InstId) (r : Run) (d : Desc) : Still z (appendDo i r d s) ↔ Still z s := by
  unfold appendDo
  repeat' first
    | exact Iff.rfl
    | exact Still.refl _
    | (simp (maxDischargeDepth := 9); done)
    | split
    | (refine (still_foldl (fun t x => ?_) _ _ _).trans ?_ <;> try dsimp only)
    | (refine (still_foldl (fun t x => ?_) _ _ _).2 ?_ <;> try dsimp only)
    | (refine (still_setRun ?_ ?_ ?_).2 ?_ <;> (try (intro _; rfl)))
    | (simp; split)

@[simp] theorem appendComplete_still (z s : State) (r : Run) (i : InstId) (d : Desc) : Still z (appendComplete s r i d) ↔ Still z s := by
  unfold appendComplete
  repeat' first
    | exact Iff.rfl
    | exact Still.refl _
    | (simp (maxDischargeDepth := 9); done)
    | split
    | (refine (still_foldl (fun t x => ?_) _ _ _).trans ?_ <;> try dsimp only)
    | (refine (still_foldl (fun t x => ?_) _ _ _).2 ?_ <;> try dsimp only)
    | (refine (still_setRun ?_ ?_ ?_).2 ?_ <;> (try (intro _; rfl)))
    | (simp; split)

@[simp] theorem selectDo_still (z s : State) (i : InstId) (r : Run) (d : Desc) : Still z (selectDo i r d s) ↔ Still z s := by
  unfold selectDo
  repeat' first
    | exact Iff.rfl
    | exact Still.refl _
    | (simp (maxDischargeDepth := 9); done)
    | split
    | (refine (still_foldl (fun t x => ?_) _ _ _).trans ?_ <;> try dsimp only)
    | (refine (still_foldl (fun t x => ?_) _ _ _).2 ?_ <;> try dsimp only)
    | (refine (still_setRun ?_ ?_ ?_).2 ?_ <;> (try (intro _; rfl)))
    | (simp; split)

@[simp] theorem beginRun_still (z s : State) (g : Nat) (i : InstId) (r : Run) (d : Desc) (q : Nat) : Still z (beginRun s g i r d q) ↔ Still z s := by
  unfold beginRun
  simp (maxDischargeDepth := 9)

@[simp] theorem drainWindow_still (z s : State) (i : InstId) (r : Run) (d : Desc) (e : VecEngine) (pres : Bool) (m : Nat) (w : Window) : Still z (drainWindow i r d e pres s m w) ↔ Still z s := by
  unfold drainWindow
  repeat' first
    | exact Iff.rfl
    | exact Still.refl _
    | (simp (maxDischargeDepth := 9); done)
    | split
    | (refine (still_foldl (fun t x => ?_) _ _ _).trans ?_ <;> try dsimp only)
    | (refine (still_foldl (fun t x => ?_) _ _ _).2 ?_ <;> try dsimp only)
    | (refine (still_setRun ?_ ?_ ?_).2 ?_ <;> (try (intro _; rfl)))
    | (simp; split)

@[simp] theorem endRun_still {z s : State} {i r d g} : Still z (endRun i r d s g) ↔ Still z s := by
  unfold endRun
  dsimp only
  simp only [still_mk]
  refine (still_foldl (fun t x => ?_) _ _ _)
  split <;> simp

@[simp] theorem wholeRun_still {z s : State} {g i r d q} : Still z (wholeRun g i r d q s) ↔ Still z s := by
  simp [wholeRun, beginRun]

@[simp] theorem vecInstDo_still {z s : State} {i r d} : Still z (vecInstDo i r d s) ↔ Still z s := by simp [vecInstDo]

@[simp] theorem putOther_still (z s : State) (ctx n t : Nat) (bs : List Byte) : Still z (putOther s ctx n t bs) ↔ Still z s := by
  unfold putOther
  simp (maxDischargeDepth := 9)

@[simp] theorem openOther_still (z s : State) (ctx n : Nat) : Still z (openOther s ctx n) ↔ Still z s := by
  unfold openOther
  simp (maxDischargeDepth := 9)

@[simp] theorem ruleSTile_still (z s : State) (r : Run) (d : Desc) (sigma : Word) (p g m : Obj) (t : Nat) : Still z (ruleSTile s r d sigma p g m t) ↔ Still z s := by
  unfold ruleSTile
  simp (maxDischargeDepth := 9)

@[simp] theorem writePlane_still (z s : State) (img : Image) (n plane side : Nat) (val : Nat → Nat → Word) : Still z (writePlane s img n plane side val) ↔ Still z s := by
  unfold writePlane
  repeat' first
    | exact Iff.rfl
    | exact Still.refl _
    | (simp (maxDischargeDepth := 9); done)
    | split
    | (refine (still_foldl (fun t x => ?_) _ _ _).trans ?_ <;> try dsimp only)
    | (refine (still_foldl (fun t x => ?_) _ _ _).2 ?_ <;> try dsimp only)
    | (refine (still_setRun ?_ ?_ ?_).2 ?_ <;> (try (intro _; rfl)))
    | (simp; split)

@[simp] theorem foldFactor_still (z s : State) (img : Image) (d : Desc) (n j side : Nat) : Still z (foldFactor s img d n j side) ↔ Still z s := by
  unfold foldFactor
  repeat' first
    | exact Iff.rfl
    | exact Still.refl _
    | (simp (maxDischargeDepth := 9); done)
    | split
    | (refine (still_foldl (fun t x => ?_) _ _ _).trans ?_ <;> try dsimp only)
    | (refine (still_foldl (fun t x => ?_) _ _ _).2 ?_ <;> try dsimp only)
    | (refine (still_setRun ?_ ?_ ?_).2 ?_ <;> (try (intro _; rfl)))
    | (simp; split)

@[simp] theorem writeRoot_still (z s : State) (img : Image) (n : Nat) (j : Nat) (side : Nat) (m : Mat) : Still z (writeRoot s img n j side m) ↔ Still z s := by
  unfold writeRoot
  repeat' first
    | exact Iff.rfl
    | exact Still.refl _
    | (simp (maxDischargeDepth := 9); done)
    | split
    | (refine (still_foldl (fun t x => ?_) _ _ _).trans ?_ <;> try dsimp only)
    | (refine (still_foldl (fun t x => ?_) _ _ _).2 ?_ <;> try dsimp only)
    | (refine (still_setRun ?_ ?_ ?_).2 ?_ <;> (try (intro _; rfl)))
    | (simp; split)

@[simp] theorem dealRoot_still (z s : State) (r : Run) (d : Desc) (side : Nat) : Still z (dealRoot s r d side) ↔ Still z s := by
  unfold dealRoot
  repeat' first
    | exact Iff.rfl
    | exact Still.refl _
    | (simp (maxDischargeDepth := 9); done)
    | split
    | (refine (still_foldl (fun t x => ?_) _ _ _).trans ?_ <;> try dsimp only)
    | (refine (still_foldl (fun t x => ?_) _ _ _).2 ?_ <;> try dsimp only)
    | (refine (still_setRun ?_ ?_ ?_).2 ?_ <;> (try (intro _; rfl)))
    | (simp; split)

@[simp] theorem rulePBlock_still (z s : State) (r : Run) (d : Desc) (sigma : Word) (p u : Obj) (j : Nat) : Still z (rulePBlock s r d sigma p u j) ↔ Still z s := by
  unfold rulePBlock
  simp (maxDischargeDepth := 9)

@[simp] theorem blockRoots_still (z s : State) (r : Run) (d : Desc) (p : Obj) (j : Nat) : Still z (blockRoots s r d p j).1 ↔ Still z s := by
  unfold blockRoots
  repeat' first
    | exact Iff.rfl
    | exact Still.refl _
    | (simp (maxDischargeDepth := 9); done)
    | split
    | (refine (still_foldl (fun t x => ?_) _ _ _).trans ?_ <;> try dsimp only)
    | (refine (still_foldl (fun t x => ?_) _ _ _).2 ?_ <;> try dsimp only)
    | (refine (still_setRun ?_ ?_ ?_).2 ?_ <;> (try (intro _; rfl)))
    | (simp; split)

@[simp] theorem rulePRoots_still (z s : State) (r : Run) (d : Desc) (p : Obj) (blocks : List Nat) : Still z (rulePRoots s r d p blocks) ↔ Still z s := by
  unfold rulePRoots
  repeat' first
    | exact Iff.rfl
    | exact Still.refl _
    | (simp (maxDischargeDepth := 9); done)
    | split
    | (refine (still_foldl (fun t x => ?_) _ _ _).trans ?_ <;> try dsimp only)
    | (refine (still_foldl (fun t x => ?_) _ _ _).2 ?_ <;> try dsimp only)
    | (refine (still_setRun ?_ ?_ ?_).2 ?_ <;> (try (intro _; rfl)))
    | (simp; split)

@[simp] theorem readonlyUpdate_still (z s : State) (r : Run) (d : Desc) (g : Obj) (home : Nat → Nat) : Still z (readonlyUpdate s r d g home) ↔ Still z s := by
  unfold readonlyUpdate
  repeat' first
    | exact Iff.rfl
    | exact Still.refl _
    | (simp (maxDischargeDepth := 9); done)
    | split
    | (refine (still_foldl (fun t x => ?_) _ _ _).trans ?_ <;> try dsimp only)
    | (refine (still_foldl (fun t x => ?_) _ _ _).2 ?_ <;> try dsimp only)
    | (refine (still_setRun ?_ ?_ ?_).2 ?_ <;> (try (intro _; rfl)))
    | (simp; split)

@[simp] theorem updateDo_still (z s : State) (home : Nat → Nat) (r : Run) (d : Desc) : Still z (updateDo home r d s) ↔ Still z s := by
  unfold updateDo
  repeat' first
    | exact Iff.rfl
    | exact Still.refl _
    | (simp (maxDischargeDepth := 9); done)
    | split
    | (refine (still_foldl (fun t x => ?_) _ _ _).trans ?_ <;> try dsimp only)
    | (refine (still_foldl (fun t x => ?_) _ _ _).2 ?_ <;> try dsimp only)
    | (refine (still_setRun ?_ ?_ ?_).2 ?_ <;> (try (intro _; rfl)))
    | (simp; split)

@[simp] theorem updateAll_still {z s : State} {i r d} : Still z (updateAll i r d s) ↔ Still z s := by
  unfold updateAll
  refine (still_foldl (fun t x => ?_) _ _ _).trans (by simp)
  split
  · exact (inShadow_still fun u => by simp).2 (Still.refl _)
  · exact Still.refl _

@[simp] theorem updateComplete_still (z s : State) (r : Run) (d : Desc) : Still z (updateComplete s r d) ↔ Still z s := by
  unfold updateComplete
  simp (maxDischargeDepth := 9)

@[simp] theorem clearGradients_still (z s : State) (job : Nat) (ctx : Nat) : Still z (clearGradients s job ctx) ↔ Still z s := by
  unfold clearGradients
  repeat' first
    | exact Iff.rfl
    | exact Still.refl _
    | (simp (maxDischargeDepth := 9); done)
    | split
    | (refine (still_foldl (fun t x => ?_) _ _ _).trans ?_ <;> try dsimp only)
    | (refine (still_foldl (fun t x => ?_) _ _ _).2 ?_ <;> try dsimp only)
    | (refine (still_setRun ?_ ?_ ?_).2 ?_ <;> (try (intro _; rfl)))
    | (simp; split)

@[simp] theorem sendChunk_still (z s : State) (r : Run) (coll : Nat) (chunk : Nat) (phase : Nat) (x : Part) : Still z (sendChunk s r coll chunk phase x) ↔ Still z s := by
  unfold sendChunk
  repeat' first
    | exact Iff.rfl
    | exact Still.refl _
    | (simp (maxDischargeDepth := 9); done)
    | split
    | (refine (still_foldl (fun t x => ?_) _ _ _).trans ?_ <;> try dsimp only)
    | (refine (still_foldl (fun t x => ?_) _ _ _).2 ?_ <;> try dsimp only)
    | (refine (still_setRun ?_ ?_ ?_).2 ?_ <;> (try (intro _; rfl)))
    | (simp; split)

@[simp] theorem takeFlags_still (z s : State) (f : BitVec 8) : Still z (takeFlags s f) ↔ Still z s := by
  unfold takeFlags
  simp (maxDischargeDepth := 9)

@[simp] theorem Reduction.send_still (z s : State) (x : Reduction) (r : Run) : Still z (Reduction.send x s r) ↔ Still z s := by
  unfold Reduction.send
  repeat' first
    | exact Iff.rfl
    | exact Still.refl _
    | (simp (maxDischargeDepth := 9); done)
    | split
    | (refine (still_foldl (fun t x => ?_) _ _ _).trans ?_ <;> try dsimp only)
    | (refine (still_foldl (fun t x => ?_) _ _ _).2 ?_ <;> try dsimp only)
    | (refine (still_setRun ?_ ?_ ?_).2 ?_ <;> (try (intro _; rfl)))
    | (simp; split)

@[simp] theorem writeReduced_still (z s : State) (img : Image) (d : Desc) (src : Format) (eS : Int) (t : Nat) (b : List Byte) (pres : Bool) : Still z (writeReduced s img d src eS t b pres) ↔ Still z s := by
  unfold writeReduced
  repeat' first
    | exact Iff.rfl
    | exact Still.refl _
    | (simp (maxDischargeDepth := 9); done)
    | split
    | (refine (still_foldl (fun t x => ?_) _ _ _).trans ?_ <;> try dsimp only)
    | (refine (still_foldl (fun t x => ?_) _ _ _).2 ?_ <;> try dsimp only)
    | (refine (still_setRun ?_ ?_ ?_).2 ?_ <;> (try (intro _; rfl)))
    | (simp; split)

@[simp] theorem writeShare_still (z s : State) (img : Image) (i : InstId) (r : Run) (d : Desc) (x : Reduction) (ts : List (Nat × List Byte × Bool)) (mine : Nat → Bool) : Still z (writeShare s img i r d x ts mine) ↔ Still z s := by
  unfold writeShare
  repeat' first
    | exact Iff.rfl
    | exact Still.refl _
    | (simp (maxDischargeDepth := 9); done)
    | split
    | (refine (still_foldl (fun t x => ?_) _ _ _).trans ?_ <;> try dsimp only)
    | (refine (still_foldl (fun t x => ?_) _ _ _).2 ?_ <;> try dsimp only)
    | (refine (still_setRun ?_ ?_ ?_).2 ?_ <;> (try (intro _; rfl)))
    | (simp; split)

@[simp] theorem reduceSend_still (z s : State) (i : InstId) (r : Run) (d : Desc) : Still z (reduceSend i r d s) ↔ Still z s := by
  unfold reduceSend
  repeat' first
    | exact Iff.rfl
    | exact Still.refl _
    | (simp (maxDischargeDepth := 9); done)
    | split
    | (refine (still_foldl (fun t x => ?_) _ _ _).trans ?_ <;> try dsimp only)
    | (refine (still_foldl (fun t x => ?_) _ _ _).2 ?_ <;> try dsimp only)
    | (refine (still_setRun ?_ ?_ ?_).2 ?_ <;> (try (intro _; rfl)))
    | (simp; split)

theorem reduceShadow_still {i r d s h t} (e : reduceShadow i r d s h = some t) : Still s t := by
  simp only [reduceShadow, Option.bind_eq_some_iff, Option.map_eq_some_iff] at e
  obtain ⟨x, _, y, _, rfl⟩ := e
  simp

theorem foldShadows_still {i r d} {l : List Shadow} {a : Option State} {t : State}
    (e : (l.foldl (fun s h => s.bind fun s => reduceShadow i r d s h) a) = some t) : ∃ s, a = some s ∧ Still s t := by
  induction l generalizing a with
  | nil => exact ⟨t, e, Still.refl t⟩
  | cons h l ih =>
    obtain ⟨u, hu, hf⟩ := ih e
    simp only [Option.bind_eq_some_iff] at hu
    obtain ⟨s, hs, hu⟩ := hu
    exact ⟨s, hs, (reduceShadow_still hu).trans hf⟩

theorem reduceDo_still {i r d s t} (h : reduceDo i r d s = some t) : Still s t := by
  unfold reduceDo at h
  dsimp only at h
  repeat' split at h
  all_goals first | (cases h; done) | skip
  obtain ⟨u, hu, hf⟩ := foldShadows_still h
  cases hu
  exact Still.trans (by simp) hf

@[simp] theorem copyTile_still (z s : State) (img : Image) (n t : Nat) (b : List Byte) (pres : Bool) : Still z (copyTile s img n t b pres) ↔ Still z s := by
  unfold copyTile
  repeat' first
    | exact Iff.rfl
    | exact Still.refl _
    | (simp (maxDischargeDepth := 9); done)
    | split
    | (refine (still_foldl (fun t x => ?_) _ _ _).trans ?_ <;> try dsimp only)
    | (refine (still_foldl (fun t x => ?_) _ _ _).2 ?_ <;> try dsimp only)
    | (refine (still_setRun ?_ ?_ ?_).2 ?_ <;> (try (intro _; rfl)))
    | (simp; split)

@[simp] theorem gatherSend_still (z s : State) (i : InstId) (r : Run) (d : Desc) : Still z (gatherSend i r d s) ↔ Still z s := by
  unfold gatherSend
  repeat' first
    | exact Iff.rfl
    | exact Still.refl _
    | (simp (maxDischargeDepth := 9); done)
    | split
    | (refine (still_foldl (fun t x => ?_) _ _ _).trans ?_ <;> try dsimp only)
    | (refine (still_foldl (fun t x => ?_) _ _ _).2 ?_ <;> try dsimp only)
    | (refine (still_setRun ?_ ?_ ?_).2 ?_ <;> (try (intro _; rfl)))
    | (simp; split)

@[simp] theorem copyPart_still (z s : State) (img : Image) (i : InstId) (r : Run) (d : Desc) (tiles : List Nat) (p : Part) : Still z (copyPart s img i r d tiles p) ↔ Still z s := by
  unfold copyPart
  repeat' first
    | exact Iff.rfl
    | exact Still.refl _
    | (simp (maxDischargeDepth := 9); done)
    | split
    | (refine (still_foldl (fun t x => ?_) _ _ _).trans ?_ <;> try dsimp only)
    | (refine (still_foldl (fun t x => ?_) _ _ _).2 ?_ <;> try dsimp only)
    | (refine (still_setRun ?_ ?_ ?_).2 ?_ <;> (try (intro _; rfl)))
    | (simp; split)

theorem stageDo_still {i r d b s t} (h : stageDo i r d b s = some t) : Still s t := by
  unfold stageDo at h
  dsimp only at h
  repeat' split at h
  all_goals first
    | (cases h; done)
    | (simp only [Option.map_eq_some_iff] at h; obtain ⟨x, _, rfl⟩ := h; repeat' first
        | exact Iff.rfl
        | exact Still.refl _
        | (simp (maxDischargeDepth := 9); done)
        | split
        | (refine (still_foldl (fun t x => ?_) _ _ _).trans ?_ <;> try dsimp only)
        | (refine (still_foldl (fun t x => ?_) _ _ _).2 ?_ <;> try dsimp only)
        | (refine (still_setRun ?_ ?_ ?_).2 ?_ <;> (try (intro _; rfl)))
        | (simp; split))
    | (cases h; repeat' first
        | exact Iff.rfl
        | exact Still.refl _
        | (simp (maxDischargeDepth := 9); done)
        | split
        | (refine (still_foldl (fun t x => ?_) _ _ _).trans ?_ <;> try dsimp only)
        | (refine (still_foldl (fun t x => ?_) _ _ _).2 ?_ <;> try dsimp only)
        | (refine (still_setRun ?_ ?_ ?_).2 ?_ <;> (try (intro _; rfl)))
        | (simp; split))

@[simp] theorem recordVersions_still (z s : State) (i : InstId) (x : Gathering) (ps : List (Nat × Part)) : Still z (recordVersions i x ps s) ↔ Still z s := by
  unfold recordVersions
  repeat' first
    | exact Iff.rfl
    | exact Still.refl _
    | (simp (maxDischargeDepth := 9); done)
    | split
    | (refine (still_foldl (fun t x => ?_) _ _ _).trans ?_ <;> try dsimp only)
    | (refine (still_foldl (fun t x => ?_) _ _ _).2 ?_ <;> try dsimp only)
    | (refine (still_setRun ?_ ?_ ?_).2 ?_ <;> (try (intro _; rfl)))
    | (simp; split)

@[simp] theorem replacedShards_still (z s : State) (i : InstId) (r : Run) (x : Gathering) (ps : List (Nat × Part)) : Still z (replacedShards i r x ps s) ↔ Still z s := by
  unfold replacedShards
  repeat' first
    | exact Iff.rfl
    | exact Still.refl _
    | (simp (maxDischargeDepth := 9); done)
    | split
    | (refine (still_foldl (fun t x => ?_) _ _ _).trans ?_ <;> try dsimp only)
    | (refine (still_foldl (fun t x => ?_) _ _ _).2 ?_ <;> try dsimp only)
    | (refine (still_setRun ?_ ?_ ?_).2 ?_ <;> (try (intro _; rfl)))
    | (simp; split)

theorem gatherDo_still {i r d s t} (h : gatherDo i r d s = some t) : Still s t := by
  unfold gatherDo at h
  dsimp only at h
  repeat' split at h
  all_goals first
    | (cases h; done)
    | (simp only [Option.map_eq_some_iff] at h; obtain ⟨x, _, rfl⟩ := h; repeat' first
        | exact Iff.rfl
        | exact Still.refl _
        | (simp (maxDischargeDepth := 9); done)
        | split
        | (refine (still_foldl (fun t x => ?_) _ _ _).trans ?_ <;> try dsimp only)
        | (refine (still_foldl (fun t x => ?_) _ _ _).2 ?_ <;> try dsimp only)
        | (refine (still_setRun ?_ ?_ ?_).2 ?_ <;> (try (intro _; rfl)))
        | (simp; split))
    | (simp only [Option.bind_eq_some_iff] at h; obtain ⟨x, _, h⟩ := h; exact stageDo_still h)
    | (cases h; repeat' first
        | exact Iff.rfl
        | exact Still.refl _
        | (simp (maxDischargeDepth := 9); done)
        | split
        | (refine (still_foldl (fun t x => ?_) _ _ _).trans ?_ <;> try dsimp only)
        | (refine (still_foldl (fun t x => ?_) _ _ _).2 ?_ <;> try dsimp only)
        | (refine (still_setRun ?_ ?_ ?_).2 ?_ <;> (try (intro _; rfl)))
        | (simp; split))

@[simp] theorem syncScales_still (z s : State) (ctx : Nat) (es : List Nat) (own : Bool) (parts : List ScalePart) : Still z (syncScales s ctx es own parts) ↔ Still z s := by
  unfold syncScales
  repeat' first
    | exact Iff.rfl
    | exact Still.refl _
    | (simp (maxDischargeDepth := 9); done)
    | split
    | (refine (still_foldl (fun t x => ?_) _ _ _).trans ?_ <;> try dsimp only)
    | (refine (still_foldl (fun t x => ?_) _ _ _).2 ?_ <;> try dsimp only)
    | (refine (still_setRun ?_ ?_ ?_).2 ?_ <;> (try (intro _; rfl)))
    | (simp; split)

@[simp] theorem skipUpdate_still (z s : State) (r : Run) (cause : Nat) (nC : Nat) : Still z (skipUpdate s r cause nC) ↔ Still z s := by
  unfold skipUpdate
  repeat' first
    | exact Iff.rfl
    | exact Still.refl _
    | (simp (maxDischargeDepth := 9); done)
    | split
    | (refine (still_foldl (fun t x => ?_) _ _ _).trans ?_ <;> try dsimp only)
    | (refine (still_foldl (fun t x => ?_) _ _ _).2 ?_ <;> try dsimp only)
    | (refine (still_setRun ?_ ?_ ?_).2 ?_ <;> (try (intro _; rfl)))
    | (simp; split)

@[simp] theorem recountScales_still (z s : State)  : Still z (recountScales s) ↔ Still z s := by
  unfold recountScales
  repeat' first
    | exact Iff.rfl
    | exact Still.refl _
    | (simp (maxDischargeDepth := 9); done)
    | split
    | (refine (still_foldl (fun t x => ?_) _ _ _).trans ?_ <;> try dsimp only)
    | (refine (still_foldl (fun t x => ?_) _ _ _).2 ?_ <;> try dsimp only)
    | (refine (still_setRun ?_ ?_ ?_).2 ?_ <;> (try (intro _; rfl)))
    | (simp; split)

@[simp] theorem freeFilters_still (z s : State) (gone : InstId → Bool) : Still z (freeFilters s gone) ↔ Still z s := by
  unfold freeFilters
  repeat' first
    | exact Iff.rfl
    | exact Still.refl _
    | (simp (maxDischargeDepth := 9); done)
    | split
    | (refine (still_foldl (fun t x => ?_) _ _ _).trans ?_ <;> try dsimp only)
    | (refine (still_foldl (fun t x => ?_) _ _ _).2 ?_ <;> try dsimp only)
    | (refine (still_setRun ?_ ?_ ?_).2 ?_ <;> (try (intro _; rfl)))
    | (simp; split)

@[simp] theorem releaseVersions_still (z s : State) (ctx : Nat) (mb : Nat) : Still z (releaseVersions s ctx mb) ↔ Still z s := by
  unfold releaseVersions
  repeat' first
    | exact Iff.rfl
    | exact Still.refl _
    | (simp (maxDischargeDepth := 9); done)
    | split
    | (refine (still_foldl (fun t x => ?_) _ _ _).trans ?_ <;> try dsimp only)
    | (refine (still_foldl (fun t x => ?_) _ _ _).2 ?_ <;> try dsimp only)
    | (refine (still_setRun ?_ ?_ ?_).2 ?_ <;> (try (intro _; rfl)))
    | (simp; split)

@[simp] theorem dropMicro_still (z s : State) (r : Run) (mb : Nat) : Still z (dropMicro s r mb) ↔ Still z s := by
  unfold dropMicro
  repeat' first
    | exact Iff.rfl
    | exact Still.refl _
    | (simp (maxDischargeDepth := 9); done)
    | split
    | (refine (still_foldl (fun t x => ?_) _ _ _).trans ?_ <;> try dsimp only)
    | (refine (still_foldl (fun t x => ?_) _ _ _).2 ?_ <;> try dsimp only)
    | (refine (still_setRun ?_ ?_ ?_).2 ?_ <;> (try (intro _; rfl)))
    | (simp; split)

@[simp] theorem moveTile_still (z s : State) (img : Image) (src : Obj) (dst : Nat) (t : Nat) (u : Nat) : Still z (moveTile s img src dst t u) ↔ Still z s := by
  unfold moveTile
  repeat' first
    | exact Iff.rfl
    | exact Still.refl _
    | (simp (maxDischargeDepth := 9); done)
    | split
    | (refine (still_foldl (fun t x => ?_) _ _ _).trans ?_ <;> try dsimp only)
    | (refine (still_foldl (fun t x => ?_) _ _ _).2 ?_ <;> try dsimp only)
    | (refine (still_setRun ?_ ?_ ?_).2 ?_ <;> (try (intro _; rfl)))
    | (simp; split)

@[simp] theorem moveDo_still (i : InstId) (r : Run) (d : Desc) (z s : State) : Still z (moveDo i r d s) ↔ Still z s := by
  unfold moveDo
  repeat' first
    | exact Iff.rfl
    | exact Still.refl _
    | (simp (maxDischargeDepth := 9); done)
    | split
    | (refine (still_foldl (fun t x => ?_) _ _ _).trans ?_ <;> try dsimp only)
    | (refine (still_foldl (fun t x => ?_) _ _ _).2 ?_ <;> try dsimp only)
    | (refine (still_setRun ?_ ?_ ?_).2 ?_ <;> (try (intro _; rfl)))
    | (simp; split)

@[simp] theorem narrowTile_still (z s : State) (ctx n t : Nat) : Still z (narrowTile s ctx n t) ↔ Still z s := by
  unfold narrowTile
  repeat' first
    | exact Iff.rfl
    | exact Still.refl _
    | (simp (maxDischargeDepth := 9); done)
    | split
    | (refine (still_foldl (fun t x => ?_) _ _ _).trans ?_ <;> try dsimp only)
    | (refine (still_foldl (fun t x => ?_) _ _ _).2 ?_ <;> try dsimp only)
    | (refine (still_setRun ?_ ?_ ?_).2 ?_ <;> (try (intro _; rfl)))
    | (simp; split)

@[simp] theorem narrowIteration_still {z s : State} {r n mb} : Still z (narrowIteration s r n mb) ↔ Still z s := by
  unfold narrowIteration
  refine (still_foldl (fun t x => ?_) _ _ _)
  split <;> simp

@[simp] theorem moved_still (z s : State) (kind : MoveKind) (n b : Nat) : Still z (moved s kind n b) ↔ Still z s := by
  unfold moved
  simp (maxDischargeDepth := 9)

@[simp] theorem evictObject_still (z s : State) (ctx : Nat) (o : Obj) : Still z (evictObject s ctx o) ↔ Still z s := by
  unfold evictObject
  simp (maxDischargeDepth := 9)

@[simp] theorem setStream_still (z s : State) (st : Nat) (f : Stream → Stream) : Still z (setStream s st f) ↔ Still z s := by
  unfold setStream
  simp (maxDischargeDepth := 9)

@[simp] theorem blankTile_still (z s : State) (img : Image) (n t : Nat) : Still z (blankTile s img n t) ↔ Still z s := by
  unfold blankTile
  repeat' first
    | exact Iff.rfl
    | exact Still.refl _
    | (simp (maxDischargeDepth := 9); done)
    | split
    | (refine (still_foldl (fun t x => ?_) _ _ _).trans ?_ <;> try dsimp only)
    | (refine (still_foldl (fun t x => ?_) _ _ _).2 ?_ <;> try dsimp only)
    | (refine (still_setRun ?_ ?_ ?_).2 ?_ <;> (try (intro _; rfl)))
    | (simp; split)

@[simp] theorem takeSlot_still (z s : State) (r : Run) (y' : InstId) (d : Desc) (c : StreamCfg) (i : Nat) (y : Staged) : Still z (takeSlot s r y' d c i y) ↔ Still z s := by
  unfold takeSlot
  repeat' first
    | exact Iff.rfl
    | exact Still.refl _
    | (simp (maxDischargeDepth := 9); done)
    | split
    | (refine (still_foldl (fun t x => ?_) _ _ _).trans ?_ <;> try dsimp only)
    | (refine (still_foldl (fun t x => ?_) _ _ _).2 ?_ <;> try dsimp only)
    | (refine (still_setRun ?_ ?_ ?_).2 ?_ <;> (try (intro _; rfl)))
    | (simp; split)

@[simp] theorem takeDo_still (z s : State) (i : InstId) (r : Run) (d : Desc) : Still z (takeDo i r d s) ↔ Still z s := by
  unfold takeDo
  repeat' first
    | exact Iff.rfl
    | exact Still.refl _
    | (simp (maxDischargeDepth := 9); done)
    | split
    | (refine (still_foldl (fun t x => ?_) _ _ _).trans ?_ <;> try dsimp only)
    | (refine (still_foldl (fun t x => ?_) _ _ _).2 ?_ <;> try dsimp only)
    | (refine (still_setRun ?_ ?_ ?_).2 ?_ <;> (try (intro _; rfl)))
    | (simp; split)

@[simp] theorem freeTake_still (z s : State) (st k : Nat) : Still z (freeTake s st k) ↔ Still z s := by
  unfold freeTake
  simp (maxDischargeDepth := 9)

@[simp] theorem dropTiles_still (z s : State) (ctx : Nat) (t : Touch) : Still z (dropTiles s ctx t) ↔ Still z s := by
  unfold dropTiles
  simp (maxDischargeDepth := 9)

@[simp] theorem replayInst_still {z s : State} {n i r d} : Still z (replayInst n i r d s) ↔ Still z s := by
  refine Still.iff ?_
  induction n generalizing i r d s with
  | zero => simp [replayInst]
  | succ n ih =>
    unfold replayInst
    split
    all_goals first
      | (simp; done)
      | (cases h : reduceDo i r d s; · simp
         · simpa using reduceDo_still h)
      | (cases h : gatherDo i r d s; · simp
         · simpa using gatherDo_still h)
      | (split <;> simp <;> done)
      | skip
    dsimp only
    refine (still_foldl (fun t x => ?_) _ _ _).2 ((still_foldl (fun t x => ?_) _ _ _).2 (Still.refl _))
    · exact Still.trans (by simp) (ih (s := _))
    · split
      · exact Still.refl _
      · simp

@[simp] theorem recomputeDo_still {z s : State} {i r d} : Still z (recomputeDo i r d s) ↔ Still z s := by simp [recomputeDo]

theorem makeRoom_still {n need : Nat} {s t : State} (h : makeRoom n s need = some t) : Still s t := by
  induction n generalizing s with
  | zero => simp only [makeRoom] at h; split at h <;> simp_all
  | succ n ih =>
    simp only [makeRoom] at h
    split at h
    · simp_all
    · split at h
      · simp_all
      · exact (by simp : Still s _).trans (ih h)

theorem room_still {need : Nat} {s t : State} (h : room s need = some t) : Still s t := makeRoom_still h

@[simp] theorem keepImage_still (z s : State) (img : Image) : Still z (keepImage s img) ↔ Still z s := by
  unfold keepImage
  simp (maxDischargeDepth := 9)

@[simp] theorem codedFor_still (z s : State) (gone : List (Nat × Nat × Nat)) (step : Nat) : Still z (codedFor s gone step) ↔ Still z s := by
  unfold codedFor
  repeat' first
    | exact Iff.rfl
    | exact Still.refl _
    | (simp (maxDischargeDepth := 9); done)
    | split
    | (refine (still_foldl (fun t x => ?_) _ _ _).trans ?_ <;> try dsimp only)
    | (refine (still_foldl (fun t x => ?_) _ _ _).2 ?_ <;> try dsimp only)
    | (refine (still_setRun ?_ ?_ ?_).2 ?_ <;> (try (intro _; rfl)))
    | (simp; split)

@[simp] theorem cacheSchedule_still (z s : State) (img : Image) : Still z (cacheSchedule s img) ↔ Still z s := by
  unfold cacheSchedule
  simp (maxDischargeDepth := 9)

@[simp] theorem bookTakes_still (z s : State) (ts : List (Nat × Nat × Nat)) : Still z (bookTakes s ts) ↔ Still z s := by
  unfold bookTakes
  simp (maxDischargeDepth := 9)

@[simp] theorem useObjects_still (z s : State) (img : Image) (n : Nat) : Still z (useObjects s img n) ↔ Still z s := by
  unfold useObjects
  simp (maxDischargeDepth := 9)

@[simp] theorem dropImage_still (z s : State) (q : Submission) : Still z (dropImage s q) ↔ Still z s := by
  unfold dropImage
  repeat' first
    | exact Iff.rfl
    | exact Still.refl _
    | (simp (maxDischargeDepth := 9); done)
    | split
    | (refine (still_foldl (fun t x => ?_) _ _ _).trans ?_ <;> try dsimp only)
    | (refine (still_foldl (fun t x => ?_) _ _ _).2 ?_ <;> try dsimp only)
    | (refine (still_setRun ?_ ?_ ?_).2 ?_ <;> (try (intro _; rfl)))
    | (simp; split)

@[simp] theorem setGrove_still (z s : State) (g : Nat) (f : Grove → Grove) : Still z (setGrove s g f) ↔ Still z s := by
  unfold setGrove
  simp (maxDischargeDepth := 9)

@[simp] theorem mapGrove_still (z s : State) (g : Nat) (f : GroveMap → GroveMap) : Still z (mapGrove s g f) ↔ Still z s := by
  unfold mapGrove
  simp (maxDischargeDepth := 9)

@[simp] theorem readySpare_still (z s : State) (die : Nat) : Still z (readySpare s die).1 ↔ Still z s := by
  unfold readySpare
  repeat' first
    | exact Iff.rfl
    | exact Still.refl _
    | (simp (maxDischargeDepth := 9); done)
    | split
    | (refine (still_foldl (fun t x => ?_) _ _ _).trans ?_ <;> try dsimp only)
    | (refine (still_foldl (fun t x => ?_) _ _ _).2 ?_ <;> try dsimp only)
    | (refine (still_setRun ?_ ?_ ?_).2 ?_ <;> (try (intro _; rfl)))
    | (simp; split)

@[simp] theorem retireGrove_still (z s : State) (g : Nat) : Still z (retireGrove s g) ↔ Still z s := by
  unfold retireGrove
  simp (maxDischargeDepth := 9)

@[simp] theorem retireIdle_still (z s : State) (x : Nat × Nat) : Still z (retireIdle s x) ↔ Still z s := by
  unfold retireIdle
  simp (maxDischargeDepth := 9)

@[simp] theorem saveChecker_still (z s : State) (g : Nat) : Still z (saveChecker s g) ↔ Still z s := by
  unfold saveChecker
  repeat' first
    | exact Iff.rfl
    | exact Still.refl _
    | (simp (maxDischargeDepth := 9); done)
    | split
    | (refine (still_foldl (fun t x => ?_) _ _ _).trans ?_ <;> try dsimp only)
    | (refine (still_foldl (fun t x => ?_) _ _ _).2 ?_ <;> try dsimp only)
    | (refine (still_setRun ?_ ?_ ?_).2 ?_ <;> (try (intro _; rfl)))
    | (simp; split)

@[simp] theorem needSpare_still (z s : State) (g : Nat) : Still z (needSpare s g) ↔ Still z s := by
  unfold needSpare
  repeat' first
    | exact Iff.rfl
    | exact Still.refl _
    | (simp (maxDischargeDepth := 9); done)
    | split
    | (refine (still_foldl (fun t x => ?_) _ _ _).trans ?_ <;> try dsimp only)
    | (refine (still_foldl (fun t x => ?_) _ _ _).2 ?_ <;> try dsimp only)
    | (refine (still_setRun ?_ ?_ ?_).2 ?_ <;> (try (intro _; rfl)))
    | (simp; split)

@[simp] theorem markSuspect_still (z s : State) (g : Nat) : Still z (markSuspect s g) ↔ Still z s := by
  unfold markSuspect
  repeat' first
    | exact Iff.rfl
    | exact Still.refl _
    | (simp (maxDischargeDepth := 9); done)
    | split
    | (refine (still_foldl (fun t x => ?_) _ _ _).trans ?_ <;> try dsimp only)
    | (refine (still_foldl (fun t x => ?_) _ _ _).2 ?_ <;> try dsimp only)
    | (refine (still_setRun ?_ ?_ ?_).2 ?_ <;> (try (intro _; rfl)))
    | (simp; split)

@[simp] theorem countMismatch_still (z s : State) (g : Nat) : Still z (countMismatch s g) ↔ Still z s := by
  unfold countMismatch
  simp (maxDischargeDepth := 9)

@[simp] theorem setPower_still (z s : State) (i : Nat) (p : PowerState) : Still z (setPower s i p) ↔ Still z s := by
  unfold setPower
  simp (maxDischargeDepth := 9)

@[simp] theorem loseSram_still (z s : State) (i : Nat) : Still z (loseSram s i) ↔ Still z s := by
  unfold loseSram
  repeat' first
    | exact Iff.rfl
    | exact Still.refl _
    | (simp (maxDischargeDepth := 9); done)
    | split
    | (refine (still_foldl (fun t x => ?_) _ _ _).trans ?_ <;> try dsimp only)
    | (refine (still_foldl (fun t x => ?_) _ _ _).2 ?_ <;> try dsimp only)
    | (refine (still_setRun ?_ ?_ ?_).2 ?_ <;> (try (intro _; rfl)))
    | (simp; split)

@[simp] theorem idleIslands_still (z s : State) : Still z (idleIslands s) ↔ Still z s := by
  unfold idleIslands
  simp (maxDischargeDepth := 9)

@[simp] theorem closeSequence_still (z s : State) (ctx table entry : Nat) : Still z (closeSequence s ctx table entry) ↔ Still z s := by
  unfold closeSequence
  repeat' first
    | exact Iff.rfl
    | exact Still.refl _
    | (simp (maxDischargeDepth := 9); done)
    | split
    | (refine (still_foldl (fun t x => ?_) _ _ _).trans ?_ <;> try dsimp only)
    | (refine (still_foldl (fun t x => ?_) _ _ _).2 ?_ <;> try dsimp only)
    | (refine (still_setRun ?_ ?_ ?_).2 ?_ <;> (try (intro _; rfl)))
    | (simp; split)

@[simp] theorem pinPage_still (z s : State) (ctx : Nat) (k : KvName) (pin : Bool) : Still z (pinPage s ctx k pin) ↔ Still z s := by
  unfold pinPage
  repeat' first
    | exact Iff.rfl
    | exact Still.refl _
    | (simp (maxDischargeDepth := 9); done)
    | split
    | (refine (still_foldl (fun t x => ?_) _ _ _).trans ?_ <;> try dsimp only)
    | (refine (still_foldl (fun t x => ?_) _ _ _).2 ?_ <;> try dsimp only)
    | (refine (still_setRun ?_ ?_ ?_).2 ?_ <;> (try (intro _; rfl)))
    | (simp; split)

@[simp] theorem kvAct_still (z s : State) (op ctx : Nat) (k : KvName) : Still z (kvAct s op ctx k) ↔ Still z s := by
  unfold kvAct
  simp (maxDischargeDepth := 9)

@[simp] theorem closeContext_still (z s : State) (ctx : Nat) : Still z (closeContext s ctx) ↔ Still z s := by
  unfold closeContext
  simp (maxDischargeDepth := 9)

@[simp] theorem rejected_still (z s : State) (step : Nat) (m : Mem) (when_ : Nat) : Still z (rejected s step m when_) ↔ Still z s := by
  unfold rejected
  simp (maxDischargeDepth := 9)

@[simp] theorem setPort_still (z s : State) (p : Nat) (f : Port → Port) : Still z (setPort s p f) ↔ Still z s := by
  unfold setPort
  simp (maxDischargeDepth := 9)

@[simp] theorem notice_still (z s : State) (device kind value : Nat) : Still z (notice s device kind value) ↔ Still z s := by
  unfold notice
  simp (maxDischargeDepth := 9)

@[simp] theorem portDown_still (z s : State) (p cause : Nat) : Still z (portDown s p cause) ↔ Still z s := by
  unfold portDown
  simp (maxDischargeDepth := 9)

@[simp] theorem transmit_still (z s : State) (p : Nat) (f : Flit) : Still z (transmit s p f) ↔ Still z s := by
  unfold transmit
  repeat' first
    | exact Iff.rfl
    | exact Still.refl _
    | (simp (maxDischargeDepth := 9); done)
    | split
    | (refine (still_foldl (fun t x => ?_) _ _ _).trans ?_ <;> try dsimp only)
    | (refine (still_foldl (fun t x => ?_) _ _ _).2 ?_ <;> try dsimp only)
    | (refine (still_setRun ?_ ?_ ?_).2 ?_ <;> (try (intro _; rfl)))
    | (simp; split)

@[simp] theorem sendFlit_still (z s : State) (p : Nat) (f : Flit) : Still z (sendFlit s p f) ↔ Still z s := by
  unfold sendFlit
  simp (maxDischargeDepth := 9)

@[simp] theorem requestRetry_still (z s : State) (p : Nat) : Still z (requestRetry s p) ↔ Still z s := by
  unfold requestRetry
  repeat' first
    | exact Iff.rfl
    | exact Still.refl _
    | (simp (maxDischargeDepth := 9); done)
    | split
    | (refine (still_foldl (fun t x => ?_) _ _ _).trans ?_ <;> try dsimp only)
    | (refine (still_foldl (fun t x => ?_) _ _ _).2 ?_ <;> try dsimp only)
    | (refine (still_setRun ?_ ?_ ?_).2 ?_ <;> (try (intro _; rfl)))
    | (simp; split)

@[simp] theorem retirePort_still {z s : State} {p} : Still z (retirePort s p) ↔ Still z s := by
  simp [retirePort, setPort]

@[simp] theorem leaveJob_still (z s : State) (job : Nat) : Still z (leaveJob s job) ↔ Still z s := by
  unfold leaveJob
  simp (maxDischargeDepth := 9)

@[simp] theorem publishPlan_still (z s : State) (img : Image) : Still z (publishPlan s img) ↔ Still z s := by
  unfold publishPlan
  repeat' first
    | exact Iff.rfl
    | exact Still.refl _
    | (simp (maxDischargeDepth := 9); done)
    | split
    | (refine (still_foldl (fun t x => ?_) _ _ _).trans ?_ <;> try dsimp only)
    | (refine (still_foldl (fun t x => ?_) _ _ _).2 ?_ <;> try dsimp only)
    | (refine (still_setRun ?_ ?_ ?_).2 ?_ <;> (try (intro _; rfl)))
    | (simp; split)

@[simp] theorem announceNext_still (z s : State) (job : Nat) : Still z (announceNext s job) ↔ Still z s := by
  unfold announceNext
  repeat' first
    | exact Iff.rfl
    | exact Still.refl _
    | (simp (maxDischargeDepth := 9); done)
    | split
    | (refine (still_foldl (fun t x => ?_) _ _ _).trans ?_ <;> try dsimp only)
    | (refine (still_foldl (fun t x => ?_) _ _ _).2 ?_ <;> try dsimp only)
    | (refine (still_setRun ?_ ?_ ?_).2 ?_ <;> (try (intro _; rfl)))
    | (simp; split)

@[simp] theorem freeLent_still (z s : State) (device : Nat) : Still z (freeLent s device) ↔ Still z s := by
  unfold freeLent
  simp (maxDischargeDepth := 9)

@[simp] theorem declareFailed_still (z s : State) (job device : Nat) : Still z (declareFailed s job device) ↔ Still z s := by
  unfold declareFailed
  repeat' first
    | exact Iff.rfl
    | exact Still.refl _
    | (simp (maxDischargeDepth := 9); done)
    | split
    | (refine (still_foldl (fun t x => ?_) _ _ _).trans ?_ <;> try dsimp only)
    | (refine (still_foldl (fun t x => ?_) _ _ _).2 ?_ <;> try dsimp only)
    | (refine (still_setRun ?_ ?_ ?_).2 ?_ <;> (try (intro _; rfl)))
    | (simp; split)

@[simp] theorem dropAfter_still {z s : State} {job device} : Still z (dropAfter s job device) ↔ Still z s := by
  have key : ∀ l : List Nat, Still z (l.foldl (fun s mb => match s.sched.run with | some r => dropMicro s r mb | none => s) s) ↔
      Still z s := fun l => by
    refine (still_foldl (fun t x => ?_) _ _ _)
    split <;> simp
  unfold dropAfter
  split
  · rfl
  · dsimp only
    rw [still_ite]
    generalize (!(_ && _)) = c
    cases c
    · exact key _
    · exact Iff.rfl

@[simp] theorem adopt_still (z s : State) (job : Nat) (device : Nat) (x : Secured) (tiles : List (Nat × List Nat)) (first : Bool) : Still z (adopt s job device x tiles first) ↔ Still z s := by
  unfold adopt
  repeat' first
    | exact Iff.rfl
    | exact Still.refl _
    | (simp (maxDischargeDepth := 9); done)
    | split
    | (refine (still_foldl (fun t x => ?_) _ _ _).trans ?_ <;> try dsimp only)
    | (refine (still_foldl (fun t x => ?_) _ _ _).2 ?_ <;> try dsimp only)
    | (refine (still_setRun ?_ ?_ ?_).2 ?_ <;> (try (intro _; rfl)))
    | (simp; split)

@[simp] theorem rebuild_still (z s : State) (job : Nat) (device : Nat) (b : Rebuild) : Still z (rebuild s job device b) ↔ Still z s := by
  unfold rebuild
  repeat' first
    | exact Iff.rfl
    | exact Still.refl _
    | (simp (maxDischargeDepth := 9); done)
    | split
    | (refine (still_foldl (fun t x => ?_) _ _ _).trans ?_ <;> try dsimp only)
    | (refine (still_foldl (fun t x => ?_) _ _ _).2 ?_ <;> try dsimp only)
    | (refine (still_setRun ?_ ?_ ?_).2 ?_ <;> (try (intro _; rfl)))
    | (simp; split)

@[simp] theorem beginObjects_still (z s : State) (img : Image) : Still z (beginObjects s img) ↔ Still z s := by
  unfold beginObjects
  simp (maxDischargeDepth := 9)

@[simp] theorem completeEffect_still (z s : State) (r : Run) (i : InstId) (d : Desc) : Still z (completeEffect s r i d) ↔ Still z s := by
  unfold completeEffect
  repeat' first
    | exact Iff.rfl
    | exact Still.refl _
    | (simp (maxDischargeDepth := 9); done)
    | split
    | (refine (still_foldl (fun t x => ?_) _ _ _).trans ?_ <;> try dsimp only)
    | (refine (still_foldl (fun t x => ?_) _ _ _).2 ?_ <;> try dsimp only)
    | (refine (still_setRun ?_ ?_ ?_).2 ?_ <;> (try (intro _; rfl)))
    | (simp; split)

@[simp] theorem endObjects_still (z s : State) (r : Run) : Still z (endObjects s r) ↔ Still z s := by
  unfold endObjects
  simp (maxDischargeDepth := 9)

@[simp] theorem undoUpdate_still (z s : State) (r : Run) : Still z (undoUpdate s r) ↔ Still z s := by
  unfold undoUpdate
  simp (maxDischargeDepth := 9)

@[simp] theorem advanceScales_still (z s : State) (r : Run) : Still z (advanceScales s r) ↔ Still z s := by
  unfold advanceScales
  simp (maxDischargeDepth := 9)

@[simp] theorem closeRecord_still (z s : State) (r : Run) : Still z (closeRecord s r) ↔ Still z s := by
  unfold closeRecord
  simp (maxDischargeDepth := 9)

@[simp] theorem trimRecords_still (z s : State) (job : Nat) : Still z (trimRecords s job) ↔ Still z s := by
  unfold trimRecords
  simp (maxDischargeDepth := 9)

@[simp] theorem endTakes_still (z s : State) (a : Admitted) : Still z (endTakes s a) ↔ Still z s := by
  unfold endTakes
  simp (maxDischargeDepth := 9)

@[simp] theorem endShadows_still (z s : State) (r : Run) : Still z (endShadows s r) ↔ Still z s := by
  unfold endShadows
  repeat' first
    | exact Iff.rfl
    | exact Still.refl _
    | (simp (maxDischargeDepth := 9); done)
    | split
    | (refine (still_foldl (fun t x => ?_) _ _ _).trans ?_ <;> try dsimp only)
    | (refine (still_foldl (fun t x => ?_) _ _ _).2 ?_ <;> try dsimp only)
    | (refine (still_setRun ?_ ?_ ?_).2 ?_ <;> (try (intro _; rfl)))
    | (simp; split)

@[simp] theorem writePi_still (z s : State) (st v : Nat) : Still z (writePi s st v) ↔ Still z s := by
  unfold writePi
  repeat' first
    | exact Iff.rfl
    | exact Still.refl _
    | (simp (maxDischargeDepth := 9); done)
    | split
    | (refine (still_foldl (fun t x => ?_) _ _ _).trans ?_ <;> try dsimp only)
    | (refine (still_foldl (fun t x => ?_) _ _ _).2 ?_ <;> try dsimp only)
    | (refine (still_setRun ?_ ?_ ?_).2 ?_ <;> (try (intro _; rfl)))
    | (simp; split)

@[simp] theorem viewWrite_still (z s : State) (ctx : Nat) (o : Obj) (i : Nat) (data : List Byte) : Still z (viewWrite s ctx o i data) ↔ Still z s := by
  unfold viewWrite
  simp (maxDischargeDepth := 9)

theorem bringBack_still {s c o t} (h : bringBack s c o = some t) : Still s t := by
  unfold bringBack at h
  repeat' split at h
  all_goals first | (cases h; done) | (cases h; simp; done) | (simp only [Option.map_eq_some_iff] at h; obtain ⟨x, hx, rfl⟩ := h; exact Still.trans (room_still hx) (by simp)) | (rename_i hr; cases h; exact Still.trans (room_still hr) (by simp))

@[simp] theorem accessError_still (z s : State) (cause address : Nat) : Still z (accessError s cause address) ↔ Still z s := by
  unfold accessError
  simp (maxDischargeDepth := 9)

@[simp] theorem withoutImage_still (z s : State) (ctx job : Nat) : Still z (withoutImage s ctx job) ↔ Still z s := by
  unfold withoutImage
  simp (maxDischargeDepth := 9)

@[simp] theorem replaceSample_still (z s : State) (st u position cause : Nat) : Still z (replaceSample s st u position cause) ↔ Still z s := by
  unfold replaceSample
  repeat' first
    | exact Iff.rfl
    | exact Still.refl _
    | (simp (maxDischargeDepth := 9); done)
    | split
    | (refine (still_foldl (fun t x => ?_) _ _ _).trans ?_ <;> try dsimp only)
    | (refine (still_foldl (fun t x => ?_) _ _ _).2 ?_ <;> try dsimp only)
    | (refine (still_setRun ?_ ?_ ?_).2 ?_ <;> (try (intro _; rfl)))
    | (simp; split)

@[simp] theorem rejectSample_still (z s : State) (st u position reason : Nat) (tag : DWord) : Still z (rejectSample s st u position reason tag) ↔ Still z s := by
  unfold rejectSample
  repeat' first
    | exact Iff.rfl
    | exact Still.refl _
    | (simp (maxDischargeDepth := 9); done)
    | split
    | (refine (still_foldl (fun t x => ?_) _ _ _).trans ?_ <;> try dsimp only)
    | (refine (still_foldl (fun t x => ?_) _ _ _).2 ?_ <;> try dsimp only)
    | (refine (still_setRun ?_ ?_ ?_).2 ?_ <;> (try (intro _; rfl)))
    | (simp; split)

@[simp] theorem askRetire_still (z s : State) (m : Nat) (i : Nat) : Still z (askRetire s m i) ↔ Still z s := by
  unfold askRetire
  repeat' first
    | exact Iff.rfl
    | exact Still.refl _
    | (simp (maxDischargeDepth := 9); done)
    | split
    | (refine (still_foldl (fun t x => ?_) _ _ _).trans ?_ <;> try dsimp only)
    | (refine (still_foldl (fun t x => ?_) _ _ _).2 ?_ <;> try dsimp only)
    | (refine (still_setRun ?_ ?_ ?_).2 ?_ <;> (try (intro _; rfl)))
    | (simp; split)

@[simp] theorem applyEdit_still (z s : State) (x0 : RepairEdit) : Still z (applyEdit s x0) ↔ Still z s := by
  unfold applyEdit
  repeat' first
    | exact Iff.rfl
    | exact Still.refl _
    | (simp (maxDischargeDepth := 9); done)
    | split
    | (refine (still_foldl (fun t x => ?_) _ _ _).trans ?_ <;> try dsimp only)
    | (refine (still_foldl (fun t x => ?_) _ _ _).2 ?_ <;> try dsimp only)
    | (refine (still_setRun ?_ ?_ ?_).2 ?_ <;> (try (intro _; rfl)))
    | (simp; split)

@[simp] theorem leaveAll_still (z s : State) : Still z (leaveAll s) ↔ Still z s := by
  unfold leaveAll
  simp (maxDischargeDepth := 9)

@[simp] theorem closeStreams_still (z s : State) : Still z (closeStreams s) ↔ Still z s := by
  unfold closeStreams
  simp (maxDischargeDepth := 9)

@[simp] theorem saveGroves_still (z s : State) : Still z (saveGroves s) ↔ Still z s := by
  unfold saveGroves
  simp (maxDischargeDepth := 9)

end Sys2Proof.Machine
end

