-- ==== Sys2Proof/WellFormed.lean ====
section
/-!
DEFINITION. Which commands are well-formed: what a sender outside the device can present at all. A check that fails
names an event that no host, peer or board can send; a value that the device itself refuses is well-formed here.
Choices of the model, by log entry: 17 DESIGN CHOICE, 65 DESIGN CHOICE.
-/

namespace Sys2Proof

/-- A PCI Express request carries from 1 to 4,096 bytes. -/
def HostAccess.wf : HostAccess → Bool
  | .read n => decide (1 ≤ n) && decide (n ≤ 4096)
  | .write d => decide (1 ≤ d.length) && decide (d.length ≤ 4096)

/-- A burst error names a device address (R202) and distinct symbol positions 0 to 35 with errors that are not zero (R206). -/
def BurstError.wf (e : BurstError) : Bool :=
  decide (e.address < 2 ^ 40) && (e.errors.all fun x => decide (x.1 < 36) && x.2 != 0) && decide (e.errors.map fun x => x.1).Nodup

/-- A flit's payload is at most 240 bytes and its class one of eight (R274). -/
def Flit.wf (f : Flit) : Bool := decide (f.cls < 8) && decide (f.payload.length ≤ 240)

/-- A ring entry's fields fit their 32 bytes (R253). -/
def RingEntry.wf (e : RingEntry) : Bool :=
  decide (e.source < 4) && decide (e.slot < 1024) && decide (e.length < 2 ^ 32) && decide (e.address < 2 ^ 64) &&
  decide (e.reserved < 2 ^ 84)

/-- A picture has one code of its depth for each position of its planes. -/
def Picture.wf (p : Picture) : Bool :=
  let half := (p.x + 1) / 2 * ((p.y + 1) / 2) * p.z
  p.luma.length == p.x * p.y * p.z && p.cb.length == half && p.cr.length == half &&
  ((p.luma ++ p.cb ++ p.cr).all fun k => decide (k < 2 ^ p.depth))

/-- What a sample holds is well-formed. -/
def Sample.wf (x : Sample) : Bool := match x.content with | .av1 p => p.wf | .coded _ => true

/-- A sample's bytes are as many as its ring entry gives (R253). -/
def Sample.fits (x : Sample) (e : RingEntry) : Bool := match x.content with | .av1 _ => true | .coded bs => bs.length == e.length

/-- Start-up parts bring a trained link's speed and width (R314), or no link. -/
def StartPart.wf : StartPart → Bool
  | .boot env => env.linkWidth == 0 || ([1, 2, 4, 8, 16].contains env.linkWidth && [2, 5, 8, 16, 32, 64, 128].contains env.linkSpeed)
  | _ => true

/-- Well-formed commands. -/
def Instr.wf : Instr → Bool
  | .registerWrite o d => decide (o < 2 ^ 25) && decide (1 ≤ d.length) && decide (d.length ≤ 4096)
  | .aditAccess o a es => decide (o < 2 ^ 28) && a.wf && es.all BurstError.wf
  | .fullMapAccess o a es => decide (o < 2 ^ 40) && a.wf && es.all BurstError.wf
  | .placementAccess o a => decide (o < 2 ^ 40) && a.wf
  | .perstRelease p => p.wf
  | .dlUp sp w => [1, 2, 4, 8, 16].contains w && [2, 5, 8, 16, 32, 64, 128].contains sp
  | .dlDown l => decide (l ≤ 9)
  | .linkRetrained sp w => [1, 2, 4, 8, 16].contains w && [2, 5, 8, 16, 32, 64, 128].contains sp
  | .hostAccessError c a _ => decide (1 ≤ c) && decide (c ≤ 5) && decide (a < 2 ^ 64)
  | .patrolScrubSlice _ es => es.all BurstError.wf
  | .substitute _ (.fields p) x => p.2.wf && x.wf && x.fits p.2
  | .sampleStart _ u e x => decide (u < 16) && e.wf && x.wf && x.fits e
  | .sampleStaged _ u x => decide (u < 16) && x.wf
  | .sampleOverrun _ u => decide (u < 16)
  | .flitSend _ c _ p => decide (c < 8) && decide (p.length ≤ 240)
  | .flitReceive _ f _ => f.wf
  | .getMeasurements _ i n => decide (i < 256) && n.length == 32
  | .challenge _ k n => decide (k < 256) && n.length == 32
  | .islandSleep i _ _ _ => decide (i < 0x1000)
  | .islandWake i => decide (i < 0x1000)
  | _ => true

end Sys2Proof
end

