-- ==== Sys2Proof/Tests/Slice0.lean ====
section
/-!
SUPPORT. The model's own tests: an ill-formed command for every check of well-formedness, and concrete states and operands that
meet the hypotheses of the statements, clause by clause, at the boundaries of their ranges.
-/

set_option maxRecDepth 8000
set_option Elab.async false

namespace Sys2Proof.Tests

open Sys2Proof Sys2Proof.Machine

/-! ### Well-formed commands -/

/-- A ring entry of 36 bytes in host memory. -/
def entry : RingEntry := ⟨0, 0, 36, 4096, 7, 0⟩
/-- The bytes of a raw F32 sample of one value, 1.0, from R259. -/
def rawBytes : List Byte := [0x31, 0x53, 0x4C, 0x53, 1, 0, 0, 0, 1, 0, 1, 0, 1, 0, 1, 0] ++ List.replicate 16 0 ++ [0, 0, 0x80, 0x3F]
def sample : Sample := ⟨true, .coded rawBytes⟩
/-- An 8-bit AV1 sample of 3 × 1 luma positions. -/
def picture : Picture := ⟨0, 8, false, true, 0, 3, 1, true, true, 3, 1, 1, [128, 64, 32], [16, 8], [4, 2]⟩
/-- A flit with an empty payload. -/
def flit : Flit := ⟨1, 0, true, 0, 0, 0, 0, [], 0⟩
/-- The fields of a vector instruction with predicate 0. -/
def fields : VFields := ⟨0, false, 1, 2, 3, 4, 0⟩

theorem test_wf_register_write : (Instr.registerWrite (2 ^ 25 - 1) [1]).wf = true ∧ (Instr.registerWrite (2 ^ 25) [1]).wf = false ∧
    (Instr.registerWrite 0 []).wf = false ∧ (Instr.registerWrite 0 (List.replicate 4097 0)).wf = false := by decide +kernel
theorem test_wf_adit : (Instr.aditAccess 0 (.read 1) []).wf = true ∧ (Instr.aditAccess (2 ^ 28) (.read 1) []).wf = false ∧
    (Instr.aditAccess 0 (.read 0) []).wf = false ∧ (Instr.aditAccess 0 (.read 4097) []).wf = false ∧
    (Instr.aditAccess 0 (.write []) []).wf = false ∧ (Instr.aditAccess 0 (.write (List.replicate 4097 0)) []).wf = false ∧
    (Instr.aditAccess 0 (.read 1) [⟨2 ^ 40, [(0, 1)]⟩]).wf = false ∧ (Instr.aditAccess 0 (.read 1) [⟨0, [(36, 1)]⟩]).wf = false ∧
    (Instr.aditAccess 0 (.read 1) [⟨0, [(3, 1), (3, 2)]⟩]).wf = false ∧ (Instr.aditAccess 0 (.read 1) [⟨0, [(35, 255)]⟩]).wf = true ∧
    (Instr.aditAccess 0 (.read 1) [⟨0, [(35, 0)]⟩]).wf = false := by decide +kernel
theorem test_wf_full_map : (Instr.fullMapAccess (2 ^ 40 - 1) (.read 4096) []).wf = true ∧
    (Instr.fullMapAccess (2 ^ 40) (.read 1) []).wf = false ∧ (Instr.fullMapAccess 0 (.read 0) []).wf = false ∧
    (Instr.fullMapAccess 0 (.read 1) [⟨2 ^ 40, [(0, 1)]⟩]).wf = false := by decide
theorem test_wf_placement : (Instr.placementAccess (2 ^ 40) (.read 1)).wf = false ∧
    (Instr.placementAccess 0 (.read 0)).wf = false := by decide
theorem test_wf_start_up : (Instr.perstRelease (.boot ⟨128, 16, 0, 0, 0⟩)).wf = true ∧
    (Instr.perstRelease (.boot ⟨3, 16, 0, 0, 0⟩)).wf = false ∧ (Instr.perstRelease (.boot ⟨128, 3, 0, 0, 0⟩)).wf = false := by decide
theorem test_wf_link : (Instr.dlUp 128 3).wf = false ∧ (Instr.dlUp 3 16).wf = false ∧ (Instr.dlDown 9).wf = true ∧
    (Instr.dlDown 10).wf = false ∧ (Instr.linkRetrained 128 3).wf = false ∧ (Instr.linkRetrained 3 1).wf = false := by decide
theorem test_wf_host_error : (Instr.hostAccessError 5 0 (.image 0)).wf = true ∧ (Instr.hostAccessError 0 0 (.image 0)).wf = false ∧
    (Instr.hostAccessError 6 0 (.image 0)).wf = false ∧ (Instr.hostAccessError 1 (2 ^ 64) (.image 0)).wf = false := by decide
theorem test_wf_patrol : (Instr.patrolScrubSlice 0 [⟨0, [(36, 1)]⟩]).wf = false := by decide
theorem test_wf_sluice : (Instr.sampleStart 0 15 entry sample).wf = true ∧ (Instr.sampleStart 0 16 entry sample).wf = false ∧
    (Instr.sampleStart 0 0 { entry with source := 4 } sample).wf = false ∧
    (Instr.sampleStart 0 0 { entry with slot := 1024 } sample).wf = false ∧
    (Instr.sampleStart 0 0 { entry with length := 2 ^ 32 } sample).wf = false ∧
    (Instr.sampleStart 0 0 { entry with address := 2 ^ 64 } sample).wf = false ∧
    (Instr.sampleStart 0 0 { entry with reserved := 2 ^ 84 } sample).wf = false ∧
    (Instr.sampleStart 0 0 entry ⟨true, .coded []⟩).wf = false ∧ (Instr.sampleStart 0 0 entry ⟨true, .av1 picture⟩).wf = true ∧
    (Instr.sampleStaged 0 16 sample).wf = false ∧ (Instr.sampleStaged 0 0 ⟨true, .av1 { picture with luma := [] }⟩).wf = false ∧
    (Instr.sampleStaged 0 0 ⟨true, .av1 { picture with cb := [16] }⟩).wf = false ∧
    (Instr.sampleStaged 0 0 ⟨true, .av1 { picture with cr := [4, 256] }⟩).wf = false ∧
    (Instr.substitute 0 (.fields (0, { entry with source := 4 })) sample).wf = false ∧
    (Instr.sampleOverrun 0 16).wf = false := by decide
theorem test_wf_fabric : (Instr.flitSend 0 8 true []).wf = false ∧ (Instr.flitSend 0 7 true (List.replicate 241 0)).wf = false ∧
    (Instr.flitReceive 0 flit true).wf = true ∧ (Instr.flitReceive 0 { flit with cls := 8 } true).wf = false ∧
    (Instr.flitReceive 0 { flit with payload := List.replicate 241 0 } true).wf = false := by decide
theorem test_wf_spdm : (Instr.getMeasurements .doe 256 (List.replicate 32 0)).wf = false ∧
    (Instr.getMeasurements .doe 255 (List.replicate 31 0)).wf = false ∧ (Instr.challenge .doe 256 (List.replicate 32 0)).wf = false ∧
    (Instr.challenge .doe 0 []).wf = false := by decide
theorem test_wf_islands : (Instr.islandSleep 0x1000 0 false false).wf = false ∧ (Instr.islandWake 0x1000).wf = false := by decide

/-! ### The block and the mailbox protocol -/

/-- The device in SERVICE, start-up done, with two empty firmware slots. -/
def up : State :=
  { State.reset with
    dev := { State.reset.dev with state := .service, stage := 4 }
    flash := { State.reset.flash with slots := [⟨.empty, []⟩, ⟨.empty, []⟩] } }
/-- A state with its device's own state replaced. -/
def inState (s : State) (d : DevState) : State := { s with dev := { s.dev with state := d } }
/-- A request in progress on context 0. -/
def req (op : Nat) (len : Nat := 0) : Work := ⟨op, 1, 0, false, len, 0, 0, true, [], [0, 0, 0, 0, 0, 0]⟩
/-- `s` with a request in progress on mailbox 0. -/
def on (s : State) (w : Work) : State := { s with mbx := s.mbx.set 0 { work := some w } }
/-- `s` with a request on the page of mailbox 0 and its latch set, and what the mailbox has executed. -/
def rung (s : State) (page : List Byte) (high : Option Word := none) (stored : List Stored := []) : State :=
  { s with mbx := s.mbx.set 0 { request := Mem.store [] 0 page, latch := true, high, stored } }
/-- The first bytes of a request page: opcode and SEQ. -/
def header (op seq : Nat) : List Byte := leBytes 2 op ++ [0, 0] ++ leBytes 4 seq
/-- Context 0 with what it holds. -/
def withCtx (s : State) (c : Context) : State := { s with ctxs := [c] }

theorem test_meets_step : { up with pending := [Instr.stepStart] }.pending = [Instr.stepStart] ∧ up.pending = [] := by decide
theorem test_meets_shape : up.shaped := by unfold State.shaped; decide
theorem test_meets_memory : up.memoryOk := by unfold State.memoryOk; decide +kernel
theorem test_meets_engine : (vecAt up 0).shaped := by unfold VecEngine.shaped; decide +kernel
theorem test_meets_generations : ∀ c ∈ up.cfg, c.forceGen ≤ c.gen := by decide
theorem test_meets_next : exec (.stepStart) up = .next up := by rfl
theorem test_meets_ring : hostReaches up = true ∧ (mbxAt up 63).header.busy = false ∧
    (mbxAt { up with mbx := up.mbx.set 63 { header := { busy := true } } } 63).header.busy = true := by decide +kernel
theorem test_meets_take : takes (rung up (header 0x0101 1)) 0 ∧ headerFails (mbxAt (rung up (header 0x0101 1)) 0).request = none ∧
    classify (mbxAt (rung up (header 0x0101 1)) 0).high 1 = .new ∧ (requestOf (rung up (header 0x0101 1)) 0).opcode = 0x0101 ∧
    commandStates 0x0101 = some statesAll ∧ stateAllows (rung up (header 0x0101 1)) 0x0101 statesAll = true ∧
    classPOpcodes.contains 0x0101 = false ∧ ctxOpcodes.contains 0x0101 = false ∧
    (requestOf (rung up (header 0x0101 1)) 0).ctx = 0 := by unfold takes; decide +kernel
theorem test_meets_take_refused : headerFails (mbxAt (rung up [0, 0, 2]) 0).request = some 2 ∧
    takes (rung up (header 0x0FFF 1)) 0 ∧ headerFails (mbxAt (rung up (header 0x0FFF 1)) 0).request = none ∧
    classify none (requestOf (rung up (header 0x0FFF 1)) 0).seq = .new ∧ commandStates 0x0FFF = none ∧
    commandStates 0x0A06 = some 4 ∧ stateAllows (rung up (header 0x0A06 1)) 0x0A06 4 = false := by unfold takes; decide +kernel
theorem test_meets_class_p : classPOpcodes.contains 0x0B02 = true ∧ up.board.window = none ∧ up.board.serviceL = false ∧
    (requestOf (rung up (header 0x0B02 1)) 0).opcode = 0x0B02 ∧ commandStates 0x0B02 = some statesSTR ∧
    stateAllows (rung up (header 0x0B02 1)) 0x0B02 statesSTR = true := by decide +kernel
theorem test_sequence_boundaries : classify (some 0) 1 = .new ∧ classify (some 0) 0 = .window ∧
    classify (some 0) 0xFFFFFFC1 = .window ∧ classify (some 0) 0xFFFFFFC0 = .old ∧ classify (some 0) 2 = .gap ∧
    classify (some 0) 0x80000000 = .gap ∧ classify (some 0) 0x80000001 = .old := by decide
theorem test_meets_replay : (rung up (header 0x0101 5) (some 5) [⟨5, 0x0101, 0, 0, crc32c [], {}, []⟩]).mbx.length = 64 ∧
    classify (some 5) (requestOf (rung up (header 0x0101 5)) 0).seq = .window ∧
    (requestOf (rung up (header 0x0101 5)) 0).opcode = 0x0101 ∧ (requestOf (rung up (header 0x0101 5)) 0).length = 0 ∧
    (requestOf (rung up (header 0x0101 5)) 0).crc = crc32c [] ∧ classify (some 5) 7 = .gap ∧
    (requestOf (rung up (header 0x0102 5)) 0).opcode ≠ 0x0101 := by decide +kernel

/-! ### Commands that report -/

/-- Whether a request is what its command finds in progress. -/
def ready (s : State) (w : Work) : Prop := workOf (on s w) 0 w.opcode = some w

theorem test_meets_reports : ∀ op ∈ [0x0101, 0x0204, 0x0804, 0x0901], ready up (req op) ∧ ready up (req op 1) := by
  unfold ready; decide +kernel
theorem test_meets_unit_reports : ∀ op ∈ [0x0102, 0x0103, 0x0604, 0x0A02], ready up (req op) := by unfold ready; decide +kernel
theorem test_unit_boundaries : (127 < 128 ∧ 15 < 16 ∧ 19 < 20) ∧ 0xC0 ∈ testedIslands ∧ 0xFFF ∉ testedIslands := by decide +kernel
theorem test_meets_table_reports : (∀ op ∈ [0x0504, 0x0506, 0x0C03, 0x0308, 0x030C, 0x0307, 0x0703], ready up (req op)) ∧
    ([({ step := 1, job := 2, ctx := 0 } : StepRec)].find? fun r => r.job == 2 && r.step == 1) = some { step := 1, job := 2, ctx := 0 } ∧
    up.sched.records = [] ∧ (up.cfg[6 - 1]?).isSome ∧ ctxAt (withCtx up { number := 0, scales := [{}] }) 0 = some { number := 0, scales := [{}] } ∧
    (jobAt { up with jobs := [{ number := 1 }] } 1).isSome ∧
    (regionAt { up with mem := { up.mem with regions := [⟨255, 0, 4096⟩] } } 255).isSome := by unfold ready; decide +kernel
theorem test_meets_tally_areas : ready up (req 0x0B01) ∧ ready up (req 0x0B02) ∧ (0 ≤ 1023 ∧ 65535 ≤ 65535 ∧ 511 ≤ 511) := by
  unfold ready; decide +kernel

/-! ### Contexts, images and steps -/

/-- An operand that is not used. -/
def noOpr : Opr := ⟨0xFFFFFFFF, 0, 0, 0⟩
/-- A descriptor without operands. -/
def desc (op : Nat) (index : Nat := 0) (deps : List Nat := []) : Desc :=
  ⟨op, false, false, 0xFFFF, index, deps, 0, 0xFFFF, [noOpr, noOpr, noOpr, noOpr], List.replicate 8 0⟩
/-- The bytes of a descriptor without operands. -/
def descBytes (op : Nat) : List Byte :=
  leBytes 4 (op + 0xFFFF0000) ++ leBytes 4 0 ++ leBytes 16 (2 ^ 128 - 1) ++ leBytes 4 0xFFFF0000 ++ leBytes 4 0 ++
  ((List.replicate 4 (leBytes 4 0xFFFFFFFF ++ leBytes 12 0)).flatten) ++ leBytes 32 0
/-- An image of job 1 with one BARRIER, in bytes. -/
def barrierBytes : List Byte :=
  leBytes 128 (0x4D425354 + 2 ^ 32 + 2 ^ 64 + 256 * 2 ^ 96 + 2 ^ 256 + 128 * 2 ^ 288 + 0xFFFF * 2 ^ 432) ++ descBytes 0x0F
/-- The same image as the Foreman keeps it. -/
def barrierImage : Image := parseImage barrierBytes
/-- A device in SERVICE whose context 0 holds the image. -/
def loaded : State := withCtx up { number := 0, images := [barrierImage] }
/-- A step of an image, admitted. -/
def admitted (img : Image) (step : Nat := 1) : Admitted :=
  ⟨1, 0, step, img, 1000, 1000, false, false, false, false, 0, 0, 0, 0, 0x1403, [0, 0, 0, 0, 0, 0], false, [], 0, 0, 0, 0, 0, []⟩
/-- A payload of LOAD_IMAGE or SUBMIT on the page. -/
def reqPage (op len : Nat) (payload : List Byte) : Work := { req op len with page := Mem.store [] 64 payload }
def loadReq : Work := reqPage 0x0501 24 (leBytes 4 3 ++ leBytes 4 0 ++ leBytes 8 0 ++ leBytes 4 256 ++ leBytes 4 0)
def submitReq : Work := reqPage 0x0503 32 (leBytes 4 0 ++ leBytes 4 1 ++ leBytes 8 1 ++ leBytes 16 0)
/-- The device with host region 3 and context 0. -/
def hosted : State := { withCtx up { number := 0 } with mem := { up.mem with regions := [⟨3, 4096, 4096⟩] } }

theorem test_meets_contexts : ready up (req 0x0401) ∧ ctxAt up 0 = none ∧ ctxAt loaded 0 ≠ none ∧ ready loaded (req 0x0402) ∧
    ctxBusy loaded 0 = false ∧
    ctxBusy { loaded with sched := { loaded.sched with queue := [admitted barrierImage] } } 0 = true := by
  unfold ready; decide +kernel
theorem test_meets_images : ready loaded (req 0x0502 8) ∧ (imageOf loaded 0 1).isSome = true ∧ inHand loaded = [] ∧
    ready loaded (req 0x0505 8) ∧ imageOf loaded 0 1 = some barrierImage ∧
    paramEntryOk { barrierImage with descs := [desc 8] } ⟨0, 0, 0, 0, 0, 0x7F800000⟩ = true ∧
    paramEntryOk barrierImage ⟨0, 0, 0, 0, 0, 0⟩ = false := by unfold ready; decide +kernel
theorem test_barrier_image : barrierImage.descs = [{ desc 0x0F with deps := List.replicate 4 0xFFFFFFFF }] ∧ barrierImage.job = 1 ∧ barrierImage.ctx = 0 ∧
    imageBad 112 barrierBytes 0 256 [] = none := by decide +kernel
theorem test_meets_load_image : ready hosted loadReq ∧ loadBad hosted loadReq = none ∧ ctxAt hosted 0 = some { number := 0 } ∧
    barrierBytes.length = (loadPayload loadReq.page).2.2 ∧
    (room (withoutImage hosted 0 1) (loadNeed { number := 0 } barrierImage)).isSome = true ∧
    (room { hosted with ctxs := [{ number := 0, images := [{ barrierImage with bytes := 2 ^ 40 }] }] } 256).isSome = false ∧
    imageBad 112 (List.replicate 256 0) 0 256 [] = some (1, 0, St.invalidField) ∧
    (regionAt hosted (loadPayload loadReq.page).1).isSome = true := by unfold ready; decide +kernel
theorem test_meets_submit : ready loaded submitReq ∧ submitBad loaded submitReq (submissionOf submitReq.page) = none ∧
    (match seek loaded (inHand loaded) barrierImage 1 (takeRanges loaded barrierImage) with
      | .found _ _ _ _ t0 => t0 == 0 | .refused _ => false) = true ∧ loaded.board.inRange = true ∧
    submitBad up submitReq (submissionOf submitReq.page) = some (St.noContext, 0) := by unfold ready; decide +kernel

/-! ### Regions, windows, pages and configuration -/

/-- An object entry of 64 by 128 elements. -/
def objEntry (n : Nat) (role : Role) (format : Format := .f32) (tier : Nat := 0) : ObjEntry :=
  ⟨n, format, 2, role, false, tier, false, false, false, false, false, 0, 0, [64, 128, 1, 1, 1]⟩
/-- An object of 64 by 128 elements. -/
def obj (n : Nat) (role : Role) : Obj := { entry := objEntry n role }
/-- Context 0 with a parameter 5, an activation 6 and a sequence table 7 of which entry 0 is open. -/
def objects : Context :=
  { number := 0,
    objects := [obj 5 .parameter, obj 6 .activation,
      { entry := { objEntry 7 .other .int32 with dims := [32, 1, 1, 1, 1] }, data := [(16, 1)] }] }
def full : State := { withCtx up objects with mem := hosted.mem }
/-- A stream of one byte per sample on unit 8. -/
def streamOf (units : BitVec 16) : StreamCfg :=
  ⟨1, 0, units, 0, 0, 2, 1, 0, 4, 4, 4, 1, 1, 1, 1, 1, 1, 1, 1, 0, 4096, 0, []⟩
/-- `s` with stream 15 open. -/
def streaming (s : State) (y : Stream := { cfg := streamOf 0x0100 }) (pi : Nat := 0) : State :=
  { s with streams := s.streams.set 15 { pi, stream := some y } }
def waits (s : State) : State := { s with sched := { s.sched with queue := [admitted barrierImage] } }

theorem test_meets_regions : ready hosted (req 0x0301 16) ∧ ready hosted (req 0x0302 8) ∧
    (∀ r ∈ hosted.mem.regions, r.address + r.bytes ≤ 8192) ∧ hosted.mem.regions.length < 256 ∧
    (8192 + (2 : Nat) ^ 40 ≤ 2 ^ 64 ∧ (2 ^ 64 - 4096) + 4096 ≤ 2 ^ 64) ∧
    (∃ r ∈ hosted.mem.regions, r.address < 4096 + 4096 ∧ 4096 < r.address + r.bytes) ∧
    (regionAt hosted 3).isSome = true ∧ regionBusy hosted ⟨3, 4096, 4096⟩ = false ∧
    regionBusy (streaming hosted) ⟨3, 4096, 4096⟩ = true := by unfold ready; decide +kernel
theorem test_meets_windows : ready full (req 0x0303 8) ∧ ready full (req 0x0304 8) ∧ objAt full 0 5 = some (obj 5 .parameter) ∧
    Role.persistent (obj 5 .parameter).entry.role = true ∧ (obj 5 .parameter).inT1 = true ∧
    objAt full 0 6 = some (obj 6 .activation) ∧ Role.persistent (obj 6 .activation).entry.role = false ∧
    ready full (req 0x0305 16) ∧ placementAt full 1023 = none ∧ (room full (2 ^ 30)).isSome = true ∧ ready full (req 0x0306 8) ∧
    unreadEntries full = 0 ∧ 0 < unreadEntries (streaming full {cfg := streamOf 0x0100} 1) := by unfold ready; decide +kernel
theorem test_meets_free_bit (n : Nat) : Config.free 52 n % 2 = 0 ∨ Config.free 52 n % 2 = 1 := by omega
theorem test_meets_pages : (∀ op ∈ [0x0309, 0x030A, 0x030B], ready full (req op 16) ∧ ready (waits full) (req op 16)) ∧
    ctxAt full 0 ≠ none ∧ kvNamed full 0 0x0309 ⟨7, 0, 0, 0⟩ = true ∧ kvNamed full 0 0x0309 ⟨7, 1, 0, 0⟩ = false ∧
    kvNamed { full with kv := { full.kv with pages := [⟨0, 7, 0, 0, 0, false, [0], [0], false, 0, [], [], [], []⟩] } } 0 0x030A
      ⟨7, 0, 0, 127⟩ = true ∧ busy full = false ∧ busy (waits full) = true ∧ full.kv.waiting = [] := by unfold ready; decide +kernel
/-- A request that stages or commits, on a mailbox whose slot for set 1 holds generation g. -/
def staged (op g : Nat) (v : Nat := 0x1403) : State :=
  { up with mbx := up.mbx.set 0 { work := some (req op 16), slots := some ⟨g, v⟩ :: List.replicate 5 none } }
theorem test_meets_configuration : ready up (req 0x0C01 16) ∧ ready up (req 0x0C04 8) ∧ setBad 1 0x1403 = none ∧
    setBad 1 0x1404 = some 0 ∧ setBad 1 0x3203 = none ∧ setBad 1 0x3303 = some 1 ∧ setBad 6 0 = none ∧
    workOf (staged 0x0C02 0) 0 0x0C02 = some (req 0x0C02 16) ∧ stageSlot (staged 0x0C02 0) 0 1 = some ⟨0, 0x1403⟩ ∧
    setGen (staged 0x0C02 0) 1 = 0 ∧ commitCause (staged 0x0C02 0) 1 0x1403 = none ∧ (staged 0x0C02 0).cfg.length = 6 ∧
    stageSlot (staged 0x0C02 1) 0 1 = some ⟨1, 0x1403⟩ ∧
    commitCause { up with fabric := { up.fabric with drill := true } } 6 0 = some 5 := by unfold ready; decide +kernel

/-! ### Jobs, shoring, drills and streams -/

/-- A box of one node on this device's position. -/
def box : JobBox := ⟨1, 0, 0, 0, 1, 1, 1, 0x80, 0⟩
def job : Job := { number := 1, box := some box }
def withJob (s : State) (j : Job) : State := { s with jobs := [j] }
/-- A torus of four nodes along x, with a job of all of them and a position mask of this device alone. -/
def wide : State :=
  { withJob up { number := 1, box := some { box with ex := 4 } } with cfg := up.cfg.set 3 { value := 3, force := 3 } }
def shoringReq : Work := reqPage 0x0701 32 (leBytes 4 1 ++ leBytes 4 0x02 ++ leBytes 4 0x3F800000 ++ leBytes 20 0)
theorem test_meets_jobs : up.dev.shutStep = 0 ∧ ready up (req 0x0601 16) ∧ boxOk up box = true ∧
    boxOk up { box with ex := 2 } = false ∧ ready (withJob up job) (req 0x0602 8) ∧ jobAt (withJob up job) 1 = some job ∧
    job.box ≠ none ∧ (partyOf (withJob up job) 1 1).box ≠ none ∧ nodeOf up < torusNodes (inForce up 4) ∧
    (∀ p ∈ up.fabric.ports, p.quarantine = 0) ∧ (∃ p ∈ ([{ quarantine := 1 }] : List Port), p.quarantine ≠ 0) ∧
    job.lastCompleted.getD 0 = 0 ∧ ready (withJob up job) (req 0x0603 8) ∧ { job with joined := true }.joined = true := by
  unfold ready; decide +kernel
theorem test_meets_shoring : ready wide shoringReq ∧ configureBad wide shoringReq = none ∧
    configureBad up shoringReq = some 64 ∧ ready (withJob up { job with lost := 2, since := [3] }) (req 0x0702 16) ∧
    (∃ r ∈ hosted.mem.regions, r.number = 3) := by unfold ready; decide +kernel
theorem test_meets_drills : ready up (req 0x0605) ∧ ready up (req 0x0606) := by unfold ready; decide +kernel
/-- A stream record of R250 with a ring at 4,096: raw batches of two, one batch ahead. -/
def openReq : Work := reqPage 0x0801 256
  (leBytes 128 (15 + 2 ^ 4 + 0x0100 * 2 ^ 8 + 2 * 2 ^ 36 + 2 ^ 52 + 4 * 2 ^ 64 + 4 * 2 ^ 80 + 4 * 2 ^ 96 + 2 ^ 112 + 2 ^ 128 + 2 ^ 144 +
    2 ^ 160 + 2 ^ 176 + 2 ^ 184 + 2 ^ 192 + 2 ^ 224 + 4096 * 2 ^ 384))
/-- The device with a registered range that holds the ring. -/
def ringed : State := { up with mem := { up.mem with regions := [⟨3, 4096, 4096⟩] } }
theorem test_meets_open : ready ringed openReq ∧ (∀ x ∈ openChecks openReq.page (streamCfg openReq.page), x.2 = false) ∧
    augmentBad openReq.page (streamCfg openReq.page) = false ∧
    insideRegions ringed (streamCfg openReq.page).ringAddr (32 * ringSize (streamCfg openReq.page)) = true ∧
    Mem.le openReq.page 64 1 % 16 = 15 ∧ streamAt ringed 15 = none ∧ (∀ x ∈ ringed.streams, x.stream = none) ∧
    (room ringed (stagingBytes (streamCfg openReq.page))).isSome = true ∧ streamAt (streaming ringed) 15 ≠ none := by
  unfold ready; decide +kernel
theorem test_meets_close : ready (streaming up) (req 0x0802 8) ∧ streamAt (streaming up) 15 ≠ none ∧
    streamTaken (streaming up) 15 = false ∧ streamAt up 15 = none ∧ streamTaken { streaming up with sched :=
      { up.sched with queue := [{ admitted barrierImage with takes := [(15, 0, 1)] }] } } 15 = true := by unfold ready; decide +kernel
theorem test_meets_substitute : ready (streaming up) (req 0x0803 40) ∧ unfetchable up entry = false ∧
    headerReason ringed (streamOf 0x0100) entry (fetched ringed entry sample) = none ∧
    bodyReason (streamOf 0x0100) (fetched ringed entry sample) = none ∧
    (room (streaming up) (planeBytes (streamOf 0x0100) 1 1 1)).isSome = true := by unfold ready; decide +kernel

/-! ### Service commands -/

/-- The device with presence in TEST. -/
def testing : State := inState up .test
theorem test_meets_self_test : ready testing (req 0x0A01 8) ∧ (∀ i ∈ [0, 0xC0], islandListed i = true) ∧
    testing.dev.reference = true ∧ (∀ i ∈ [0, 0xC0], mayTest testing i = true) ∧ mayTest (waits testing) 0 = false := by
  unfold ready; decide +kernel
theorem test_meets_retire : ready up (req 0x0A03 8) ∧ up.islands.retireAsked = [] ∧ decoderOpen up 0x104 = false ∧
    isDecoder 0x104 = true ∧ isDecoder 0x10B = true ∧ isPort 0x110 = true ∧ isPort 0x123 = true ∧ isPort 0x124 = false ∧
    busy up = false ∧ (∀ g ∈ up.groves, g.neededAt = none) ∧ (groveAt up 31).role = .spare ∧ busy (waits up) = true ∧
    ¬ (0xFFF < 128 ∨ isPort 0xFFF = true ∨ isDecoder 0xFFF = true) := by unfold ready; decide +kernel
theorem test_meets_repair : ready testing (req 0x0A04 8) ∧
    islandRetired { testing with flash := { testing.flash with retired := [0x123] } } 0x123 = true ∧
    islandRetired { testing with groves := testing.groves.set 127 { role := .retired } } 127 = true ∧ bistFlag testing 127 = false ∧
    bistFlag { testing with flash := { testing.flash with bist := [⟨127, true, 0, 0, 0, 0⟩] } } 127 = true ∧
    ready testing (req 0x0A05 8) ∧ editInRange (.setErasure 15 63 35) = true ∧ editInRange (.setErasure 16 0 0) = false ∧
    editInRange (.retireFrame 15 63 65535) = true ∧ editBooked testing (.setErasure 15 63 35) = false := by
  unfold ready; decide +kernel
/-- Every place in the Foreman's order of frames is some frame's. -/
theorem frame_at (s : State) (h : s.flash.frames = []) (j : Nat) (hj : j < 2 ^ 22) :
    ∃ a, a < 2 ^ 36 ∧ a % frameBytes = 0 ∧ addrStack a = 0 ∧ framePlace s 0 (addrPch a) (addrFrame a) = some j := by
  have hn : j ^^^ Config.frameOrder s.mem.epoch 0 % 2 ^ 22 < 2 ^ 22 :=
    Nat.xor_lt_two_pow hj (Nat.mod_lt _ (by decide))
  have he : (j ^^^ Config.frameOrder s.mem.epoch 0 % 2 ^ 22) ^^^ Config.frameOrder s.mem.epoch 0 % 2 ^ 22 = j := by
    rw [Nat.xor_assoc, Nat.xor_self, Nat.xor_zero]
  generalize hk : j ^^^ Config.frameOrder s.mem.epoch 0 % 2 ^ 22 = n at hn he
  obtain ⟨p, f, hpf, hf, hp⟩ : ∃ p f, 65536 * p + f = n ∧ f < 65536 ∧ p < 64 := ⟨n / 65536, n % 65536, by omega, by omega, by omega⟩
  have hd : (f * 1048576 + p * 16384) / 1048576 = f := by omega
  have hz : (f * 1048576 + p * 16384) / 68719476736 = 0 := by omega
  have e1 : addrPch (f * 1048576 + p * 16384) = p := by
    simp [addrPch, bits, Nat.shiftRight_eq_div_pow]; omega
  have e2 : addrFrame (f * 1048576 + p * 16384) = f := by
    simp [addrFrame, bits, Nat.shiftRight_eq_div_pow, hd, hf]
  refine ⟨f * 1048576 + p * 16384, by omega, by simp [frameBytes]; omega, ?_, ?_⟩
  · simp [addrStack, bits, Nat.shiftRight_eq_div_pow, hz]
  · have he4 : n ^^^ Config.frameOrder s.mem.epoch 0 % 4194304 = j := he
    simp [framePlace, h, e1, e2, frameNumber, hpf, he4]
/-- The frames of the system area are booked, and so is one that holds an object. -/
theorem test_meets_booked_frame : ∃ pch f, editBooked full (.retireFrame 0 pch f) = true := by
  obtain ⟨a, -, -, -, h⟩ := frame_at full rfl 0 (by decide)
  refine ⟨addrPch a, addrFrame a, ?_⟩
  simp only [editBooked, frameHeld, frameUse, h, Option.bind_some]
  decide +kernel
theorem test_meets_margin : ready testing (req 0x0A06 16) ∧ marginLimits 4 = some (3, 9) ∧ marginWithin ⟨15, 4, -9, 9⟩ 9 = true ∧
    marginWithin ⟨15, 4, -3, 3⟩ 3 = true ∧ marginWithin ⟨15, 4, -3, 4⟩ 3 = false ∧ stackHeld testing 15 = false ∧
    (req 0x0A06 16).present = true ∧ { req 0x0A06 16 with present := false }.present = false := by unfold ready; decide +kernel
/-- `s` with the staging buffer of mailbox 0. -/
def buffered (s : State) : State := { s with mem := { s.mem with fwOwner := some 0 } }
theorem test_meets_firmware : ready up (req 0x0201 16) ∧ (2 ^ 25 - 4000) + 4000 ≤ 2 ^ 25 ∧ (buffered up).mem.fwOwner = some 0 ∧
    up.mem.fwOwner ≠ some 0 ∧ ready (buffered up) (req 0x0202 8) ∧ (fwSlot up 1).state ≠ .active ∧
    fwVerify 0 0 (buffered up).mem.fwBuffer = some 1 ∧ Mem.wf (buffered up).mem.fwBuffer = true ∧ ready up (req 0x0203 8) ∧
    (fwSlot { up with flash := { up.flash with slots := [⟨.active, []⟩, ⟨.valid, []⟩] } } 0).state = .active ∧
    (fwSlot { up with flash := { up.flash with slots := [⟨.active, []⟩, ⟨.failed, []⟩] } } 1).state = .failed := by
  unfold ready; decide +kernel
theorem test_meets_enter_state : ready up (req 0x0104 8) ∧ targetState 3 = some .test ∧ up.dev.shutAsked = false ∧
    up.dev.target = none ∧ up.dev.state.served = true ∧ busy up = false ∧ (∀ j ∈ up.jobs, j.joined = false) ∧
    ready (inState up .start) (req 0x0104 8) ∧ targetState 0 = some .off ∧ targetState 4 = some .recovery ∧
    targetState 2 = some .service := by unfold ready; decide +kernel

/-! ### Registers and the host's windows -/

theorem test_meets_registers : hostReaches up = true ∧ (up.streams[15]?).isSome = true ∧ (at' up.streams 15 {}).stream = none ∧
    (0 ≤ ({ cfg := streamOf 0x0100 } : Stream).ci + ringSize (streamOf 0x0100)) ∧ ringSize (streamOf 0x0100) = 64 ∧
    (leBytes 8 (64 : Nat)).length = 8 ∧ (leBytes 8 (2 ^ 64 - 1)).length = 8 := by decide +kernel
theorem test_meets_register_writes : (0 + (leBytes 8 0).length ≤ 4096) ∧ (8184 + (leBytes 8 0).length ≤ 8192) ∧
    leValue (leBytes 4 1) % 2 = 1 ∧ (up.link.table[63]?).isSome = true ∧ 0xFFFFC < 0x100000 ∧ 0xFFFF9 % 8 ≠ 0 ∧
    hostReaches State.reset = false := by decide +kernel
theorem test_meets_device_view : wideReaches testing = true ∧ deviceView testing = true ∧ testing.link.bar4Two = true ∧
    stackState testing (addrStack ((2 ^ 40 - 1) % 2 ^ 40)) ≠ 3 ∧ (2 ^ 40 - 1) + 1 ≤ 2 ^ 40 ∧
    { testing.link with bar4Two := false }.bar4Two = false := by decide +kernel
/-- A free address, beyond every allocation. -/
theorem test_meets_free_address : ∃ a, a < 2 ^ 36 ∧ holderOf testing a = none := by
  obtain ⟨a, h1, -, h2, h⟩ := frame_at testing rfl (2 ^ 22 - 1) (by decide)
  refine ⟨a, h1, ?_⟩
  have e : findRun (frameRuns testing 0) (2 ^ 22 - 1) = none := by decide +kernel
  simp only [holderOf, h2, frameUse, h, Option.bind_some, e, Option.map_none]
/-- The first byte of an object's slot, and a byte of a placement slot, wherever the Foreman placed them. -/
theorem test_meets_held_addresses : (∃ a, a < 2 ^ 36 ∧ holderOf (inState full .test) a = some (.obj 0 5 0 0)) ∧
    (∃ a, a < 2 ^ 36 ∧ holderOf (inState { up with mem := { up.mem with placements := [⟨1023, 4096, []⟩] } } .test) a =
      some (.placement 1023 0)) := by
  constructor
  · obtain ⟨a, h1, h3, h2, h⟩ := frame_at (inState full .test) rfl 16384 (by decide)
    refine ⟨a, h1, ?_⟩
    simp only [holderOf, h2, h3, frameUse, h, Option.bind_some]
    decide +kernel
  · obtain ⟨a, h1, h3, h2, h⟩ := frame_at
      (inState { up with mem := { up.mem with placements := [⟨1023, 4096, []⟩] } } .test) rfl 16384 (by decide)
    refine ⟨a, h1, ?_⟩
    simp only [holderOf, h2, h3, frameUse, h, Option.bind_some]
    decide +kernel
/-- The device whose Adit shows object 5. -/
def mapped : State := { full with mem := { full.mem with adit := some (0, 5) } }
theorem test_meets_adit : wideReaches mapped = true ∧ mapped.dev.state = .service ∧ mapped.mem.adit = some (0, 5) ∧
    objAt mapped 0 5 = some (obj 5 .parameter) ∧ mapped.regs.aditBase.toNat = 0 ∧ viewBytes (objEntry 5 .parameter) = 32768 ∧
    (obj 5 .parameter).entry.zeroRun = false ∧ objectInHand mapped 0 5 = false ∧ full.mem.adit = none ∧
    objectInHand { mapped with sched := { mapped.sched with queue :=
      [admitted { barrierImage with descs := [{ desc 11 with oprs := [⟨5, 0, 0, 0⟩, ⟨5, 0, 0, 0⟩, noOpr, noOpr] }] }] } } 0 5 = true := by
  decide +kernel
theorem test_meets_placement : wideReaches up = true ∧ up.dev.state = .service ∧ placementAt up 1023 = none ∧
    placementAt { up with mem := { up.mem with placements := [⟨1023, 4096, []⟩] } } 1023 = some ⟨1023, 4096, []⟩ ∧
    4095 + 1 ≤ 4096 := by decide +kernel
theorem test_meets_configuration_space : up.link.up = true ∧ up.dev.state ≠ .off ∧ State.reset.dev.stage < 2 ∧
    2 ≤ up.dev.stage ∧ State.reset.dev.state ≠ .off := by decide

/-! ### Resets, start-up and the host link -/

/-- `s` at a device time. -/
def atTime (s : State) (t : Nat) : State := { s with time := t }
/-- `s` with the host link down. -/
def unlinked (s : State) : State := { s with link := { s.link with up := false } }
theorem test_meets_resets : up.dev.state ≠ .off ∧ up.link.up = true ∧ (unlinked up).link.up = false ∧
    (unlinked up).link.downAt + 100000000 ≤ (atTime (unlinked up) 100000000).time ∧
    up.dev.startedAt ≤ (unlinked up).link.downAt := by decide
/-- The device held in OFF by PERST#. -/
def held : State := { inState up .off with board := { up.board with perst := true } }
theorem test_meets_release : held.dev.state = .off ∧ held.board.pwrGood = true ∧ held.board.perst = true ∧
    held.board.resetL = false ∧ exec (.perstRelease (.release .perst)) up = .next up := by
  refine ⟨by decide, by decide, by decide, by decide, ?_⟩; rfl
theorem test_meets_start_up : State.reset.dev.state = .start ∧ State.reset.dev.stage = 1 ∧ State.reset.dev.startedAt ≤ State.reset.time ∧
    (bootSlot { inState up .start with flash := up.flash }).2 = none ∧ (2 : Nat) ≠ 1 ∧
    { up.dev with stage := 3 }.shutAsked = false ∧ { up.dev with trial := true }.trial = true := by decide +kernel
/-- An image in the active slot that passes R361 is the one that boots; whether bytes pass is the cryptography's. -/
theorem test_meets_boot (m : Mem) (h : fwVerify 0 0 m = none) :
    (bootSlot { up with flash := { up.flash with slots := [⟨.active, m⟩, ⟨.empty, []⟩] } }).2 = some 0 := by
  let s : State := { up with flash := { up.flash with slots := [⟨.active, m⟩, ⟨.empty, []⟩] } }
  have c : bootChoice s = some 0 := rfl
  have v : fwVerify s.flash.minSecurity s.flash.revoked (fwSlot s 0).image = none := h
  show (bootSlot s).2 = some 0
  simp only [bootSlot, c, v]
theorem test_meets_trial : { up.dev with trial := true }.startedAt + 2000000000 ≤ (atTime up 2000000000).time ∧
    (inState up .start).dev.state = .start ∧ (inState up .recovery).dev.state = .recovery ∧ testing.dev.state = .test := by decide
theorem test_meets_link : up.link.up = true ∧ (unlinked up).link.up = false ∧ trains 128 16 = true ∧ trains 2 1 = true ∧
    (64 ≠ up.link.speed) := by decide
theorem test_meets_transfers : ready hosted loadReq ∧ (∃ x ∈ ([⟨0, 1, 2, 3, 4, 5⟩] : List Spill), x.ctx = 0 ∧ x.sequence = 1 ∧
    x.group = 2 ∧ x.position = 3) ∧ (objAt full 0 5).isSome = true ∧ (jobAt (withJob up job) 1).isSome = true := by
  unfold ready; decide +kernel

/-! ### Identity, presence, power and heat -/

/-- The responder with its algorithms agreed, and a chain in slot 7. -/
def agreed : State :=
  { up with spdm := { up.spdm with negotiated := true }, flash := { up.flash with certs := List.replicate 7 [] ++ [[1]] } }
theorem test_meets_spdm : spdmReaches up .doe = true ∧ spdmReaches up .mctp = true ∧ up.spdm.negotiated = false ∧
    agreed.spdm.negotiated = true ∧ spdmReaches agreed .doe = true ∧ 0 < (certAt agreed 7).length ∧ certAt agreed 7 ≠ [] ∧
    agreed.dev.identity = true ∧ { agreed.dev with identity := false }.identity = false := by decide +kernel
theorem test_meets_provisioning : presenceOpen { agreed with board := { agreed.board with serviceL := true } } = true ∧
    presenceOpen { agreed with board := { agreed.board with window := some 1 } } = true ∧ presenceOpen agreed = false ∧
    (List.replicate 65536 (0 : Byte)).length ≤ 65536 := by
  refine ⟨by decide, by decide, by decide, ?_⟩
  exact Nat.le_of_eq List.length_replicate
theorem test_meets_presence : up.dev.state ≠ .off ∧ up.board.armed = true ∧ up.board.window = none ∧
    { up.board with window := some 5 }.window = some 5 ∧ (5 : Nat) ≤ (atTime up 5).time ∧ (atTime up 4).time < 5 ∧
    true ≠ up.board.serviceL ∧ 99999999 < 100000000 := by decide
/-- The module without input power. -/
def dark : State := { inState up .off with board := { up.board with pwrGood := false } }
theorem test_meets_power : dark.board.pwrGood = false ∧ dark.board.faultLatch = false ∧ (44000 ≤ 44000 ∧ 58000 ≤ 58000) ∧
    { dark.board with faultLatch := true }.faultLatch = true ∧ up.board.pwrGood = true := by decide
theorem test_meets_range : up.board.inRange = true ∧ (42000 ≤ 45999 ∧ 45999 < 46000 ∧ 56000 < 56001 ∧ 10000 < 10001) ∧
    { up.board with inRange := false }.inRange = false := by decide
theorem test_meets_limits : up.dev.state ≠ .off ∧ up.dev.state ≠ .halt ∧ up.board.pwrGood = true ∧
    sensorValue up.board (.hbm 15) < (thresholds (.hbm 15)).1 ∧
    (thresholds .io).1 ≤ sensorValue { up.board with io := (thresholds .io).1 } .io ∧ (thresholds (.compute 3)).2.2.isSome = true := by
  decide
theorem test_meets_shut_down : up.board.shdnReq = false ∧ startWaits up = false ∧ up.dev.shutAsked = false ∧
    (inState up .halt).dev.state = .halt ∧ startWaits (inState up .halt) = false ∧ othersDone up = true ∧
    othersDone (on { up with dev := { up.dev with shutAsked := true, shutAt := 1 } } (req 0x0501)) = false ∧ shutOpcodes.contains 0x0503 = true ∧ up.dev.shutStep = 0 ∧
    { up.dev with shutStep := 2 }.shutStep = 2 ∧ busy up = false ∧ busy (waits up) = true ∧ up.dev.reference = true := by
  decide +kernel

/-! ### Steps and instances -/

/-- `s` with a step queued. -/
def queued (s : State) (a : Admitted) : State := { s with sched := { s.sched with queue := [a] } }
/-- A running step of an image, past its context switch. -/
def running (img : Image) : Run := { adm := admitted img, started := 0, switched := true }
/-- `s` with a running step. -/
def runs (s : State) (r : Run) : State := { s with sched := { s.sched with run := some r } }
/-- An image of job 1 on context 0 with these descriptors and objects 5 to 7. -/
def imageOfDescs (ds : List Desc) (os : List ObjEntry := []) : Image :=
  ⟨0, 1, 256, 0xFFFF, 0, os, [], ds, [], [], [], []⟩
def first : InstId := ⟨0, 0, 0⟩
theorem test_meets_step_start : (inState up .service).dev.state ≠ .halt ∧ (queued up (admitted barrierImage)).sched.run = none ∧
    (admitted barrierImage).voidedBehind = false ∧ jobAt up 1 = none ∧
    (admitted barrierImage).groves ≤ (admitted barrierImage).covered + (inService up).length ∧ (inService up).length = 112 ∧
    { admitted barrierImage with groves := 113 }.covered + (inService up).length < 113 ∧
    { admitted barrierImage with voidedBehind := true }.voidedBehind = true ∧
    { running barrierImage with switched := false }.switched = false ∧ (running barrierImage).switched = true := by decide +kernel
theorem test_meets_instance_complete : (runs up { running barrierImage with executed := [first] }).sched.run =
      some { running barrierImage with executed := [first] } ∧ first ∉ (running barrierImage).complete ∧
    (barrierImage.descs[first.index]?).isSome = true ∧ (desc 0x0F).opcode ∉ [5, 8, 12] ∧ first ∉ (running barrierImage).executed := by
  decide +kernel
theorem test_meets_step_complete : stepDone loaded { running barrierImage with executed := [first], complete := [first] } = true ∧
    (running barrierImage).mismatchEnd = false ∧ stepDone loaded (running barrierImage) = false := by decide +kernel
/-- An image with an object in T3, for which no region is registered. -/
def homeless : Image :=
  { imageOfDescs [{ desc 11 with oprs := [⟨6, 0, 0, 0⟩, ⟨6, 0, 0, 0⟩, noOpr, noOpr] }]
      [{ objEntry 6 .activation with tier := 2 }] with job := 1 }
theorem test_meets_readmission : readmittable up = none ∧
    readmittable (queued up { admitted barrierImage with voidedBehind := true }) =
      some ({ admitted barrierImage with voidedBehind := true }, []) ∧
    (match seek (queued loaded { admitted barrierImage with voidedBehind := true }) [] barrierImage 1 [] with
      | .found _ _ _ _ _ => true | .refused _ => false) = true ∧
    (match seek (queued loaded { admitted homeless with voidedBehind := true }) [] homeless 1 [] with
      | .found _ _ _ _ _ => false | .refused _ => true) = true := by decide +kernel
theorem test_meets_checkers : groveWorks up 0 = true ∧ groveWorks up 127 = false ∧ 127 < up.groves.length ∧
    keepLast 3 ([1, 5] ++ [10 ^ 12]) = [1, 5, 10 ^ 12] ∧ (10 ^ 12 - 1 < 10 ^ 12) ∧ (keepLast 3 ([5] ++ [10])).length < 3 ∧
    (groveAt { up with groves := up.groves.set 31 { role := .spare, readying := true } } 31).readying = true ∧
    (groveAt { up with groves := up.groves.set 31 { role := .spare, readying := true } } 31).role = .spare ∧
    busy up = false ∧ busy (waits up) = true ∧ (∀ x ∈ up.groves, x.neededAt = none) := by decide +kernel
theorem test_meets_islands : nextEvent up 0 = none ∧ islandInUse up 0 = false ∧ sleepState up 0 = .c2 ∧ wakeDue up 0 = false ∧
    wakeDue up (islandStack 15) = true ∧ powerManaged up (islandStack 15) = true := by decide +kernel
theorem test_power_boundaries : powerManaged up 0 = true ∧ powerManaged up 0x123 = true ∧ chooseState up 127 1000 false false = .p0 ∧
    chooseState up 127 1001 false false = .c1 ∧ chooseState up 127 50000 false false = .c1 ∧ chooseState up 127 50001 false false = .c2 ∧
    chooseState up 127 20000000 false false = .c2 ∧ chooseState up 127 20000001 false false = .c3 ∧
    chooseState up 127 20000001 true false = .c2 := by decide +kernel
/-- The device with position 0 of a pseudo-channel of stack 15 erased. -/
def erased : State := { up with flash := { up.flash with erasures := [(15, 0, 0)] } }
theorem test_meets_patrol : stackRuns up = true ∧ (up.hbm[15]?).isSome = true ∧ (at' up.hbm 15 {}).slice ≠ 4095 ∧
    { at' up.hbm 15 {} with slice := 4095 }.slice = 4095 ∧ addrStack (15 * 2 ^ 36) = 15 ∧ sliceDue up 15 = true ∧
    sliceDue { up with hbm := up.hbm.set 15 { at' up.hbm 15 {} with lastSlice := some 0 } } 15 = false ∧
    stackAsleep (setPower up (islandStack 15) .p0) 15 = false ∧ stackAsleep up 15 = true ∧ bits (15 * 2 ^ 36) 35 24 = 0 ∧
    correctable up ⟨15 * 2 ^ 36, [(35, 255)]⟩ = true ∧ correctable erased ⟨15 * 2 ^ 36, [(0, 1), (35, 255)]⟩ = true ∧
    correctable erased ⟨15 * 2 ^ 36, [(1, 1), (2, 3)]⟩ = false := by decide +kernel

/-- A descriptor on objects 5 to 7. -/
def touching (op : Nat) : Desc := { desc op with oprs := [⟨5, 0, 0, 0⟩, ⟨5, 0, 0, 0⟩, ⟨5, 0, 0, 0⟩, noOpr] }
/-- An instance of an opcode may start on a device with objects 5 to 7, as the one instance of its step. -/
def starts (op : Nat) : Bool := mayStart full (running (imageOfDescs [desc op])) first (desc op)
theorem test_meets_instances : (∀ op ∈ [1, 2, 3, 4, 5, 6, 7, 9, 10, 11, 12, 13, 14, 15], starts op = true) ∧
    mayStart full { running (imageOfDescs [desc 8]) with norm := some ⟨0, 1, 0, 0⟩ } first (desc 8) = true ∧
    onSapling (imageOfDescs [touching 2] [objEntry 5 .parameter]) (touching 2) = true ∧
    onSapling (imageOfDescs [desc 2]) (desc 2) = false ∧
    saplingReady { running (imageOfDescs [touching 2] [objEntry 5 .parameter]) with filters := [first] } first = true ∧
    mayStart full (running (imageOfDescs [touching 2] [objEntry 5 .parameter])) first (touching 2) = true ∧
    (∀ j ∈ (imageOfDescs [desc 5]).insts, precedes (imageOfDescs [desc 5]) j first = false) := by decide +kernel
/-- The implicit SCALE_SYNC comes after the one instance of its step. -/
theorem test_meets_implicit_sync : (∀ j ∈ (imageOfDescs [desc 15]).insts, j = first) ∧
    instDone { running (imageOfDescs [desc 15]) with executed := [first], complete := [first] } first = true ∧
    (⟨0, 0, 1⟩ : InstId) ∉ [first] ∧ instDone (running (imageOfDescs [desc 15])) first = false := by decide +kernel
/-- A device that is alone in its job waits for no other. -/
theorem test_meets_alone : (partyOf full 1 1).box = none ∧ (partyOf full 1 0).box = none ∧ shadowsOf full 1 = [] ∧
    (readerView full (imageOfDescs [touching 9] [objEntry 5 .parameter]) 5).isSome = true ∧
    ((imageOfDescs [touching 10] [objEntry 5 .parameter]).entry 5).isSome = true ∧ (touching 10).param 0 = 0 := by decide +kernel
theorem test_meets_waiting : entered full (running (imageOfDescs [desc 9])) 0 = true ∧ jobRuns full 1 = true ∧
    (running (imageOfDescs [desc 9])).mismatchEnd = false ∧
    (reduceDo first (running (imageOfDescs [touching 9] [objEntry 5 .parameter])) (touching 9)
      (runs full (running (imageOfDescs [touching 9] [objEntry 5 .parameter])))).isSome = true ∧
    (gatherDo first (running (imageOfDescs [touching 10] [objEntry 5 .parameter])) (touching 10)
      (runs full (running (imageOfDescs [touching 10] [objEntry 5 .parameter])))).isSome = true ∧
    (takeReady full (running (imageOfDescs [desc 12])) first (desc 12)).isNone = true ∧
    (takeReady (streaming full { cfg := streamOf 0x0100, staged := [⟨0, 1, 1, [0], 0⟩, ⟨1, 1, 1, [0], 0⟩] })
      { running (imageOfDescs [{ desc 12 with params := 15 :: List.replicate 7 0 }]) with
        adm := { admitted (imageOfDescs [{ desc 12 with params := 15 :: List.replicate 7 0 }]) with takes := [(15, 0, 1)] } } first
      { desc 12 with params := 15 :: List.replicate 7 0 }).isSome = true ∧
    (∀ j ∈ (imageOfDescs [desc 14]).insts, j = first) ∧ first ≠ ⟨0, 0, 1⟩ ∧ (desc 15).jobWide = false ∧
    entered wide (running (imageOfDescs [{ desc 15 with jobWide := true }])) 0 = false := by decide +kernel
theorem test_meets_turn : { running barrierImage with switched := false }.switched = false ∧ first ∈ [first] ∧
    first ∈ predsOf (imageOfDescs [desc 15, { desc 15 1 [0] with index := 1 }]) ⟨0, 0, 1⟩ ∧
    instDone (running (imageOfDescs [desc 15, desc 15 1 [0]])) first = false := by decide +kernel
theorem test_meets_filters : first ∈ saplingInsts (imageOfDescs [touching 2] [objEntry 5 .parameter]) ∧
    (up.islands.saplings[saplingRank (imageOfDescs [touching 2] [objEntry 5 .parameter]) first % 4]?).isSome = true ∧
    at' ({} : Sapling).buffers ({} : Sapling).idle none = none ∧
    at' ({ buffers := [some (first, []), none] } : Sapling).buffers 0 none ≠ none ∧
    planFree full (running (imageOfDescs [touching 2] [objEntry 5 .parameter])) (.filter first) = true ∧
    predsOf (imageOfDescs [touching 2] [objEntry 5 .parameter]) first = [] ∧ mbLoopOf (imageOfDescs [touching 2]) (touching 2) = none := by
  decide +kernel
/-- An image with a vector program of one run whose body is NOP. -/
def vecImage : Image := { imageOfDescs [desc 7] with vprogs := [[0x100, 0x03]] }
theorem test_meets_vec_run : mayStart full (running vecImage) first (desc 7) = true ∧ 0 < runsOf vecImage (desc 7) ∧
    runsOf vecImage (desc 7) = 1 ∧ (first, 0) ∉ (running vecImage).runs ∧
    (vecAt (beginRun full 0 first (running vecImage) (desc 7) 0) 0).inst = some first ∧
    runGrove full first { running vecImage with groves := [0, 1] } (desc 7) 0 = some 0 ∧
    runGrove full first { running vecImage with groves := [0, 1] } (desc 7) 0 ≠ some 1 ∧
    programDone vecImage (desc 7) { vecAt (beginRun full 0 first (running vecImage) (desc 7) 0) 0 with pc := 2 } = true := by
  decide +kernel
theorem test_meets_versions : 3 ∉ (running barrierImage).confirmed ∧
    (∃ x ∈ { running barrierImage with recorded := [(3, 5, 1, 0)] }.recorded, x.1 = 3) ∧
    ([(⟨5, 0, false⟩ : VersionAnswer)].find? fun a => a.object == 5 && !a.known).isSome = true := by decide
/-- A step with one UPDATE, whose norm collective comes first. -/
def updating : Run := running (imageOfDescs [desc 8])
theorem test_meets_norm : updating.norm = none ∧ (firstUpdate updating.adm.image).isSome = true ∧
    entered full updating (normNumber updating.adm.image) = true ∧ jobRuns full 1 = true ∧ updating.mismatchEnd = false ∧
    (∀ j ∈ updating.adm.image.insts, j = first) ∧ writesGradient updating.adm.image (desc 8) = false := by decide +kernel

/-! ### Derived moves, samples and the fabric -/

/-- An object that stands outside T1, with its home in T3. -/
def away (role : Role) : Obj := { entry := objEntry 5 role .f32 2, inT1 := false }
theorem test_meets_moves : objAt (withCtx up { number := 0, objects := [away .parameter] }) 0 5 = some (away .parameter) ∧
    (imageOfDescs [desc 15] [objEntry 5 .parameter .f32 2]).entry 5 = some (objEntry 5 .parameter .f32 2) ∧
    Role.persistent (away .parameter).entry.role = true ∧ Role.persistent (away .activation).entry.role = false ∧
    (away .parameter).inT1 = false ∧
    writeBackDue (running (imageOfDescs [touching 11] [objEntry 5 .parameter .f32 2])) { away .parameter with inT1 := true } = true ∧
    (∀ i ∈ (imageOfDescs [touching 11] [objEntry 5 .parameter .f32 2]).insts,
      instDone { running (imageOfDescs [touching 11] [objEntry 5 .parameter .f32 2]) with executed := [first], complete := [first] } i =
        true) := by decide +kernel
/-- A stream with a sample on unit 8. -/
def decoding : Stream := { cfg := streamOf 0x0100, next := 1, busy := [⟨8, 0, entry, 0⟩] }
theorem test_meets_samples : streamAt (streaming up {cfg := streamOf 0x0100} 1) 15 = some {cfg := streamOf 0x0100} ∧
    freeUnitOf ({ cfg := streamOf 0x0100 } : Stream) = some 8 ∧ (0 < (at' (streaming up {cfg := streamOf 0x0100} 1).streams 15 {}).pi) ∧
    0 < (0 + (streamOf 0x0100).ahead) * (streamOf 0x0100).batch ∧ unfetchable up entry = false ∧
    headerReason ringed (streamOf 0x0100) entry (fetched ringed entry sample) = none ∧
    headerReason ringed (streamOf 0x0100) { entry with reserved := 1 } (fetched ringed { entry with reserved := 1 } sample) = some 3 ∧
    onUnit (streaming up decoding 1) 15 8 = some ⟨8, 0, entry, 0⟩ ∧ (atTime up 0).time ≤ 0 + budgetNs (streamOf 0x0100) ∧
    0 + budgetNs (streamOf 0x0100) ≤ (atTime up (budgetNs (streamOf 0x0100))).time ∧
    bodyReason (streamOf 0x0100) (fetched up entry sample) = none ∧
    bodyReason (streamOf 0x0100) (fetched up entry ⟨true, .coded (rawBytes ++ [0])⟩) = some 4 ∧
    (takeOwner { streaming up with sched := { up.sched with queue := [{ admitted barrierImage with takes := [(15, 0, 1)] }] } } 15 (0 / 2)).isSome
      = true ∧ (at' (streaming up).streams 15 {}).pi ≤ 0 := by decide +kernel
/-- A step that takes one batch of stream 15 at once. -/
def taking : Admitted :=
  { admitted (imageOfDescs [{ touching 12 with params := 15 :: List.replicate 7 0 }] [objEntry 5 .parameter]) with
    takes := [(15, 0, 1)], plan := [⟨.inst first, Frac.zero, Frac.zero, [], [], []⟩] }
theorem test_meets_late : takeOwner { streaming up with sched := { up.sched with queue := [taking] } } 15 (0 / 2) = some taking ∧
    takeDue { streaming up with sched := { up.sched with queue := [taking] } } taking 15 0 = true ∧
    takeDue (streaming up) { taking with t0 := 1000000000000000000 } 15 0 = false := by decide +kernel
/-- Decoding by R258 and R259: codes × 2^−8, each chroma sample at two luma columns; a raw F32 value as it stands. -/
theorem test_decode_samples : (decodeSample { streamOf 1 with kind := 0, outC := 3 } (.av1 picture)).values =
      [0x3F000000, 0x3E800000, 0x3E000000, 0x3D800000, 0x3D800000, 0x3D000000, 0x3C800000, 0x3C800000, 0x3C000000] ∧
    decodeSample (streamOf 0x0100) sample.content = ⟨1, 1, 1, 1, [0x3F800000], 0⟩ := by decide +kernel
/-- A running step whose write-back to T3 should have ended. -/
def lagging : State := runs up { running (imageOfDescs [touching 11] [objEntry 5 .parameter]) with
  adm := { admitted (imageOfDescs [touching 11] [objEntry 5 .parameter]) with
    plan := [⟨.writeBack 5, Frac.zero, Frac.zero, [(.t3 true, 1)], [], []⟩] } }
theorem test_meets_shortfall : t3Lag (atTime lagging 1000000000000000000) none 5 ≠ none ∧ t3Lag lagging (some 0) 5 = none := by
  decide +kernel
/-- `s` with port p in a given state. -/
def withPort (s : State) (p : Nat) (x : Port) : State :=
  { s with fabric := { s.fabric with ports := s.fabric.ports.set p x } }
/-- A port that is up with one credit of class 0. -/
def linked : Port := { state := .up, credits := [1, 0, 0, 0, 0, 0, 0, 0] }
theorem test_meets_ports : (up.fabric.ports[19]?).isSome = true ∧ (at' up.fabric.ports 0 {}).state = .down ∧
    (at' up.fabric.ports 0 {}).drillUntil = none ∧ portUnused up 0 = false ∧ portUnused up 7 = true ∧ portUnused wide 7 = false ∧
    (at' up.fabric.ports 0 {}).downCause = 0 ∧ linked.state = .up ∧ farDevice up 6 = some 6 ∧ (farDevice wide 18).isSome = true := by
  decide +kernel
theorem test_meets_flits : up.fabric.drill = false ∧ linked.held = [] ∧ linked.quarantine = 0 ∧ 0 < at' linked.credits 0 0 ∧
    at' linked.credits 7 0 = 0 ∧ (List.replicate 240 (0 : Byte)).length = 240 ∧
    flitCrc { flit with crc := flitCrc flit } = { flit with crc := flitCrc flit }.crc ∧ flitCrc { flit with crc := ~~~(flitCrc flit) } ≠
      { flit with crc := ~~~(flitCrc flit) }.crc ∧ ({ flit with crc := flitCrc flit } : Flit).seq = linked.rxSeq ∧
    ({ flit with seq := 4095 } : Flit).seq ≠ linked.rxSeq ∧ (∀ c < 8, at' linked.freed c 0 < 8) ∧
    at' { linked with freed := [7, 8, 9, 0, 0, 0, 0, 0] }.freed 0 0 < 8 ∧ 8 ≤ at' { linked with freed := [7, 8, 9, 0, 0, 0, 0, 0] }.freed 1 0 ∧
    (makeFlit { linked with freed := [7, 65535, 0, 0, 0, 0, 0, 0] } 1 0 true []).credits = 8191 := by decide +kernel
theorem test_meets_failover : linked.state = .up ∧ linked.heard + 4000 ≤ (atTime up 4000).time ∧ up.time < linked.heard + 4000 ∧
    { linked with state := .down, downCause := 2 }.downCause ≠ 0 ∧
    0 + 1000000 ≤ (atTime up 1000000).time ∧ farDevice up 6 = some 6 ∧ up.fabric.standby = none ∧ stepUsesPort up 6 = false ∧
    stepUsesPort (runs wide { running (imageOfDescs [{ touching 9 with params := 2 :: List.replicate 7 0 }] [objEntry 5 .parameter]) with
      reserveSpent := false }) 7 = true ∧
    { linked with drillUntil := some 5 }.drillUntil = some 5 := by decide +kernel
/-- The header of a chunk of job 1, step 2. -/
def chunk : ChunkHeader := ⟨1, 2, 0, 0, 0, 0, 9, 4⟩
theorem test_meets_chunks : jobAt (withJob up { job with joined := true }) 1 = some { job with joined := true } ∧
    { job with joined := true }.lastCompleted = none ∧ { job with lastCompleted := some 1 }.lastCompleted = some 1 ∧ 1 < chunk.step ∧
    ChunkHeader.same chunk chunk = true ∧ ChunkHeader.same chunk { chunk with source := 8 } = false ∧ jobAt up 1 = none ∧
    job.joined = false ∧ (objAt full 0 5).isSome = true ∧ (obj 5 .parameter).version = 0 := by decide
theorem test_meets_lending : (portAt (withPort up 6 linked) 6).state = .up ∧ (portAt (withPort up 6 linked) 6).quarantine = 0 ∧
    bits (inForce up 3) 5 0 * 2 ^ 30 = 0 ∧ 0 + ([] : List Byte).length ≤ bits (inForce up 3) 5 0 * 2 ^ 30 ∧
    bits (inForce up 3) 5 0 * 2 ^ 30 < 0 + [(0 : Byte)].length := by decide +kernel

/-! ### Jobs across devices -/

theorem test_meets_job_messages : jobAt (withJob up job) 1 = some job ∧ (8 : Nat) ≠ deviceNumber up ∧ job.box ≠ some { box with ex := 2 } ∧
    job.box = some box ∧ job.shoring = none ∧ { job with shoring := some ⟨1, 2, 1, false, 0, 0⟩ }.shoring ≠ none := by decide +kernel
/-- Two joined devices of a job, with a step whose one instance is a job-wide BARRIER. -/
def paired : State := { wide with cfg := up.cfg.set 3 { value := 1, force := 1 }, jobs := [{ number := 1, box := some { box with ex := 2 } }] }
def barrierRun : Run := running (imageOfDescs [{ desc 15 with jobWide := true }])
theorem test_meets_entry_rounds : barrierRun.mismatchEnd = false ∧ jobRuns paired 1 = true ∧
    roundInfo paired barrierRun barrierRun.entered = some (15, 0, 1, 0) ∧
    (∀ d ∈ participants paired 1, d = deviceNumber paired ∨ d ∈ failedDevices paired 1 ∨ ∃ p ∈ [(⟨15, 0, 15, 0, 1, 0⟩ : EntryInfo)], p.device = d) ∧
    (∀ p ∈ [(⟨15, 0, 15, 0, 1, 0⟩ : EntryInfo)], p.number = 0 ∧ (p.opcode, p.operation, p.scope, p.bytes) = (15, 0, 1, 0)) ∧
    (∃ p ∈ [(⟨15, 0, 9, 0, 1, 0⟩ : EntryInfo)], p.number ≠ 0 ∨ (p.opcode, p.operation, p.scope, p.bytes) ≠ (15, 0, 1, 0)) := by
  decide +kernel
theorem test_meets_securing : { running barrierImage with adm := { admitted barrierImage with securing := true } }.adm.securing = true ∧
    (running barrierImage).secured = false ∧ (running barrierImage).switched = true ∧ (running barrierImage).executed = [] := by decide
/-- A job of three devices in one shoring group with parity 1. -/
def guarded (since : List Nat := []) (failed : List Nat := []) : State :=
  { wide with
    cfg := up.cfg.set 3 { value := 2, force := 2 }
    jobs := [{ number := 1, box := some { box with ex := 3 }, shoring := some ⟨1, 2, 1, false, 0, 0⟩, since, failed }] }
theorem test_meets_failures : (15 : Nat) ∈ participants wide 1 ∧ 15 ≠ deviceNumber wide ∧ wide.sched.run = none ∧
    (groupOfDevice (declareFailed (guarded [] []) 1 23) 1 23).isSome = true ∧
    (match groupOfDevice (declareFailed (guarded [] []) 1 23) 1 23 with
      | some g => decide (deviceNumber wide ∈ g.2.1) && decide (([] : List Nat).countP g.2.1.contains + (if 23 ∈ g.2.1 then 1 else 0) ≤ g.2.2)
      | none => false) = true ∧
    (match groupOfDevice (declareFailed (guarded [15] [15]) 1 23) 1 23 with
      | some g => decide (g.2.2 < [15].countP g.2.1.contains + (if 23 ∈ g.2.1 then 1 else 0)) | none => false) = true := by decide +kernel
theorem test_meets_reencoding : unprotected (guarded [] []) 1 = none ∧ (unprotected (guarded [15, 23] [15, 23]) 1).isSome = true ∧
    up.dev.state ≠ .off := by decide +kernel

/-! ### Vector instructions -/

/-- The device with a staged int32 window of one tile as m3, and an open loop, on grove 0. -/
def engine : State := setVec up 0
  { windows := [none, none, none, some ⟨5, 0, 1, true, .int32, 0, 0, [], false, [], [(0, 9)]⟩], loops := [⟨2, 3, 0, 4⟩] }
theorem test_meets_engine_shape : (vecAt engine 0).shaped := by unfold VecEngine.shaped; decide +kernel
theorem test_meets_windows_of_engine : at' (vecAt engine 0).windows 0 none = none ∧
    slotAt (vecAt engine 0) 0 (slotOf (vecAt engine 0) 2 fields) = none ∧
    (slotAt (vecAt engine 0) 3 (slotOf (vecAt engine 0) 2 { fields with imm := 3 })).isSome = true ∧
    (slotAt (vecAt engine 0) 3 (slotOf (vecAt engine 0) 2 { fields with imm := 3 + 7 * 256 })).isSome = true ∧
    (slotAt (vecAt engine 0) 3 (slotOf (vecAt engine 0) 2 { fields with imm := 3 + 8 * 256 })).isSome = false ∧
    objAt engine 0 5 = none := by decide +kernel
theorem test_meets_loop : (vecAt engine 0).loops = [⟨2, 3, 0, 4⟩] ∧ 0 + 1 < 3 ∧ (3 ≤ 2 + 1) ∧ (vecOp 0x10).isSome = true := by
  decide +kernel

/-! ### Small steps, expected from the manual's own examples and pseudocode -/

/-- The words of a vector register that holds w in every lane. -/
def lanesOf (w : Word) : List Word := List.replicate 256 w
/-- Grove 0's engine with v1, v2 and v3 filled. -/
def pair (x y : Word) : State :=
  setVec up 0 { v := [zeroLanes, lanesOf 7, lanesOf x, lanesOf y] ++ List.replicate 28 zeroLanes }
/-- Lane 255 of v1 after a command. -/
def lane1 (c : Instr) (s : State) : Option Word :=
  match exec c s with | .next t => ((at' (vecAt t 0).v 1 []))[255]? | _ => none
/-- Predicate 1 after a command. -/
def pred1 (c : Instr) (s : State) : Option (BitVec 256) :=
  match exec c s with | .next t => (vecAt t 0).p[1]? | _ => none
theorem test_no_table_words (n w : Nat) : decodeTableWord n w = none := rfl
/-- R268: the generator's pseudocode, worked by hand for key 1 to 4 and counter 5 to 8. -/
theorem test_counter_generator : counterGen ⟨1, 2, 3, 4⟩ ⟨5, 6, 7, 8⟩ = ⟨0x787709ba, 0x46765dd6, 0xf7c0fda0, 0x505a08a9⟩ := by
  decide +kernel
/-- R25 and the example of a small step that survives: the block's maximum 0.0301 under e_t = −3 takes offset 2 and code 123. -/
theorem test_small_step_offset : (quantBlock .bx8 (-3) [f32 0x3CF69446, f32 0x3C640000]).1 = 2 ∧
    (quantBlock .bx8 (-3) [f32 0x3CF69446, f32 0x3C640000]).2.1 = [123, 57] := by decide +kernel
/-- R27 and the example of a spike: with catch-up e_t becomes 7, and with the threshold at 4,000 it becomes 5. -/
theorem test_spike_of_job_a :
    (({ eT := 4, delay := 2, margin := 1, threshold := 1024, sat := 3180, raw := 0x42240000, stored := 0x417E,
        hist := [0x40DCCCCD, 0x40A66666, 0, 0] } : ScaleEntry).sync).1 = 7 ∧
    (({ eT := 4, delay := 2, margin := 1, threshold := 4000, sat := 3180, raw := 0x42240000, stored := 0x417E,
        hist := [0x40DCCCCD, 0x40A66666, 0, 0] } : ScaleEntry).sync).1 = 5 := by decide +kernel
/-- R124: sums wrap, shift counts are modulo 32, and SRA keeps the sign. -/
theorem test_integers_wrap : lane1 (.iadd 0 fields) (pair 0xFFFFFFFF 2) = some 1 ∧ lane1 (.shl 0 fields) (pair 1 33) = some 2 ∧
    lane1 (.sra 0 fields) (pair 0x80000000 31) = some 0xFFFFFFFF ∧ lane1 (.isub 0 fields) (pair 2 3) = some 0xFFFFFFFF := by
  decide +kernel
/-- R125: FMIN and FMAX order −0 below +0 and give a NaN for a NaN. -/
theorem test_float_order : lane1 (.fmin 0 fields) (pair 0 0x80000000) = some 0x80000000 ∧
    lane1 (.fmax 0 fields) (pair 0x80000000 0) = some 0 ∧ lane1 (.fadd 0 fields) (pair 0x3F800000 0x33800000) = some 0x3F800000 := by
  decide +kernel
/-- R125: a comparison with a NaN is false for EQ and true for NE and UNORD. -/
theorem test_compare_nan : pred1 (.fcmp 0 fields) (pair 0x7FC00000 0) = some 0 ∧
    pred1 (.fcmp 0 { fields with imm := 1 }) (pair 0x7FC00000 0) = some (BitVec.allOnes 256) ∧
    pred1 (.fcmp 0 { fields with imm := 6 }) (pair 0x7FC00000 0) = some (BitVec.allOnes 256) := by decide +kernel
/-- R123: inactive lanes keep their value, or become zero with ZM. -/
theorem test_inactive_lanes : lane1 (.iadd 0 { fields with pred := 1 }) (pair 1 2) = some 7 ∧
    lane1 (.vmov 0 { fields with pred := 1, zm := true, d := 1 }) (pair 1 2) = some 0 := by decide +kernel
/-- R338 to R340: a request that is rung, read and answered. -/
theorem test_contexts_are_made : (match exec (.contextCreate 0) (on up (req 0x0401)) with
    | .next t => t.ctxs.map (fun c => c.number) == [0] && (mbxAt t 0).header.status == 0 && (mbxAt t 0).work.isNone
    | _ => false) = true := by decide +kernel

/-! ### Codes, checks and the cache -/

theorem test_meets_residues : ({} : CheckedPair).kept = ({} : CheckedPair).pair.residue ∧ (⟨[3], [-5], 30⟩ : HalfSum).offset ≤ 30 ∧
    (-(2 ^ 95 : Int) ≤ 0 - 15 ∧ (0 - 15 : Int) < 2 ^ 95) := by decide
/-- R103: after a borrow through both accumulators the kept residue is that of the pair, −15 × 2^30 modulo 127. -/
theorem test_residue_of_a_borrow : (({} : CheckedPair).add ⟨[3], [-5], 0⟩).pair.value = -15 * 2 ^ 30 ∧
    (({} : CheckedPair).add ⟨[3], [-5], 0⟩).kept = 67 ∧ (({} : CheckedPair).add ⟨[3], [-5], 0⟩).pair.residue = 67 := by decide +kernel
/-- R299: the field is that of x^8 + x^4 + x^3 + x^2 + 1, so α^8 is 0x1D, and an inverse is one. -/
theorem test_field : alpha 8 = 0x1D ∧ gfMul 0x53 (gfInv 0x53) = 1 ∧ gfMul 2 0x80 = 0x1D := by decide +kernel
/-- R206, R299: check symbols that make the syndromes zero, worked by long division for d(x) = 1. -/
theorem test_check_symbols : encodeSymbols 2 [1] = [2, 3, 1] ∧ encodeSymbols 4 [1] = [0x40, 0x78, 0x36, 0x0F, 1] ∧
    (List.range 4).map (fun k => syndrome k (encodeSymbols 4 [7, 0, 255])) = [0, 0, 0, 0] := by decide +kernel
theorem test_meets_codes : (35 : Nat) < 36 ∧ (1 : Byte) ≠ 0 ∧ syndrome 0 (encodeSymbols 1 [5, 9]) = 0 ∧ 2 < (encodeSymbols 1 [5, 9]).length ∧
    decodeErased [1, 2] [(0, at' (encodeSymbols 2 [5, 9]) 0 0), (3, 9)] = [(1, at' (encodeSymbols 2 [5, 9]) 1 0), (2, 5)] := by decide +kernel
/-- The check value of CRC-32C over the digits 1 to 9. -/
theorem test_crc : crc32c [0x31, 0x32, 0x33, 0x34, 0x35, 0x36, 0x37, 0x38, 0x39] = 0xE3069283 := by decide +kernel
/-- R215: an atomic gives the old value back; a signed minimum; a compare that fails leaves the word. -/
theorem test_atomics : Mem.atomic [(4, 0xFF), (5, 0xFF), (6, 0xFF), (7, 0xFF)] .add .int32 4 (leBytes 4 2) =
      some ([0xFF, 0xFF, 0xFF, 0xFF], [(4, 1)]) ∧
    (Mem.atomic [(4, 5)] .min .int32 4 (leBytes 4 0xFFFFFFFF)).map (fun x => Mem.le x.2 4 4) = some 0xFFFFFFFF ∧
    (Mem.atomic [(8, 5)] (.cas 4) .int64 8 (leBytes 8 9)).map (fun x => x.2) = some [(8, 5)] ∧
    Mem.atomic [] .and .f32 0 (leBytes 4 1) = none ∧ Mem.atomic [] .add .int64 4 (leBytes 8 1) = none := by decide +kernel
/-- R238: the widths of a block are the least that hold its values, and a block comes back from its bytes. -/
theorem test_seam_blocks : seamWidth .bx8 [0, 0] = 0 ∧ seamWidth .bx8 [0xFF, 0] = 1 ∧ seamWidth .bx8 [1, 0] = 2 ∧
    seamWidth .bx8 [0x80] = 8 ∧ seamWidth .ux8 [15] = 4 ∧
    seamUnpack .bx8 3 (seamPack 3 (0xFD :: 3 :: List.replicate 30 0)) = 0xFD :: 3 :: List.replicate 30 0 := by decide +kernel
theorem test_meets_seam : (obj 5 .parameter).narrowed.contains 0 = false ∧ (obj 5 .parameter).seamBlock = false ∧
    (List.replicate 12 (0 : Byte)) ≠ (seamTile (obj 5 .parameter) 0).take 12 := by decide +kernel

end Sys2Proof.Tests
end

section
/-!
PROOFS. The block's step (log entries 2 and 3), the two halves of device time (R7), and the writes of BAR0
(R5, R254, R319, R321, R322, R338).
-/

namespace Sys2Proof.Machine

/-! ### The step and its queue -/

theorem step_of_pending_cons {s : State} {c : Instr} {rest : List Instr} (h : s.pending = c :: rest) :
    step s = exec c { s with pending := rest } := by
  simp [step, h]

theorem step_of_pending_nil {s : State} (h : s.pending = []) : step s = .next (idle s) := by
  simp [step, h]

/-- Settles O1, by the two forms of the queue. -/
theorem stepRunsFrontCommand : Obligations.StepRunsFrontCommand :=
  ⟨fun _ _ _ h => step_of_pending_cons h, fun _ h => step_of_pending_nil h⟩

/-! ### Device time -/

theorem exec_timeLoRead {s : State} (h : hostReaches s = true) :
    exec .timeLoRead s = .next { s with regs := { s.regs with
      timeHi := BitVec.ofNat 32 (s.time / 2 ^ 32), reply := .data (leBytes 4 s.time) } } := by
  change execTimeLoRead s = _
  simp [execTimeLoRead, h, done, reply]

/-- The register at 0x10 holds TIME_LO in its lower half and the latched TIME_HI in its upper one. -/
theorem reg64_time (s : State) : reg64 s 0x10 = s.time % 2 ^ 32 + 2 ^ 32 * s.regs.timeHi.toNat := by
  simp [reg64, field, Nat.shiftLeft_eq, Nat.mul_comm]

/-- Settles O26: the upper half comes from the latch alone, the lower half from the running time. -/
theorem deviceTimeReadsInTwoHalves : Obligations.DeviceTimeReadsInTwoHalves := by
  intro s hs
  refine ⟨exec_timeLoRead hs, fun t u ht hu => ?_⟩
  rw [exec_timeLoRead hs] at ht
  cases ht
  have latched : u.regs.timeHi.toNat = s.time / 2 ^ 32 % 2 ^ 32 := by rw [hu, BitVec.toNat_ofNat]
  rw [reg64_time, latched]
  omega

/-! ### The bytes of a write -/

@[simp] theorem leBytes_length (n v : Nat) : (leBytes n v).length = n := by
  induction n generalizing v with
  | zero => rfl
  | succ n ih => simp [leBytes, ih]

/-- A write from byte 0 on puts its bytes in front of those that it does not reach. -/
theorem mergeBytes_from_zero {data : List Byte} (old : Nat) (h : data.length ≤ 8) :
    mergeBytes old 0 data = leValue (data ++ (leBytes 8 old).drop data.length) := by
  unfold mergeBytes
  congr 1
  refine List.ext_getElem (by simp; omega) fun i _ _ => ?_
  by_cases hi : i < data.length
  · simp [hi, at']
  · simp [hi, List.getElem_append_right (Nat.le_of_not_lt hi), Nat.add_sub_of_le (Nat.le_of_not_lt hi)]

/-- A write of 8 bytes replaces the register. -/
theorem mergeBytes_whole {data : List Byte} (old : Nat) (h : data.length = 8) :
    mergeBytes old 0 data = leValue data := by
  have hrest : (leBytes 8 old).drop data.length = [] := List.drop_eq_nil_of_le (by simp [h])
  rw [mergeBytes_from_zero old h.le, hrest, List.append_nil]

/-- Bit 0 of a written register is bit 0 of the first byte written. -/
theorem mergeBytes_mod_two {data : List Byte} (old : Nat) (h0 : data ≠ []) (h : data.length ≤ 8) :
    mergeBytes old 0 data % 2 = leValue data % 2 := by
  rw [mergeBytes_from_zero old h]
  cases data with
  | nil => exact absurd rfl h0
  | cons b bs => simp only [List.cons_append, leValue]; omega

/-! ### What a write to each register does -/

section
variable (s : State) {data : List Byte}

theorem writeReg_aditBase (h : data.length = 8) :
    writeReg s 0x18 data =
      { s with regs := { s.regs with aditBase := BitVec.ofNat 64 (bits (leValue data) 39 16 * 2 ^ 16) } } := by
  simp [writeReg, mergeBytes_whole _ h]

theorem writeReg_intStatus (h : data.length = 8) :
    writeReg s 0x20 data =
      { s with regs := { s.regs with intStatus := s.regs.intStatus &&& ~~~(BitVec.ofNat 64 (leValue data)) } } := by
  simp [writeReg, mergeBytes_whole _ h]

theorem writeReg_reserved {o : Nat} (h : 0x28 ≤ o ∧ o < 0x1000) : writeReg s o data = s := by
  simp only [writeReg]
  iterate 5 rw [if_neg (by omega)]

theorem writeReg_msixAddress {k : Nat} (hk : k < 64) (h : data.length = 8) :
    writeReg s (0x1000 + 16 * k) data = releaseHeld { s with link := { s.link with
      table := s.link.table.set k { at' s.link.table k {} with address := BitVec.ofNat 64 (leValue data) } } } := by
  have hmod : (0x1000 + 16 * k) % 8 = 0 := by omega
  have hbase : (0x1000 + 16 * k) / 8 * 8 = 0x1000 + 16 * k := by omega
  have hentry : (0x1000 + 16 * k - 0x1000) / 16 = k := by omega
  have hhalf : (0x1000 + 16 * k) / 8 % 2 = 0 := by omega
  simp only [writeReg, hmod, hbase, hentry, hhalf, mergeBytes_whole _ h]
  rw [if_neg (by omega), if_neg (by omega), if_pos (by omega), if_pos trivial]

theorem writeReg_msixData {k : Nat} (hk : k < 64) (h : data.length = 8) :
    writeReg s (0x1000 + 16 * k + 8) data = releaseHeld { s with link := { s.link with
      table := s.link.table.set k { at' s.link.table k {} with
        data := BitVec.ofNat 32 (leValue data), masked := bits (leValue data) 32 32 == 1 } } } := by
  have hmod : (0x1000 + 16 * k + 8) % 8 = 0 := by omega
  have hbase : (0x1000 + 16 * k + 8) / 8 * 8 = 0x1000 + 16 * k + 8 := by omega
  have hentry : (0x1000 + 16 * k + 8 - 0x1000) / 16 = k := by omega
  have hhalf : (0x1000 + 16 * k + 8) / 8 % 2 = 1 := by omega
  simp only [writeReg, hmod, hbase, hentry, hhalf, mergeBytes_whole _ h]
  rw [if_neg (by omega), if_neg (by omega), if_pos (by omega), if_neg (by omega)]

theorem writeReg_doorbell {m : Nat} (hm : m < 64) (h : data.length = 4) (hring : leValue data % 2 = 1) :
    writeReg s (0x2000 + 8 * m) data = ringMailbox s m := by
  have hmod : (0x2000 + 8 * m) % 8 = 0 := by omega
  have hbase : (0x2000 + 8 * m) / 8 * 8 = 0x2000 + 8 * m := by omega
  have hmbx : (0x2000 + 8 * m - 0x2000) / 8 = m := by omega
  have hnil : data ≠ [] := List.ne_nil_of_length_pos (by omega)
  simp only [writeReg, hmod, hbase, hmbx, mergeBytes_mod_two _ hnil (by omega : data.length ≤ 8), hring]
  rw [if_neg (by omega), if_neg (by omega), if_neg (by omega), if_pos (by omega), if_pos trivial]

theorem writeReg_sluiceErr {st : Nat} (hst : st < 16) (h : data.length = 8) :
    writeReg s (0x3000 + 32 * st + 24) data = { s with
      streams := s.streams.modify st fun x => { x with err := x.err &&& ~~~(BitVec.ofNat 64 (leValue data)) } } := by
  have hmod : (0x3000 + 32 * st + 24) % 8 = 0 := by omega
  have hbase : (0x3000 + 32 * st + 24) / 8 * 8 = 0x3000 + 32 * st + 24 := by omega
  have hstream : (0x3000 + 32 * st + 24 - 0x3000) / 32 = st := by omega
  have hreg : (0x3000 + 32 * st + 24) / 8 % 4 = 3 := by omega
  simp only [writeReg, hmod, hbase, hstream, hreg, mergeBytes_whole _ h]
  rw [if_neg (by omega), if_neg (by omega), if_neg (by omega), if_neg (by omega), if_pos (by omega),
    if_neg (by omega), if_pos trivial]

end

/-! ### What a write to a mailbox's pages does -/

/-- Storing no bytes changes no mailbox. -/
@[simp] theorem setMbx_store_nil (s : State) (m a : Nat) :
    setMbx s m (fun b => { b with request := Mem.store b.request a [] }) = s := by
  have : s.mbx.modify m (fun b => { b with request := Mem.store b.request a [] }) = s.mbx :=
    List.modify_id m s.mbx
  simp only [setMbx, this]

section
variable (s : State) (m : Nat) {a : Nat} {data : List Byte}

theorem writePage_request (h : a + data.length ≤ 4096) :
    writePage s m a data = setMbx s m fun b => { b with request := Mem.store b.request a data } := by
  have hfit : data.take (4096 - a) = data := List.take_of_length_le (by omega)
  have hrest : data.drop (8192 - a) = [] := List.drop_eq_nil_of_le (by omega)
  simp [writePage, hfit, hrest]

theorem writePage_response (ha : 4096 ≤ a) (h : a + data.length ≤ 8192) : writePage s m a data = s := by
  have hnone : 4096 - a = 0 := by omega
  have hrest : data.drop (8192 - a) = [] := List.drop_eq_nil_of_le (by omega)
  simp [writePage, hnone, hrest]

end

/-! ### The reply and the write act on different parts -/

theorem ringMailbox_reply (s : State) (m : Nat) (c : Completion) :
    ringMailbox (reply s c) m = reply (ringMailbox s m) c := by
  by_cases h : (mbxAt s m).header.busy = true
  · have h' : (mbxAt (reply s c) m).header.busy = true := h
    simp only [ringMailbox, h, h', if_true]; rfl
  · have h' : ¬ (mbxAt (reply s c) m).header.busy = true := h
    simp only [ringMailbox, h, h']; rfl

theorem releaseHeld_reply (s : State) (c : Completion) : releaseHeld (reply s c) = reply (releaseHeld s) c := by
  unfold releaseHeld
  refine List.foldl_hom (fun t => reply t c) fun t v => ?_
  rw [apply_ite (fun t => reply t c)]
  rfl

/-! ### REGISTER_WRITE and SLUICE_PI_WRITE -/

section
variable {s : State} {o : Nat} {data : List Byte}

theorem pageAtOffset_of_lt (h : o < 0x100000) : pageAtOffset o = none := by
  simp only [pageAtOffset]; rw [if_neg (by omega)]

theorem pageAtOffset_page (m : Fin 64) {a : Nat} (h : a < 8192) :
    pageAtOffset (0x100000 + 8192 * m + a) = some ((m : Nat), a) := by
  have hm : (0x100000 + 8192 * (m : Nat) + a - 0x100000) / 8192 = m := by omega
  have ha : (0x100000 + 8192 * (m : Nat) + a - 0x100000) % 8192 = a := by omega
  simp only [pageAtOffset, hm, ha]; rw [if_pos (by omega)]

theorem exec_registerWrite_unreached (h : hostReaches s = false) :
    exec (.registerWrite o data) s = .next (unsupported s) := by
  change execRegisterWrite o data s = _
  simp [execRegisterWrite, h, done]

theorem exec_registerWrite_page (h : hostReaches s = true) (m : Fin 64) {a : Nat} (ha : a < 8192) :
    exec (.registerWrite (0x100000 + 8192 * m + a) data) s = .next (writePage (reply s .written) m a data) := by
  change execRegisterWrite _ data s = _
  have hin : ¬ 2 ^ 25 ≤ 0x100000 + 8192 * (m : Nat) + a := by omega
  simp only [execRegisterWrite, h, hin, pageAtOffset_page m ha, done]
  rfl

theorem exec_registerWrite_register (h : hostReaches s = true) (ho : o < 0x100000)
    (hn : data.length = 4 ∨ data.length = 8) (hal : o % data.length = 0) :
    exec (.registerWrite o data) s = .next (writeReg (reply s .written) o data) := by
  change execRegisterWrite o data s = _
  have hin : ¬ 2 ^ 25 ≤ o := by omega
  simp only [execRegisterWrite, h, hin, pageAtOffset_of_lt ho, done, if_pos (And.intro hn hal)]
  rfl

theorem exec_registerWrite_eight (h : hostReaches s = true) (ho : o < 0x100000) (hn : data.length = 8)
    (hal : o % 8 = 0) : exec (.registerWrite o data) s = .next (writeReg (reply s .written) o data) :=
  exec_registerWrite_register h ho (.inr hn) (hn ▸ hal)

theorem exec_registerWrite_discarded (h : hostReaches s = true) (ho : o < 0x100000)
    (hbad : ¬ ((data.length = 4 ∨ data.length = 8) ∧ o % data.length = 0)) :
    exec (.registerWrite o data) s = .next (reply s .written) := by
  change execRegisterWrite o data s = _
  have hin : ¬ 2 ^ 25 ≤ o := by omega
  simp only [execRegisterWrite, h, hin, pageAtOffset_of_lt ho, done, if_neg hbad]
  rfl

/-- Below the mailboxes a write that is too long, too short or misaligned, or that meets a reserved offset, is discarded. -/
theorem exec_registerWrite_without_effect (h : hostReaches s = true) (ho : o < 0x100000)
    (hbad : (data.length ≠ 4 ∧ data.length ≠ 8) ∨ o % data.length ≠ 0 ∨ (0x28 ≤ o ∧ o < 0x1000)) :
    exec (.registerWrite o data) s = .next (reply s .written) := by
  by_cases hreg : (data.length = 4 ∨ data.length = 8) ∧ o % data.length = 0
  · rw [exec_registerWrite_register h ho hreg.1 hreg.2, writeReg_reserved _ (by omega)]
  · exact exec_registerWrite_discarded h ho hreg

theorem exec_mbxDoorbell_ring (h : hostReaches s = true) (m : Fin 64) :
    exec (.mbxDoorbell m .ring) s = .next (reply (ringMailbox s m) .written) := by
  change execMbxDoorbell m .ring s = _
  simp [execMbxDoorbell, h, done]

theorem exec_registerWrite_doorbell (h : hostReaches s = true) (m : Fin 64) (hn : data.length = 4)
    (hring : leValue data % 2 = 1) :
    exec (.registerWrite (0x2000 + 8 * m) data) s = exec (.mbxDoorbell m .ring) s := by
  rw [exec_registerWrite_register h (by omega) (.inl hn) (by rw [hn]; omega), writeReg_doorbell _ m.isLt hn hring,
    ringMailbox_reply, exec_mbxDoorbell_ring h]

theorem exec_sluicePiWrite (h : hostReaches s = true) (st : Fin 16) (v : DWord) :
    exec (.sluicePiWrite st v) s = .next (reply (writePi s st v.toNat) .written) := by
  change execSluicePiWrite st v s = _
  simp [execSluicePiWrite, h, done]

end

/-! ### A write of SLUICE_PI -/

section
variable {s : State} {st : Nat} {x : StreamSlot} (hx : s.streams[st]? = some x) (v : Nat)
include hx

theorem writePi_of_closed (hc : x.stream = none) :
    writePi s st v = { s with streams := s.streams.set st { x with pi := v } } := by
  simp [writePi, at', hx, hc]

theorem writePi_of_le {y : Stream} (hy : x.stream = some y) (h : v ≤ y.ci + ringSize y.cfg) :
    writePi s st v = { s with streams := s.streams.set st { x with pi := v, stream := some (readLate v y) } } := by
  simp [writePi, at', hx, hy, Nat.not_lt.2 h]

theorem writePi_of_lt {y : Stream} (hy : x.stream = some y) (h : y.ci + ringSize y.cfg < v) :
    writePi s st v = { s with streams := s.streams.set st { x with err := x.err ||| 1 } } := by
  simp [writePi, at', hx, hy, h]

end

/-! ### The writes together -/

/-- Settles O27, each clause from the rule of its register or page; the reply is made before the write and commutes with it. -/
theorem registerWritesTakeEffect : Obligations.RegisterWritesTakeEffect := by
  refine ⟨fun s hs => ⟨fun st v x hx => ⟨fun hc => ?_, fun y hy h => ?_, fun y hy h => ?_, fun data hn => ?_⟩,
      fun data hn => ⟨?_, ?_⟩⟩,
    fun s data => ⟨fun hs => ⟨fun m a h => ?_, fun m a ha ha' h => ?_, fun m hn hring => ?_,
      fun k e he hn => ⟨?_, ?_⟩, fun o ho hbad => ?_⟩, fun hs o => ?_⟩⟩
  · rw [exec_sluicePiWrite hs, writePi_of_closed hx _ hc]; rfl
  · rw [exec_sluicePiWrite hs, writePi_of_le hx _ hy h]; rfl
  · rw [exec_sluicePiWrite hs, writePi_of_lt hx _ hy h]; rfl
  · rw [exec_registerWrite_eight hs (by omega) hn (by omega), writeReg_sluiceErr _ st.isLt hn]; rfl
  · rw [exec_registerWrite_eight hs (by omega) hn (by omega), writeReg_aditBase _ hn]; rfl
  · rw [exec_registerWrite_eight hs (by omega) hn (by omega), writeReg_intStatus _ hn]; rfl
  · rw [exec_registerWrite_page hs m (by omega), writePage_request _ _ h]; rfl
  · rw [exec_registerWrite_page hs m ha', writePage_response _ _ ha h]; rfl
  · exact exec_registerWrite_doorbell hs m hn hring
  · have hk : at' (reply s .written).link.table k {} = e := by simp [at', he]
    rw [exec_registerWrite_eight hs (by omega) hn (by omega), writeReg_msixAddress _ k.isLt hn, hk,
      ← releaseHeld_reply]; rfl
  · have hk : at' (reply s .written).link.table k {} = e := by simp [at', he]
    rw [exec_registerWrite_eight hs (by omega) hn (by omega), writeReg_msixData _ k.isLt hn, hk,
      ← releaseHeld_reply]; rfl
  · exact exec_registerWrite_without_effect hs ho hbad
  · exact exec_registerWrite_unreached hs

end Sys2Proof.Machine
end

section
/-!
PROOFS. The outline of a state: the sizes of its tables and its vector engines. Frame (Laws/Frame.lean) says nothing
of the engines, and it fixes the time, the device state and the memories, which many commands change; here one simplification
lemma for each operation says that the outline stays as it is.
-/

namespace Sys2Proof.Machine

/-! ### The outline of a state -/

/-- What the shape of a state rests on: the number of entries of every table, and the vector engines themselves. The
MSI-X entries are `vectors`, their pending bits `pendings`, and `maps` are the groves that the repair map lists. -/
structure Outline where
  mailboxes : Nat
  configs : Nat
  groves : Nat
  hbm : Nat
  streams : Nat
  ports : Nat
  vectors : Nat
  pendings : Nat
  slots : Nat
  maps : Nat
  engines : List (Nat × VecEngine)

/-- The outline of a state. -/
def State.outline (s : State) : Outline :=
  ⟨s.mbx.length, s.cfg.length, s.groves.length, s.hbm.length, s.streams.length, s.fabric.ports.length,
   s.link.table.length, s.link.pendingBits.length, s.flash.slots.length, s.flash.groves.length, s.vec⟩

/-- A record update that leaves the engines and the sizes of the tables has no effect on the outline. -/
@[simp] theorem outline_mk {s : State} {ti fr pe b d l rg mb c f ta g hb i me cx k j sc st fa sp}
    (hl : l.table.length = s.link.table.length) (hp : l.pendingBits.length = s.link.pendingBits.length)
    (hm : mb.length = s.mbx.length) (hc : c.length = s.cfg.length)
    (hs : f.slots.length = s.flash.slots.length) (hf : f.groves.length = s.flash.groves.length)
    (hg : g.length = s.groves.length) (hh : hb.length = s.hbm.length) (ht : st.length = s.streams.length)
    (ha : fa.ports.length = s.fabric.ports.length) :
    (State.mk ti fr pe b d l rg mb c f ta g hb i me cx k j sc st fa s.vec sp).outline = s.outline := by
  simp only [State.outline, hl, hp, hm, hc, hs, hf, hg, hh, ht, ha]

@[simp] theorem outline_ite {c : Prop} [Decidable c] {a b : State} :
    (if c then a else b).outline = if c then a.outline else b.outline := apply_ite _ _ _ _

@[simp] theorem outline_foldl {α : Type} {f : State → α → State} (h : ∀ t x, (f t x).outline = t.outline)
    (s : State) (l : List α) : (l.foldl f s).outline = s.outline := by
  induction l generalizing s with
  | nil => rfl
  | cons x l ih => rw [List.foldl_cons, ih, h]

@[simp] theorem outline_foldl_fst {α β : Type} {f : State × β → α → State × β}
    (h : ∀ p x, (f p x).1.outline = p.1.outline) (p : State × β) (l : List α) :
    (l.foldl f p).1.outline = p.1.outline := by
  induction l generalizing p with
  | nil => rfl
  | cons x l ih => rw [List.foldl_cons, ih, h]

/-! ### The table that a setter changes keeps its size -/

section
variable {s : State}

@[simp] theorem setStage_mbx_length {m i x} : (setStage s m i x).mbx.length = s.mbx.length := by simp [setStage, setMbx]

@[simp] theorem setGrove_groves_length {g f} : (setGrove s g f).groves.length = s.groves.length := by simp [setGrove]

@[simp] theorem mapGrove_maps_length {g f} : (mapGrove s g f).flash.groves.length = s.flash.groves.length := by
  simp [mapGrove]

@[simp] theorem setSlot_slots_length {k f} : (setSlot s k f).flash.slots.length = s.flash.slots.length := by
  simp [setSlot]

@[simp] theorem setSlot_maps {k f} : (setSlot s k f).flash.groves = s.flash.groves := rfl

@[simp] theorem setStream_streams_length {k f} : (setStream s k f).streams.length = s.streams.length := by
  simp [setStream]

@[simp] theorem setPort_ports_length {p f} : (setPort s p f).fabric.ports.length = s.fabric.ports.length := by
  simp [setPort]

/-- An event reaches the flash's lifetime area and nothing else of the flash. -/
@[simp] theorem tally_flash {a b c p q r t} :
    (tally s a b c p q r t).flash.slots = s.flash.slots ∧ (tally s a b c p q r t).flash.groves = s.flash.groves :=
  ⟨rfl, rfl⟩

end

/-! ### Shared operations -/

@[simp] theorem tally_outline {s : State} {code source severity p0 p1 p2 p3} :
    (tally s code source severity p0 p1 p2 p3).outline = s.outline := by simp [tally]

@[simp] theorem signal_outline {s : State} {v} : (signal s v).outline = s.outline := by simp [signal]

@[simp] theorem releaseHeld_outline {s : State} : (releaseHeld s).outline = s.outline := by simp [releaseHeld]

@[simp] theorem deviceEvent_outline {s : State} {b} : (deviceEvent s b).outline = s.outline := by simp [deviceEvent]

@[simp] theorem presenceEvent_outline {s : State} : (presenceEvent s).outline = s.outline := by simp [presenceEvent]

@[simp] theorem reply_outline {s : State} {c} : (reply s c).outline = s.outline := by simp [reply]

@[simp] theorem setMbx_outline {s : State} {m f} : (setMbx s m f).outline = s.outline := by simp [setMbx]

@[simp] theorem respond_outline {s : State} {m status payload detail detail2} :
    (respond s m status payload detail detail2).outline = s.outline := by
  unfold respond; split <;> simp

@[simp] theorem refuse_outline {s : State} {m status detail} : (refuse s m status detail).outline = s.outline := by
  simp [refuse]

@[simp] theorem setJob_outline {s : State} {j f} : (setJob s j f).outline = s.outline := by
  unfold setJob; split <;> simp

@[simp] theorem count_outline {s : State} {j f} : (count s j f).outline = s.outline := by simp [count]

@[simp] theorem setCtx_outline {s : State} {c f} : (setCtx s c f).outline = s.outline := by simp [setCtx]

@[simp] theorem setObj_outline {s : State} {c o f} : (setObj s c o f).outline = s.outline := by simp [setObj]

@[simp] theorem setScale_outline {s : State} {c i f} : (setScale s c i f).outline = s.outline := by simp [setScale]

@[simp] theorem setRecord_outline {s : State} {job step f} : (setRecord s job step f).outline = s.outline := by
  simp [setRecord]

@[simp] theorem voidRecords_outline {s : State} {cause l seen} : (voidRecords s cause l seen).outline = s.outline := by
  induction l generalizing s seen with
  | nil => rfl
  | cons a l ih => simp [voidRecords, ih]

@[simp] theorem voidSteps_outline {s : State} {cause hit} : (voidSteps s cause hit).outline = s.outline := by
  simp [voidSteps]

@[simp] theorem haltCommands_outline {s : State} : (haltCommands s).outline = s.outline := by simp [haltCommands]

@[simp] theorem stopPorts_outline {s : State} : (stopPorts s).outline = s.outline := by simp [stopPorts]

@[simp] theorem beginStart_outline {s : State} : (beginStart s).outline = s.outline := by simp [beginStart]

@[simp] theorem idle_outline {s : State} : (idle s).outline = s.outline := by simp [idle]

@[simp] theorem freshValue_outline {s : State} {tag} : (freshValue s tag).2.outline = s.outline := by simp [freshValue]

/-! ### Operands and the start of an instruction of the step -/

@[simp] theorem setRun_outline {s : State} {f} : (setRun s f).outline = s.outline := by simp [setRun]

@[simp] theorem recordStats_outline {s : State} {ctx e st} : (recordStats s ctx e st).outline = s.outline := by
  simp [recordStats]

@[simp] theorem countTiles_outline {s : State} {ctx o eT limit tiles} :
    (countTiles s ctx o eT limit tiles).outline = s.outline := by simp [countTiles]

@[simp] theorem ensureObj_outline {s : State} {img n} : (ensureObj s img n).outline = s.outline := by
  unfold ensureObj; split <;> simp

@[simp] theorem writeTile_outline {s : State} {img n t val pres} :
    (writeTile s img n t val pres).outline = s.outline := by
  unfold writeTile; split <;> simp

@[simp] theorem writeIntBytes_outline {s : State} {img n pos bs st} :
    (writeIntBytes s img n pos bs st).outline = s.outline := by
  unfold writeIntBytes; split <;> simp

@[simp] theorem writeRange_outline {s : State} {img n base kx nx acc val keep pres skip} :
    (writeRange s img n base kx nx acc val keep pres skip).outline = s.outline := by
  unfold writeRange; split <;> simp

@[simp] theorem inShadow_outline {s : State} {job x f} (h : ∀ t, (f t).outline = t.outline) :
    (inShadow s job x f).outline = s.outline := by simp [inShadow, h]

@[simp] theorem lengthsFor_outline {s : State} {r d} : (lengthsFor s r d).2.outline = s.outline := by
  unfold lengthsFor
  repeat' split
  all_goals simp

@[simp] theorem readLens_outline {s : State} {r i d} : (readLens s r i d).1.outline = s.outline := by
  unfold readLens; split
  · rfl
  · dsimp only; split <;> simp

@[simp] theorem addTiles_outline {s : State} {i g n} : (addTiles s i g n).outline = s.outline := by simp [addTiles]

@[simp] theorem dealList_outline {s : State} {i gs share units} :
    (dealList s i gs share units).outline = s.outline := by simp [dealList]

@[simp] theorem dealDeclared_outline {s : State} {i gs declared units tilesEach} :
    (dealDeclared s i gs declared units tilesEach).outline = s.outline := by simp [dealDeclared]

@[simp] theorem dealUnits_outline {s : State} {i gs units tilesEach} :
    (dealUnits s i gs units tilesEach).outline = s.outline := by simp [dealUnits]

@[simp] theorem markExecuted_outline {s : State} {i} : (markExecuted s i).outline = s.outline := by simp [markExecuted]

@[simp] theorem setTag_outline {s : State} {t} : (setTag s t).outline = s.outline := by simp [setTag]

/-! ### Matrix products -/

@[simp] theorem Product.countBias_outline {s : State} {ctx p} : (Product.countBias s ctx p).outline = s.outline := by
  unfold Product.countBias; split <;> simp

@[simp] theorem keepCovered_outline {s : State} {i p keep val} : (keepCovered s i p keep val).outline = s.outline := by
  simp [keepCovered]

@[simp] theorem denseProduct_outline {s : State} {img i p keep} :
    (denseProduct s img i p keep).outline = s.outline := by
  unfold denseProduct; split <;> simp

@[simp] theorem wideProduct_outline {s : State} {img i p limbs keep} :
    (wideProduct s img i p limbs keep).outline = s.outline := by
  unfold wideProduct; split <;> simp

@[simp] theorem packedProblem_outline {s : State} {img i p acc keep} :
    (packedProblem s img i p acc keep).outline = s.outline := by
  unfold packedProblem; split <;> simp

@[simp] theorem matmulDo_outline {s : State} {i r d} : (matmulDo i r d s).outline = s.outline := by
  unfold matmulDo; dsimp only; split
  · split <;> simp
  · split <;> simp

/-! ### Convolutions -/

@[simp] theorem convDo_outline {s : State} {i r d} : (convDo i r d s).outline = s.outline := by
  unfold convDo; dsimp only; split
  · refine (outline_foldl (fun t m => outline_foldl (fun t o2 => ?_) _ _) _ _).trans (by simp)
    simp
  · rfl

@[simp] theorem convDeal_outline {s : State} {i r d} : (convDeal i r d s).outline = s.outline := by
  unfold convDeal; dsimp only; split <;> simp

@[simp] theorem freeFilter_outline {s : State} {die i} : (freeFilter s die i).outline = s.outline := by
  simp [freeFilter]

/-! ### Attention and the key-value cache -/

@[simp] theorem attnDeal_outline {s : State} {i r d live} : (attnDeal s i r d live).outline = s.outline := by
  simp [attnDeal]

@[simp] theorem countTokens_outline {s : State} {ctx o base features alongK tokens} :
    (countTokens s ctx o base features alongK tokens).outline = s.outline := by simp [countTokens]

@[simp] theorem evictedRead_outline {s : State} {r d kv v g att} :
    (evictedRead s r d kv v g att).outline = s.outline := by simp [evictedRead]

@[simp] theorem scoreDo_outline {s : State} {i r d} : (scoreDo i r d s).outline = s.outline := by
  unfold scoreDo; dsimp only; split
  · refine (outline_foldl (fun t h => outline_foldl (fun t v => ?_) _ _) _ _).trans (by simp)
    simp
  · rfl

@[simp] theorem applyDo_outline {s : State} {i r d} : (applyDo i r d s).outline = s.outline := by
  unfold applyDo; dsimp only; split
  · refine (outline_foldl (fun t h => outline_foldl (fun t v => ?_) _ _) _ _).trans (by simp)
    simp
  · rfl

@[simp] theorem evictPage_outline {s : State} {i step p} : (evictPage s i step p).outline = s.outline := by
  unfold evictPage; cases pageEntry s p <;> simp

@[simp] theorem storeGroup_outline {s : State} {r d t bx4 eK eV a g key val} :
    (storeGroup s r d t bx4 eK eV a g key val).outline = s.outline := by
  unfold storeGroup
  refine outline_foldl (fun t x => ?_) _ _
  dsimp only; split <;> simp

@[simp] theorem appendFailed_outline {s : State} {d status need avail} :
    (appendFailed s d status need avail).outline = s.outline := by simp [appendFailed]

@[simp] theorem appendDo_outline {s : State} {i r d} : (appendDo i r d s).outline = s.outline := by
  unfold appendDo; dsimp only; split
  · split
    · simp
    · split <;> simp
  · rfl

@[simp] theorem appendComplete_outline {s : State} {r i d} : (appendComplete s r i d).outline = s.outline := by
  unfold appendComplete; dsimp only; split <;> simp

@[simp] theorem selectDo_outline {s : State} {i r d} : (selectDo i r d s).outline = s.outline := by
  unfold selectDo; dsimp only; split <;> simp

/-! ### Statistics and faults of the vector engine -/

@[simp] theorem recordRun_outline {s : State} {e scale st} : (recordRun s e scale st).outline = s.outline := by
  simp [recordRun]

@[simp] theorem recordOperand_outline {s : State} {e m st} : (recordOperand s e m st).outline = s.outline := by
  unfold recordOperand; split <;> simp

@[simp] theorem windowFault_outline {s : State} {g slot} : (windowFault s g slot).outline = s.outline := by
  unfold windowFault; split <;> simp



/-! ### Windows of a vector run -/

@[simp] theorem drainWindow_outline {s : State} {i r d e pres m w} :
    (drainWindow i r d e pres s m w).outline = s.outline := by
  unfold drainWindow; dsimp only; split
  · rfl
  · cases r.adm.image.entry w.object <;> simp

/-! ### Updates of parameters -/

@[simp] theorem putOther_outline {s : State} {ctx n t bs} : (putOther s ctx n t bs).outline = s.outline := by
  simp [putOther]

@[simp] theorem openOther_outline {s : State} {ctx n} : (openOther s ctx n).outline = s.outline := by simp [openOther]

@[simp] theorem ruleSTile_outline {s : State} {r d sigma p g m t} :
    (ruleSTile s r d sigma p g m t).outline = s.outline := by simp [ruleSTile]

@[simp] theorem writePlane_outline {s : State} {img n plane side val} :
    (writePlane s img n plane side val).outline = s.outline := by
  unfold writePlane; split <;> simp

@[simp] theorem foldFactor_outline {s : State} {img d n j side} :
    (foldFactor s img d n j side).outline = s.outline := by
  unfold foldFactor; split <;> simp

@[simp] theorem writeRoot_outline {s : State} {img n j side m} : (writeRoot s img n j side m).outline = s.outline := by
  simp [writeRoot]

@[simp] theorem dealRoot_outline {s : State} {r d side} : (dealRoot s r d side).outline = s.outline := by
  simp [dealRoot]

@[simp] theorem rulePBlock_outline {s : State} {r d sigma p u j} :
    (rulePBlock s r d sigma p u j).outline = s.outline := by simp [rulePBlock]

@[simp] theorem blockRoots_outline {s : State} {r d p j} : (blockRoots s r d p j).1.outline = s.outline := by
  simp [blockRoots]

@[simp] theorem rulePRoots_outline {s : State} {r d p blocks} : (rulePRoots s r d p blocks).outline = s.outline := by
  have hx (l : List Nat) (x : State × List (Nat × Word)) : (l.foldl (fun x j =>
      let y := blockRoots x.1 r d p j
      (y.1, x.2 ++ [(j, y.2)])) x).1.outline = x.1.outline := outline_foldl_fst (fun x j => by simp) x l
  unfold rulePRoots; split
  · rfl
  · dsimp only; split <;> simp [hx]

@[simp] theorem readonlyUpdate_outline {s : State} {r d g home} :
    (readonlyUpdate s r d g home).outline = s.outline := by
  unfold readonlyUpdate; split <;> simp

@[simp] theorem updateDo_outline {s : State} {home r d} : (updateDo home r d s).outline = s.outline := by
  unfold updateDo; dsimp only
  repeat' split
  all_goals simp

@[simp] theorem updateComplete_outline {s : State} {r d} : (updateComplete s r d).outline = s.outline := by
  simp [updateComplete]

@[simp] theorem clearGradients_outline {s : State} {job ctx} : (clearGradients s job ctx).outline = s.outline := by
  simp [clearGradients]

/-! ### Collectives -/

@[simp] theorem sendChunk_outline {s : State} {r coll chunk phase x} :
    (sendChunk s r coll chunk phase x).outline = s.outline := by simp [sendChunk]

@[simp] theorem takeFlags_outline {s : State} {f} : (takeFlags s f).outline = s.outline := by simp [takeFlags]

@[simp] theorem Reduction.send_outline {s : State} {x r} : (Reduction.send x s r).outline = s.outline := by
  unfold Reduction.send
  refine outline_foldl (fun t c => ?_) _ _
  split <;> simp

@[simp] theorem writeReduced_outline {s : State} {img d src eS t b pres} :
    (writeReduced s img d src eS t b pres).outline = s.outline := by unfold writeReduced; dsimp only; split <;> simp

@[simp] theorem writeShare_outline {s : State} {img i r d x ts mine} :
    (writeShare s img i r d x ts mine).outline = s.outline := by
  unfold writeShare; dsimp only; split
  · rfl
  · rw [outline_ite, ite_eq_right_iff.2]
    · simp
    · intro _
      refine outline_foldl (fun t x => ?_) _ _
      split <;> simp

@[simp] theorem reduceSend_outline {s : State} {i r d} : (reduceSend i r d s).outline = s.outline := by
  unfold reduceSend; split <;> simp

theorem reduceShadow_outline {s t : State} {i r d x} (h : reduceShadow i r d s x = some t) :
    t.outline = s.outline := by
  simp only [reduceShadow, Option.bind_eq_some_iff, Option.map_eq_some_iff] at h
  obtain ⟨y, -, z, -, rfl⟩ := h
  simp

/-- The shadows after a reduction act on what it leaves, one after another. -/
theorem foldShadows_outline {i r d} {l : List Shadow} {a : Option State} {t : State}
    (h : (l.foldl (fun u x => u.bind fun u => reduceShadow i r d u x) a) = some t) :
    ∃ u, a = some u ∧ t.outline = u.outline := by
  induction l generalizing a with
  | nil => exact ⟨t, h, rfl⟩
  | cons x l ih =>
    obtain ⟨u, hu, ht⟩ := ih h
    obtain ⟨v, hv, hu⟩ := Option.bind_eq_some_iff.1 hu
    exact ⟨v, hv, ht.trans (reduceShadow_outline hu)⟩

theorem reduceDo_outline {s t : State} {i r d} (h : reduceDo i r d s = some t) : t.outline = s.outline := by
  unfold reduceDo at h; dsimp only at h
  split at h
  · cases h
  · split at h
    · cases h
    · split at h
      · cases h
      · obtain ⟨u, hu, ht⟩ := foldShadows_outline h
        cases hu
        simp [ht]

@[simp] theorem copyTile_outline {s : State} {img n t bs pres} : (copyTile s img n t bs pres).outline = s.outline := by
  unfold copyTile; split <;> simp

@[simp] theorem gatherSend_outline {s : State} {i r d} : (gatherSend i r d s).outline = s.outline := by
  unfold gatherSend; split
  · rfl
  · split
    · simp
    · refine outline_foldl (fun t c => ?_) _ _
      split <;> simp

@[simp] theorem copyPart_outline {s : State} {img i r d tiles p} :
    (copyPart s img i r d tiles p).outline = s.outline := by
  unfold copyPart; split <;> simp

theorem stageDo_outline {s t : State} {i r d b} (h : stageDo i r d b s = some t) : t.outline = s.outline := by
  unfold stageDo at h; dsimp only at h
  split at h
  · obtain ⟨-, h⟩ := Option.ite_none_right_eq_some.1 h
    cases h
    simp
  · cases h

@[simp] theorem recordVersions_outline {s : State} {i x ps} : (recordVersions i x ps s).outline = s.outline := by
  simp [recordVersions]

@[simp] theorem replacedShards_outline {s : State} {i r x ps} : (replacedShards i r x ps s).outline = s.outline := by
  unfold replacedShards
  refine outline_foldl (fun t c => ?_) _ _
  split <;> simp

theorem gatherDo_outline {s t : State} {i r d} (h : gatherDo i r d s = some t) : t.outline = s.outline := by
  unfold gatherDo at h; dsimp only at h
  split at h
  · obtain ⟨b, -, h⟩ := Option.bind_eq_some_iff.1 h
    exact stageDo_outline h
  · split at h
    · cases h
    · obtain ⟨-, h⟩ := Option.ite_none_left_eq_some.1 h
      cases h
      simp

@[simp] theorem syncScales_outline {s : State} {ctx es own parts} :
    (syncScales s ctx es own parts).outline = s.outline := by simp [syncScales]

@[simp] theorem skipUpdate_outline {s : State} {r cause nC} : (skipUpdate s r cause nC).outline = s.outline := by
  simp [skipUpdate]

@[simp] theorem recountScales_outline {s : State} : (recountScales s).outline = s.outline := by
  unfold recountScales; split <;> simp

@[simp] theorem freeFilters_outline {s : State} {gone} : (freeFilters s gone).outline = s.outline := by
  simp [freeFilters]

@[simp] theorem releaseVersions_outline {s : State} {ctx mb} : (releaseVersions s ctx mb).outline = s.outline := by
  simp [releaseVersions]

@[simp] theorem dropMicro_outline {s : State} {r mb} : (dropMicro s r mb).outline = s.outline := by simp [dropMicro]

/-! ### Moves between the tiers -/

@[simp] theorem moveTile_outline {s : State} {img src dst t u} : (moveTile s img src dst t u).outline = s.outline := by
  unfold moveTile; split <;> simp

@[simp] theorem moveDo_outline {s : State} {i r d} : (moveDo i r d s).outline = s.outline := by
  unfold moveDo; dsimp only; split <;> simp

@[simp] theorem narrowTile_outline {s : State} {ctx n t} : (narrowTile s ctx n t).outline = s.outline := by
  unfold narrowTile; split <;> simp

@[simp] theorem narrowIteration_outline {s : State} {r n mb} : (narrowIteration s r n mb).outline = s.outline := by
  unfold narrowIteration
  refine outline_foldl (fun t c => ?_) _ _
  split <;> simp

@[simp] theorem moved_outline {s : State} {kind n b} : (moved s kind n b).outline = s.outline := by simp [moved]

@[simp] theorem evictObject_outline {s : State} {ctx o} : (evictObject s ctx o).outline = s.outline := by
  simp [evictObject]

@[simp] theorem setStream_outline {s : State} {st f} : (setStream s st f).outline = s.outline := by simp [setStream]

@[simp] theorem blankTile_outline {s : State} {img n t} : (blankTile s img n t).outline = s.outline := by
  unfold blankTile; split <;> simp

@[simp] theorem takeSlot_outline {s : State} {r y' d c i y} : (takeSlot s r y' d c i y).outline = s.outline := by
  unfold takeSlot; dsimp only; split
  · rfl
  · rw [outline_ite, writeIntBytes_outline, writeIntBytes_outline, ite_self]
    refine (outline_foldl (fun t o => outline_foldl (fun t j => ?_) _ _) _ _).trans (by simp)
    simp

@[simp] theorem takeDo_outline {s : State} {i r d} : (takeDo i r d s).outline = s.outline := by
  unfold takeDo; split <;> simp

@[simp] theorem freeTake_outline {s : State} {st k} : (freeTake s st k).outline = s.outline := by simp [freeTake]

@[simp] theorem dropTiles_outline {s : State} {ctx t} : (dropTiles s ctx t).outline = s.outline := by simp [dropTiles]

/-! ### Room in T1 -/

theorem makeRoom_outline {n need : Nat} {s t : State} (h : makeRoom n s need = some t) : t.outline = s.outline := by
  induction n generalizing s with
  | zero =>
    obtain ⟨-, h⟩ := Option.ite_none_right_eq_some.1 h
    cases h; rfl
  | succ n ih =>
    unfold makeRoom at h
    split at h
    · cases h; rfl
    · split at h
      · cases h
      · simpa using ih h

theorem room_outline {need : Nat} {s t : State} (h : room s need = some t) : t.outline = s.outline :=
  makeRoom_outline h

/-! ### Plans of an image -/

@[simp] theorem keepImage_outline {s : State} {img} : (keepImage s img).outline = s.outline := by simp [keepImage]

/-! ### Updates and their shadows -/

@[simp] theorem updateAll_outline {s : State} {x0 r d} : (updateAll x0 r d s).outline = s.outline := by simp [updateAll]

/-! ### Admission of steps -/

theorem planRoom_outline {s : State} {img peak x} (h : planRoom s img peak = some x) : x.1.outline = s.outline := by
  unfold planRoom at h; dsimp only at h
  split at h
  · cases h
  · cases h
    refine outline_foldl (fun t x => ?_) _ _
    split <;> simp

@[simp] theorem codedFor_outline {s : State} {gone step} : (codedFor s gone step).outline = s.outline := by
  simp [codedFor]

theorem settleRoom_outline {b : Basis} {n peak t gone x k} (h : settleRoom b n peak = some (t, gone, x, k)) :
    t.outline = b.s.outline := by
  induction n generalizing peak with
  | zero => cases h
  | succ n ih =>
    unfold settleRoom at h
    split at h
    · cases h
    · rename_i hp
      dsimp only at h
      split at h
      · cases h
        simpa using planRoom_outline hp
      · exact ih h

theorem seek_outline {s t : State} {prior img step takes b peak rests t0}
    (h : seek s prior img step takes = .found b t peak rests t0) : t.outline = s.outline := by
  unfold seek at h; dsimp only at h
  split at h
  · cases h
  · split at h
    · cases h
    · split at h
      · cases h
      · rename_i hroom
        split at h
        · cases h
        · split at h
          · cases h
          · cases h; exact settleRoom_outline hroom

@[simp] theorem cacheSchedule_outline {s : State} {img} : (cacheSchedule s img).outline = s.outline := by
  simp [cacheSchedule]

@[simp] theorem bookTakes_outline {s : State} {ts} : (bookTakes s ts).outline = s.outline := by simp [bookTakes]

@[simp] theorem useObjects_outline {s : State} {img n} : (useObjects s img n).outline = s.outline := by
  simp [useObjects]

@[simp] theorem enqueue_outline {s : State} {a} : (enqueue s a).outline = s.outline := by simp [enqueue]

@[simp] theorem refuseSubmit_outline {s : State} {m status detail job step} :
    (refuseSubmit s m status detail job step).outline = s.outline := by simp [refuseSubmit]

@[simp] theorem submitSchedule_outline {s : State} {m w q img} :
    (submitSchedule s m w q img).outline = s.outline := by
  unfold submitSchedule; split
  · simp
  · simp [seek_outline ‹_›]

@[simp] theorem dropImage_outline {s : State} {q} : (dropImage s q).outline = s.outline := by simp [dropImage]

@[simp] theorem submitDo_outline {s : State} {m w} : (submitDo s m w).outline = s.outline := by
  unfold submitDo; dsimp only; split
  · simp
  · split <;> simp

@[simp] theorem releaseTakes_outline {s : State} {a} : (releaseTakes s a).outline = s.outline := by simp [releaseTakes]

@[simp] theorem removeQueued_outline {s : State} {a} : (removeQueued s a).outline = s.outline := by simp [removeQueued]

@[simp] theorem setQueued_outline {s : State} {a f} : (setQueued s a f).outline = s.outline := by simp [setQueued]

@[simp] theorem readmitOne_outline {s : State} {a before} : (readmitOne s a before).outline = s.outline := by
  unfold readmitOne; dsimp only; split
  · simp
  · have := seek_outline ‹_›
    simp_all

/-! ### Firmware slots -/

@[simp] theorem setSlot_outline {s : State} {k f} : (setSlot s k f).outline = s.outline := by simp [setSlot]

@[simp] theorem rejected_outline {s : State} {step m when_} : (rejected s step m when_).outline = s.outline := by
  simp [rejected]

@[simp] theorem failTrial_outline {s : State} {k step} : (failTrial s k step).outline = s.outline := by simp [failTrial]

@[simp] theorem promote_outline {s : State} : (promote s).outline = s.outline := by simp [promote]

/-! ### Groves and islands -/

@[simp] theorem setGrove_outline {s : State} {g f} : (setGrove s g f).outline = s.outline := by simp [setGrove]

@[simp] theorem mapGrove_outline {s : State} {g f} : (mapGrove s g f).outline = s.outline := by simp [mapGrove]

@[simp] theorem readySpare_outline {s : State} {die} : (readySpare s die).1.outline = s.outline := by
  unfold readySpare; split <;> simp

@[simp] theorem answerRetire_outline {s : State} {x} : (answerRetire s x).outline = s.outline := by simp [answerRetire]

@[simp] theorem saveChecker_outline {s : State} {g} : (saveChecker s g).outline = s.outline := by simp [saveChecker]

@[simp] theorem needSpare_outline {s : State} {g} : (needSpare s g).outline = s.outline := by simp [needSpare]

@[simp] theorem markSuspect_outline {s : State} {g} : (markSuspect s g).outline = s.outline := by
  unfold markSuspect; dsimp only; split
  · split <;> simp
  · rfl

@[simp] theorem countMismatch_outline {s : State} {g} : (countMismatch s g).outline = s.outline := by
  simp [countMismatch]

@[simp] theorem oneMismatch_outline {s : State} {g where_ row} : (oneMismatch s g where_ row).outline = s.outline := by
  simp [oneMismatch]

@[simp] theorem replayRow_outline {s : State} {g where_ row column last} :
    (replayRow s g where_ row column last).outline = s.outline := by simp [replayRow]

@[simp] theorem setPower_outline {s : State} {i p} : (setPower s i p).outline = s.outline := by simp [setPower]

@[simp] theorem idleIslands_outline {s : State} : (idleIslands s).outline = s.outline := by simp [idleIslands]

/-! ### The key-value pool -/

@[simp] theorem closeSequence_outline {s : State} {ctx table entry} :
    (closeSequence s ctx table entry).outline = s.outline := by
  unfold closeSequence; split <;> simp

@[simp] theorem pinPage_outline {s : State} {ctx k pin} : (pinPage s ctx k pin).outline = s.outline := by
  unfold pinPage; split <;> simp

@[simp] theorem kvAct_outline {s : State} {op ctx k} : (kvAct s op ctx k).outline = s.outline := by simp [kvAct]

@[simp] theorem kvBoundary_outline {s : State} : (kvBoundary s).outline = s.outline := by
  unfold kvBoundary
  refine (outline_foldl (fun t x => ?_) _ _).trans (by simp)
  split <;> simp

@[simp] theorem closeContext_outline {s : State} {ctx} : (closeContext s ctx).outline = s.outline := by
  simp [closeContext]

/-! ### Fabric ports -/

@[simp] theorem setPort_outline {s : State} {p f} : (setPort s p f).outline = s.outline := by simp [setPort]

@[simp] theorem notice_outline {s : State} {device kind value} : (notice s device kind value).outline = s.outline := by
  simp [notice]

@[simp] theorem portDown_outline {s : State} {p cause} : (portDown s p cause).outline = s.outline := by simp [portDown]

@[simp] theorem transmit_outline {s : State} {p f} : (transmit s p f).outline = s.outline := by
  unfold transmit; dsimp only
  repeat' split
  all_goals simp only [setPort_outline, freshValue_outline, portDown_outline]

@[simp] theorem sendFlit_outline {s : State} {p f} : (sendFlit s p f).outline = s.outline := by simp [sendFlit]

@[simp] theorem requestRetry_outline {s : State} {p} : (requestRetry s p).outline = s.outline := by simp [requestRetry]

@[simp] theorem releaseStandby_outline {s : State} : (releaseStandby s).outline = s.outline := by
  unfold releaseStandby; split <;> simp

@[simp] theorem retirePort_outline {s : State} {p} : (retirePort s p).outline = s.outline := by simp [retirePort]

/-! ### Jobs -/

@[simp] theorem leaveJob_outline {s : State} {job} : (leaveJob s job).outline = s.outline := by simp [leaveJob]

@[simp] theorem publishPlan_outline {s : State} {img} : (publishPlan s img).outline = s.outline := by
  unfold publishPlan
  repeat' split
  all_goals simp

@[simp] theorem extendPromises_outline {s : State} {ns} : (extendPromises s ns).outline = s.outline := by
  unfold extendPromises; split <;> simp

/-! ### Burst errors -/

@[simp] theorem countPosition_outline {s : State} {stack pch frame pos} :
    (countPosition s stack pch frame pos).outline = s.outline := by
  unfold countPosition; dsimp only
  repeat' split
  all_goals simp

@[simp] theorem correctBurst_outline {s : State} {e positions} : (correctBurst s e positions).outline = s.outline := by
  simp [correctBurst]

/-! ### Shoring -/

@[simp] theorem announceNext_outline {s : State} {job} : (announceNext s job).outline = s.outline := by
  unfold announceNext; split <;> simp

@[simp] theorem takeBack_outline {s : State} {job x} : (takeBack s job x).outline = s.outline := by
  unfold takeBack; split
  · rfl
  · refine setJob_outline.trans (outline_foldl (fun t x => ?_) _ _)
    split <;> simp

@[simp] theorem freeLent_outline {s : State} {device} : (freeLent s device).outline = s.outline := by simp [freeLent]

@[simp] theorem declareFailed_outline {s : State} {job device} : (declareFailed s job device).outline = s.outline := by
  unfold declareFailed; split <;> simp

@[simp] theorem dropAfter_outline {s : State} {job device} : (dropAfter s job device).outline = s.outline := by
  unfold dropAfter; split
  · rfl
  · dsimp only; rw [outline_ite, ite_eq_left_iff.2]
    intro _
    refine outline_foldl (fun t x => ?_) _ _
    split <;> simp

@[simp] theorem groupLost_outline {s : State} {job g} : (groupLost s job g).outline = s.outline := by
  unfold groupLost; dsimp only
  repeat' split
  all_goals simp

@[simp] theorem adopt_outline {s : State} {job device x tiles first} :
    (adopt s job device x tiles first).outline = s.outline := by simp [adopt]

@[simp] theorem rebuild_outline {s : State} {job device b} : (rebuild s job device b).outline = s.outline := by
  unfold rebuild
  repeat' split
  all_goals simp

/-! ### Configuration sets -/

@[simp] theorem configBoundary_outline {s : State} : (configBoundary s).outline = s.outline := by simp [configBoundary]

@[simp] theorem setStage_outline {s : State} {m i x} : (setStage s m i x).outline = s.outline := by simp [setStage]

@[simp] theorem commitRefused_outline {s : State} {m i cause} : (commitRefused s m i cause).outline = s.outline := by
  simp [commitRefused]

/-! ### Steps -/

@[simp] theorem beginObjects_outline {s : State} {img} : (beginObjects s img).outline = s.outline := by
  simp [beginObjects]

@[simp] theorem completeEffect_outline {s : State} {r i d} : (completeEffect s r i d).outline = s.outline := by
  unfold completeEffect; split <;> simp

@[simp] theorem endObjects_outline {s : State} {r} : (endObjects s r).outline = s.outline := by simp [endObjects]

@[simp] theorem undoUpdate_outline {s : State} {r} : (undoUpdate s r).outline = s.outline := by simp [undoUpdate]

@[simp] theorem advanceScales_outline {s : State} {r} : (advanceScales s r).outline = s.outline := by
  simp [advanceScales]

@[simp] theorem closeRecord_outline {s : State} {r} : (closeRecord s r).outline = s.outline := by simp [closeRecord]

@[simp] theorem trimRecords_outline {s : State} {job} : (trimRecords s job).outline = s.outline := by simp [trimRecords]

@[simp] theorem retireOthers_outline {s : State} : (retireOthers s).outline = s.outline := by simp [retireOthers]

@[simp] theorem endTakes_outline {s : State} {a} : (endTakes s a).outline = s.outline := by simp [endTakes]

@[simp] theorem endShadows_outline {s : State} {r} : (endShadows s r).outline = s.outline := by simp [endShadows]

/-! ### Host windows and stream indices -/

@[simp] theorem hostDiscard_outline {s : State} {kind number offset} :
    (hostDiscard s kind number offset).outline = s.outline := by simp [hostDiscard]

@[simp] theorem writePi_outline {s : State} {st v} : (writePi s st v).outline = s.outline := by
  unfold writePi; dsimp only; split
  · split <;> simp
  · simp

/-! ### Stacked memory -/

@[simp] theorem devWrite_outline {s : State} {a v} : (devWrite s a v).outline = s.outline := by
  unfold devWrite; split <;> simp

@[simp] theorem wipeStack_outline {s : State} {k} : (wipeStack s k).outline = s.outline := by simp [wipeStack]

@[simp] theorem patrolBurst_outline {s : State} {stack e} : (patrolBurst stack s e).outline = s.outline := by
  unfold patrolBurst
  repeat' split
  all_goals simp

@[simp] theorem presenceRefused_outline {s : State} {m w} : (presenceRefused s m w).outline = s.outline := by
  simp [presenceRefused]

@[simp] theorem countClassP_outline {s : State} : (countClassP s).outline = s.outline := by simp [countClassP]

/-! ### Windows of the host -/

@[simp] theorem unsupported_outline {s : State} : (unsupported s).outline = s.outline := by simp [unsupported]

@[simp] theorem ringMailbox_outline {s : State} {m} : (ringMailbox s m).outline = s.outline := by simp [ringMailbox]

@[simp] theorem writeReg_outline {s : State} {o data} : (writeReg s o data).outline = s.outline := by simp [writeReg]

@[simp] theorem writePage_outline {s : State} {m a data} : (writePage s m a data).outline = s.outline := by
  simp [writePage]

@[simp] theorem answerRead_outline {s : State} {wrong bs} : (answerRead s wrong bs).outline = s.outline := by
  simp [answerRead]

@[simp] theorem viewWrite_outline {s : State} {ctx o i data} : (viewWrite s ctx o i data).outline = s.outline := by
  simp [viewWrite]

@[simp] theorem placementDo_outline {s : State} {j o acc} : (placementDo s j o acc).outline = s.outline := by
  unfold placementDo; split <;> simp

@[simp] theorem configDo_outline {s : State} {x1} : (configDo s x1).outline = s.outline := by
  unfold configDo; split <;> simp

@[simp] theorem endHold_outline {s : State} {x1} : (endHold s x1).outline = s.outline := by
  unfold endHold; split <;> simp

/-! ### Mailbox requests -/

@[simp] theorem answerOnly_outline {s : State} {m q opcode status detail} :
    (answerOnly s m q opcode status detail).outline = s.outline := by simp [answerOnly]

@[simp] theorem replay_outline {s : State} {m q crc} : (replay s m q crc).outline = s.outline := by
  unfold replay; split <;> simp

@[simp] theorem beginWork_outline {s : State} {m w} : (beginWork s m w).outline = s.outline := by simp [beginWork]

@[simp] theorem checkWork_outline {s : State} {m w} : (checkWork s m w).outline = s.outline := by
  unfold checkWork; split <;> simp

@[simp] theorem takeRequest_outline {s : State} {m} : (takeRequest s m).outline = s.outline := by
  unfold takeRequest; dsimp only; split
  · simp
  · split <;> simp

/-! ### Images and mapped objects -/

theorem bringBack_outline {s t : State} {c o} (h : bringBack s c o = some t) : t.outline = s.outline := by
  unfold bringBack at h; split at h
  · cases h; rfl
  · obtain ⟨u, hu, rfl⟩ := Option.map_eq_some_iff.1 h
    split at hu
    · cases hu; simp
    · simp [room_outline hu]

@[simp] theorem accessError_outline {s : State} {cause address} :
    (accessError s cause address).outline = s.outline := by simp [accessError]

@[simp] theorem withoutImage_outline {s : State} {ctx job} : (withoutImage s ctx job).outline = s.outline := by
  simp [withoutImage]

@[simp] theorem keepFetched_outline {s : State} {m w b c} : (keepFetched s m w b c).outline = s.outline := by
  unfold keepFetched; dsimp only; split
  · simp
  · split
    · simp
    · simp [room_outline ‹_›]

/-! ### Streams -/

@[simp] theorem replaceSample_outline {s : State} {st u position cause} :
    (replaceSample s st u position cause).outline = s.outline := by
  unfold replaceSample
  repeat' split
  all_goals simp

@[simp] theorem rejectSample_outline {s : State} {st u position reason tag} :
    (rejectSample s st u position reason tag).outline = s.outline := by
  unfold rejectSample; split <;> simp

/-! ### Resets, the link and start-up -/

@[simp] theorem setPin_outline {s : State} {pin v} : (setPin s pin v).outline = s.outline := by
  unfold setPin; split <;> simp

@[simp] theorem retrained_outline {s : State} {speed width} : (retrained s speed width).outline = s.outline := by
  simp [retrained]

@[simp] theorem bootSlot_outline {s : State} : (bootSlot s).1.outline = s.outline := by
  unfold bootSlot; dsimp only
  repeat' split
  all_goals simp

@[simp] theorem bootTrust_outline {s : State} {env} : (bootTrust s env).outline = s.outline := by simp [bootTrust]

@[simp] theorem enterMonitor_outline {s : State} : (enterMonitor s).outline = s.outline := by simp [enterMonitor]

@[simp] theorem readyDo_outline {s : State} : (readyDo s).outline = s.outline := by simp [readyDo]

@[simp] theorem answerEnter_outline {s : State} : (answerEnter s).outline = s.outline := by
  unfold answerEnter
  refine outline_foldl (fun t x => ?_) _ _
  split <;> simp

@[simp] theorem enterDo_outline {s : State} : (enterDo s).outline = s.outline := by simp [enterDo]

@[simp] theorem askShutdown_outline {s : State} {by_} : (askShutdown s by_).outline = s.outline := by simp [askShutdown]

@[simp] theorem changeState_outline {s : State} {m dst} : (changeState s m dst).outline = s.outline := by
  simp [changeState]

@[simp] theorem enterTarget_outline {s : State} {m w dst} : (enterTarget s m w dst).outline = s.outline := by
  simp [enterTarget]

/-! ### Retirement, repair and shut-down -/

@[simp] theorem askRetire_outline {s : State} {m i} : (askRetire s m i).outline = s.outline := by simp [askRetire]

@[simp] theorem applyEdit_outline {s : State} {x1} : (applyEdit s x1).outline = s.outline := by
  unfold applyEdit; split <;> simp

@[simp] theorem shutRefuse_outline {s : State} : (shutRefuse s).outline = s.outline := by
  unfold shutRefuse
  refine outline_foldl (fun t x => ?_) _ _
  split <;> simp

@[simp] theorem leaveAll_outline {s : State} : (leaveAll s).outline = s.outline := by simp [leaveAll]

@[simp] theorem closeStreams_outline {s : State} : (closeStreams s).outline = s.outline := by simp [closeStreams]

@[simp] theorem saveGroves_outline {s : State} : (saveGroves s).outline = s.outline := by simp [saveGroves]

/-! ### The module -/

@[simp] theorem setSensor_outline {s : State} {x c} : (setSensor s x c).outline = s.outline := by
  unfold setSensor; split <;> simp

/-! ### SPDM -/

@[simp] theorem spdmAnswer_outline {s : State} {code body} : (spdmAnswer s code body).outline = s.outline := by
  simp [spdmAnswer]

@[simp] theorem spdmError_outline {s : State} {code} : (spdmError s code).outline = s.outline := by simp [spdmError]

@[simp] theorem signedAnswer_outline {s : State} {code nonce body} :
    (signedAnswer s code nonce body).outline = s.outline := by simp [signedAnswer]

end Sys2Proof.Machine
end

section
/-!
PROOFS. What a step has to keep of the outline, and the vector engines: every instruction of R124 to R126, R129, R130 and
R132 keeps the shape of the engine that it acts on (R113).
-/

namespace Sys2Proof.Machine

/-! ### What a step has to keep -/

/-- Every table has its number of entries (R11, R111, R250, R270, R319, R338, R354, R362). -/
def Outline.tablesShaped (o : Outline) : Prop :=
  o.mailboxes = 64 ∧ o.configs = 6 ∧ o.groves = 128 ∧ o.hbm = 16 ∧ o.streams = 16 ∧ o.ports = 20 ∧
  o.vectors = 64 ∧ o.pendings = 64 ∧ o.slots = 2 ∧ o.maps = 128

/-- Every vector engine has its shape (R113). -/
def Outline.enginesShaped (o : Outline) : Prop := ∀ x ∈ o.engines, x.2.shaped

/-- The tables of b are shaped when those of a are, and so are the engines. -/
structure Outline.Keeps (a b : Outline) : Prop where
  tables : a.tablesShaped → b.tablesShaped
  engines : a.enginesShaped → b.enginesShaped

theorem shaped_iff_outline {s : State} : s.shaped ↔ s.outline.tablesShaped := Iff.rfl

@[simp] theorem Outline.Keeps.refl (a : Outline) : a.Keeps a := ⟨id, id⟩

theorem Outline.Keeps.trans {a b c : Outline} (h : a.Keeps b) (k : b.Keeps c) : a.Keeps c :=
  ⟨k.tables ∘ h.tables, k.engines ∘ h.engines⟩

variable {z : Outline}

@[simp] theorem keeps_ite {c : Prop} [Decidable c] {a b : Outline} :
    z.Keeps (if c then a else b) ↔ if c then z.Keeps a else z.Keeps b := by split <;> rfl

theorem keeps_foldl {α : Type} {f : State → α → State} (h : ∀ (t : State) x, t.outline.Keeps (f t x).outline)
    {s : State} (hs : z.Keeps s.outline) (l : List α) : z.Keeps (l.foldl f s).outline := by
  induction l generalizing s with
  | nil => exact hs
  | cons x l ih => exact ih (hs.trans (h s x))

/-- A record update that keeps the sizes of the tables and adds no engine. -/
theorem keeps_of_subset {s t : State} (hl : t.link.table.length = s.link.table.length)
    (hp : t.link.pendingBits.length = s.link.pendingBits.length)
    (hm : t.mbx.length = s.mbx.length) (hc : t.cfg.length = s.cfg.length)
    (hs : t.flash.slots.length = s.flash.slots.length) (hf : t.flash.groves.length = s.flash.groves.length)
    (hg : t.groves.length = s.groves.length) (hh : t.hbm.length = s.hbm.length)
    (ht : t.streams.length = s.streams.length) (ha : t.fabric.ports.length = s.fabric.ports.length)
    (hv : t.vec ⊆ s.vec) : s.outline.Keeps t.outline := by
  refine ⟨fun h => ?_, fun h x hx => h x (hv hx)⟩
  rwa [← shaped_iff_outline, State.shaped, hl, hp, hm, hc, hs, hf, hg, hh, ht, ha]

/-- Dropping engines keeps the shape. -/
@[simp] theorem keeps_filter_engines {s : State} (h : z.Keeps s.outline)
    {p ti fr pe b d l rg mb c f ta g hb i me cx k j sc st fa sp}
    (hl : l.table.length = s.link.table.length) (hp : l.pendingBits.length = s.link.pendingBits.length)
    (hm : mb.length = s.mbx.length) (hc : c.length = s.cfg.length)
    (hs : f.slots.length = s.flash.slots.length) (hf : f.groves.length = s.flash.groves.length)
    (hg : g.length = s.groves.length) (hh : hb.length = s.hbm.length) (ht : st.length = s.streams.length)
    (ha : fa.ports.length = s.fabric.ports.length) :
    z.Keeps (State.mk ti fr pe b d l rg mb c f ta g hb i me cx k j sc st fa (s.vec.filter p) sp).outline :=
  h.trans (keeps_of_subset hl hp hm hc hs hf hg hh ht ha (List.filter_subset_self _))

/-! ### Vector engines -/

namespace VecEngine.shaped

variable {e : VecEngine}

theorem default : ({} : VecEngine).shaped := by
  refine ⟨rfl, fun l hl => ?_, rfl, rfl, List.Pairwise.nil⟩
  rw [List.eq_of_mem_replicate hl, List.length_replicate]

/-- The shape looks at the registers and the scratch words alone. -/
theorem congr {e' : VecEngine} (h : e.shaped) (hv : e'.v = e.v) (hs : e'.s.length = e.s.length)
    (hp : e'.p.length = e.p.length) (hx : e'.scratch = e.scratch) : e'.shaped := by
  rwa [VecEngine.shaped, hv, hs, hp, hx]

theorem register_length (h : e.shaped) (i : Nat) : (at' e.v i zeroLanes).length = 256 := by
  obtain ⟨-, hv, -⟩ := h
  unfold at'
  cases hi : e.v[i]? with
  | none => exact List.length_replicate
  | some l => exact hv l (List.mem_of_getElem? hi)

@[simp] theorem vreg_length (h : e.shaped) (i : BitVec 5) : (e.vreg i).length = 256 := h.register_length i.toNat

theorem setV (h : e.shaped) {i : Nat} {l : List Word} (hl : l.length = 256) : (e.setV i l).shaped := by
  obtain ⟨hn, hv, hs, hp, hx⟩ := h
  refine ⟨by simpa [VecEngine.setV] using hn, fun k hk => ?_, hs, hp, hx⟩
  obtain hk | rfl := List.mem_or_eq_of_mem_set hk
  · exact hv k hk
  · exact hl

theorem setS (h : e.shaped) {i : Nat} {w : Word} : (e.setS i w).shaped := h.congr rfl (by simp [VecEngine.setS]) rfl rfl

theorem setP (h : e.shaped) {i : Nat} {p : BitVec 256} : (e.setP i p).shaped := by
  unfold VecEngine.setP; split
  · exact h
  · exact h.congr rfl rfl (by simp) rfl

end VecEngine.shaped

theorem mergeLanes_length {p zm} {o n : List Word} : (mergeLanes p zm o n).length = min o.length n.length := by
  induction o generalizing p n with
  | nil => simp [mergeLanes]
  | cons a o ih => cases n <;> simp [mergeLanes, ih]

@[simp] theorem fillInactive_length {w p} {l : List Word} : (fillInactive w p l).length = l.length := by
  induction l generalizing p with
  | nil => rfl
  | cons a l ih => simp [fillInactive, ih]

/-- A destination takes as many lanes as it has, of results that are at least as many. -/
theorem VecEngine.shaped.putLanes {e : VecEngine} (h : e.shaped) {f i} {r : List Word} (hr : 256 ≤ r.length) :
    (e.putLanes f i r).shaped :=
  h.setV (by rw [mergeLanes_length, h.register_length]; omega)

theorem VecEngine.shaped.put {e : VecEngine} (h : e.shaped) {f} {r : List Word} (hr : 256 ≤ r.length) :
    (e.put f r).shaped := h.putLanes hr

/-! ### The engine of a grove -/

theorem vecAt_shaped {s : State} (h : s.outline.enginesShaped) (g : Nat) : (vecAt s g).shaped := by
  unfold vecAt
  cases hg : s.vec.find? fun x => x.1 == g with
  | none => exact .default
  | some x => exact h x (List.mem_of_find?_eq_some hg)

theorem setVec_keepsShape {s : State} {g : Nat} {e : VecEngine} (h : z.Keeps s.outline)
    (he : z.enginesShaped → e.shaped) : z.Keeps (setVec s g e).outline := by
  refine ⟨h.tables, fun hz x hx => ?_⟩
  obtain rfl | hx := List.mem_cons.1 hx
  · exact he hz
  · exact h.engines hz x (List.mem_filter.1 hx).1

/-- An operation on an engine that keeps its shape. -/
theorem vecDo_keepsShape {s : State} {g : Nat} {f : VecEngine → VecEngine} (h : z.Keeps s.outline)
    (hf : ∀ e, e.shaped → (f e).shaped) : z.Keeps (vecDo s g f).outline :=
  setVec_keepsShape h fun hz => (hf _ (vecAt_shaped (h.engines hz) g)).congr rfl rfl rfl rfl

section
variable {s : State} (h : z.Keeps s.outline) {g : Nat} {f : VFields}
include h

theorem lanes1_keepsShape {op} : z.Keeps (lanes1 s g f op).outline :=
  vecDo_keepsShape h fun _ he => he.put (by simp [he])

theorem lanes2_keepsShape {op} : z.Keeps (lanes2 s g f op).outline :=
  vecDo_keepsShape h fun _ he => he.put (by simp [he])

theorem scalars1_keepsShape {op} : z.Keeps (scalars1 s g f op).outline := vecDo_keepsShape h fun _ he => he.setS

theorem scalars2_keepsShape {op} : z.Keeps (scalars2 s g f op).outline := vecDo_keepsShape h fun _ he => he.setS

theorem compareLanes_keepsShape {op} : z.Keeps (compareLanes s g f op).outline := vecDo_keepsShape h fun _ he => he.setP

theorem reduceLanes_keepsShape {unit op} : z.Keeps (reduceLanes s g f unit op).outline :=
  vecDo_keepsShape h fun _ he => he.setS

@[simp] theorem recordStore_keepsShape {m slot st} : z.Keeps (recordStore s g m slot st).outline := by
  unfold recordStore; dsimp only; split
  · exact h
  · split
    · exact setVec_keepsShape h fun hz => (vecAt_shaped (h.engines hz) g).congr rfl rfl rfl rfl
    · simpa using h

theorem setWindow_keepsShape {m a bs} : z.Keeps (setWindow s g m a bs).outline :=
  setVec_keepsShape h fun hz => (vecAt_shaped (h.engines hz) g).congr rfl rfl rfl rfl

theorem storeBlocks_keepsShape {m w slot bs} : z.Keeps (storeBlocks s g m w slot bs).outline :=
  setWindow_keepsShape (setWindow_keepsShape h)

theorem storeSlot_keepsShape {m w slot act lo hi} : z.Keeps (storeSlot s g m w slot act lo hi).outline := by
  unfold storeSlot; dsimp only; split
  · exact setWindow_keepsShape h
  · exact setWindow_keepsShape h
  · split
    · exact recordStore_keepsShape (storeBlocks_keepsShape h)
    · exact recordStore_keepsShape (setWindow_keepsShape h)

end

/-! ### What a command answers -/

/-- The state that an answer leaves keeps the shape of s. -/
def KeepsShape (s : State) (o : Host.Outcome State Fault Refusal) : Prop :=
  ∀ t, o = .next t → s.outline.Keeps t.outline

theorem KeepsShape.next {s t : State} (h : s.outline.Keeps t.outline) : KeepsShape s (.next t) := by
  rintro _ ⟨⟩; exact h

@[simp] theorem keepsShape_done {s t : State} : KeepsShape s (done t) ↔ s.outline.Keeps t.outline :=
  ⟨fun h => h t rfl, .next⟩

section

variable {s : State} {g : Fin 128} {f : VFields} {w : DWord}

/-! ### Vector instructions -/

@[simp] theorem execHdr_keepsShape : KeepsShape s (execHdr g w s) :=
  .next (vecDo_keepsShape (.refl _) fun _ he => he.congr rfl rfl rfl rfl)

@[simp] theorem execVloop_keepsShape : KeepsShape s (execVloop g f s) :=
  .next (vecDo_keepsShape (.refl _) fun _ he => he.setS.congr rfl rfl rfl rfl)

@[simp] theorem execVendloop_keepsShape : KeepsShape s (execVendloop g f s) := by
  have he (hs : s.outline.enginesShaped) : (vecAt s g).shaped := vecAt_shaped hs g
  refine .next ?_
  split
  · exact setVec_keepsShape (.refl _) fun hs => (he hs).congr rfl rfl rfl rfl
  · split
    · exact setVec_keepsShape (.refl _) fun hs => (he hs).setS.congr rfl rfl rfl rfl
    · exact setVec_keepsShape (.refl _) fun hs => (he hs).congr rfl rfl rfl rfl

@[simp] theorem execVnop_keepsShape : KeepsShape s (execVnop g f s) :=
  .next (vecDo_keepsShape (.refl _) fun _ he => he)

@[simp] theorem execIadd_keepsShape : KeepsShape s (execIadd g f s) := .next (lanes2_keepsShape (.refl _))

@[simp] theorem execIsub_keepsShape : KeepsShape s (execIsub g f s) := .next (lanes2_keepsShape (.refl _))

@[simp] theorem execImul_keepsShape : KeepsShape s (execImul g f s) := .next (lanes2_keepsShape (.refl _))

@[simp] theorem execImin_keepsShape : KeepsShape s (execImin g f s) := .next (lanes2_keepsShape (.refl _))

@[simp] theorem execImax_keepsShape : KeepsShape s (execImax g f s) := .next (lanes2_keepsShape (.refl _))

@[simp] theorem execVand_keepsShape : KeepsShape s (execVand g f s) := .next (lanes2_keepsShape (.refl _))

@[simp] theorem execVor_keepsShape : KeepsShape s (execVor g f s) := .next (lanes2_keepsShape (.refl _))

@[simp] theorem execVxor_keepsShape : KeepsShape s (execVxor g f s) := .next (lanes2_keepsShape (.refl _))

@[simp] theorem execShl_keepsShape : KeepsShape s (execShl g f s) := .next (lanes2_keepsShape (.refl _))

@[simp] theorem execShr_keepsShape : KeepsShape s (execShr g f s) := .next (lanes2_keepsShape (.refl _))

@[simp] theorem execSra_keepsShape : KeepsShape s (execSra g f s) := .next (lanes2_keepsShape (.refl _))

@[simp] theorem execIaddi_keepsShape : KeepsShape s (execIaddi g f s) := .next (lanes1_keepsShape (.refl _))

@[simp] theorem execMovi_keepsShape : KeepsShape s (execMovi g f s) :=
  .next (vecDo_keepsShape (.refl _) fun _ he => he.put List.length_replicate.ge)

@[simp] theorem execMovs_keepsShape : KeepsShape s (execMovs g f s) :=
  .next (vecDo_keepsShape (.refl _) fun _ he => he.put List.length_replicate.ge)

@[simp] theorem execLaneid_keepsShape : KeepsShape s (execLaneid g f s) :=
  .next (vecDo_keepsShape (.refl _) fun _ he => he.put (by simp))

@[simp] theorem execVmov_keepsShape : KeepsShape s (execVmov g f s) := .next (lanes1_keepsShape (.refl _))

@[simp] theorem execSmovi_keepsShape : KeepsShape s (execSmovi g f s) :=
  .next (vecDo_keepsShape (.refl _) fun _ he => he.setS)

@[simp] theorem execSadd_keepsShape : KeepsShape s (execSadd g f s) := .next (scalars2_keepsShape (.refl _))

@[simp] theorem execSaddi_keepsShape : KeepsShape s (execSaddi g f s) := .next (scalars1_keepsShape (.refl _))

@[simp] theorem execSsub_keepsShape : KeepsShape s (execSsub g f s) := .next (scalars2_keepsShape (.refl _))

@[simp] theorem execSmul_keepsShape : KeepsShape s (execSmul g f s) := .next (scalars2_keepsShape (.refl _))

@[simp] theorem execSshli_keepsShape : KeepsShape s (execSshli g f s) := .next (scalars1_keepsShape (.refl _))

@[simp] theorem execSshri_keepsShape : KeepsShape s (execSshri g f s) := .next (scalars1_keepsShape (.refl _))

@[simp] theorem execSand_keepsShape : KeepsShape s (execSand g f s) := .next (scalars2_keepsShape (.refl _))

@[simp] theorem execSor_keepsShape : KeepsShape s (execSor g f s) := .next (scalars2_keepsShape (.refl _))

@[simp] theorem execFadd_keepsShape : KeepsShape s (execFadd g f s) := .next (lanes2_keepsShape (.refl _))

@[simp] theorem execFsub_keepsShape : KeepsShape s (execFsub g f s) := .next (lanes2_keepsShape (.refl _))

@[simp] theorem execFmul_keepsShape : KeepsShape s (execFmul g f s) := .next (lanes2_keepsShape (.refl _))

@[simp] theorem execFma_keepsShape : KeepsShape s (execFma g f s) :=
  .next (vecDo_keepsShape (.refl _) fun _ he => he.put (by simp [he]))

@[simp] theorem execFmin_keepsShape : KeepsShape s (execFmin g f s) := .next (lanes2_keepsShape (.refl _))

@[simp] theorem execFmax_keepsShape : KeepsShape s (execFmax g f s) := .next (lanes2_keepsShape (.refl _))

@[simp] theorem execFabs_keepsShape : KeepsShape s (execFabs g f s) := .next (lanes1_keepsShape (.refl _))

@[simp] theorem execFneg_keepsShape : KeepsShape s (execFneg g f s) := .next (lanes1_keepsShape (.refl _))

@[simp] theorem execFsqrt_keepsShape : KeepsShape s (execFsqrt g f s) := .next (lanes1_keepsShape (.refl _))

@[simp] theorem execFrcp_keepsShape : KeepsShape s (execFrcp g f s) := .next (lanes1_keepsShape (.refl _))

@[simp] theorem execFrsqrt_keepsShape : KeepsShape s (execFrsqrt g f s) := .next (lanes1_keepsShape (.refl _))

@[simp] theorem execFmuli_keepsShape : KeepsShape s (execFmuli g f s) := .next (lanes1_keepsShape (.refl _))

@[simp] theorem execFexp_keepsShape : KeepsShape s (execFexp g f s) := .next (lanes1_keepsShape (.refl _))

@[simp] theorem execFexp2_keepsShape : KeepsShape s (execFexp2 g f s) := .next (lanes1_keepsShape (.refl _))

@[simp] theorem execFlog_keepsShape : KeepsShape s (execFlog g f s) := .next (lanes1_keepsShape (.refl _))

@[simp] theorem execFlog2_keepsShape : KeepsShape s (execFlog2 g f s) := .next (lanes1_keepsShape (.refl _))

@[simp] theorem execFsin_keepsShape : KeepsShape s (execFsin g f s) := .next (lanes1_keepsShape (.refl _))

@[simp] theorem execFcos_keepsShape : KeepsShape s (execFcos g f s) := .next (lanes1_keepsShape (.refl _))

@[simp] theorem execFtanh_keepsShape : KeepsShape s (execFtanh g f s) := .next (lanes1_keepsShape (.refl _))

@[simp] theorem execFsig_keepsShape : KeepsShape s (execFsig g f s) := .next (lanes1_keepsShape (.refl _))

@[simp] theorem execFerf_keepsShape : KeepsShape s (execFerf g f s) := .next (lanes1_keepsShape (.refl _))

@[simp] theorem execFcmp_keepsShape : KeepsShape s (execFcmp g f s) := .next (compareLanes_keepsShape (.refl _))

@[simp] theorem execIcmp_keepsShape : KeepsShape s (execIcmp g f s) := .next (compareLanes_keepsShape (.refl _))

@[simp] theorem execUcmp_keepsShape : KeepsShape s (execUcmp g f s) := .next (compareLanes_keepsShape (.refl _))

@[simp] theorem execSel_keepsShape : KeepsShape s (execSel g f s) :=
  .next (vecDo_keepsShape (.refl _) fun _ he => he.put (by simp [mergeLanes_length, he]))

@[simp] theorem execPand_keepsShape : KeepsShape s (execPand g f s) :=
  .next (vecDo_keepsShape (.refl _) fun _ he => he.setP)

@[simp] theorem execPor_keepsShape : KeepsShape s (execPor g f s) :=
  .next (vecDo_keepsShape (.refl _) fun _ he => he.setP)

@[simp] theorem execPnot_keepsShape : KeepsShape s (execPnot g f s) :=
  .next (vecDo_keepsShape (.refl _) fun _ he => he.setP)

@[simp] theorem execPlt_keepsShape : KeepsShape s (execPlt g f s) :=
  .next (vecDo_keepsShape (.refl _) fun _ he => he.setP)

@[simp] theorem execPcnt_keepsShape : KeepsShape s (execPcnt g f s) :=
  .next (vecDo_keepsShape (.refl _) fun _ he => he.setS)

@[simp] theorem execCvtif_keepsShape : KeepsShape s (execCvtif g f s) := .next (lanes1_keepsShape (.refl _))

@[simp] theorem execCvtfi_keepsShape : KeepsShape s (execCvtfi g f s) := .next (lanes1_keepsShape (.refl _))

@[simp] theorem execVscale_keepsShape : KeepsShape s (execVscale g f s) :=
  .next (vecDo_keepsShape (.refl _) fun _ he => he.put (by simp [he]))

@[simp] theorem execCvtfh_keepsShape : KeepsShape s (execCvtfh g f s) := .next (lanes1_keepsShape (.refl _))

@[simp] theorem execCvthf_keepsShape : KeepsShape s (execCvthf g f s) := .next (lanes1_keepsShape (.refl _))

theorem chunksOf_flatten {α : Type} (n k : Nat) (l : List α) : (chunksOf n k l).flatten = l.take (n * k) := by
  induction k generalizing l with
  | zero => simp [chunksOf]
  | succ k ih => rw [chunksOf, List.flatten_cons, ih, Nat.mul_succ, Nat.add_comm, List.take_add]

theorem chunksOf_length {α : Type} (n k : Nat) (l : List α) : (chunksOf n k l).length = k := by
  induction k generalizing l with
  | zero => rfl
  | succ k ih => simp [chunksOf, ih]

/-- A block has one code for each of its values. -/
@[simp] theorem quantBlock_codes_length {fmt eT vals} : (quantBlock fmt eT vals).2.1.length = vals.length := by
  simp [quantBlock]

/-- Blocks of equally many results give equally many results together. -/
theorem flatten_map_length {α β : Type} {g : List α → List β} (h : ∀ c, (g c).length = c.length) (cs : List (List α)) :
    (cs.map g).flatten.length = cs.flatten.length := by
  simp [List.length_flatten, List.map_map, Function.comp_def, h]

@[simp] theorem execQblk_keepsShape : KeepsShape s (execQblk g f s) := by
  refine .next (setVec_keepsShape (by simp) fun hs => ?_)
  have he (t : State) (ht : t.outline = s.outline) : (vecAt t g).shaped := vecAt_shaped (ht ▸ hs) g
  refine VecEngine.shaped.congr (VecEngine.shaped.setS (VecEngine.shaped.put (he _ (by simp)) ?_)) rfl rfl rfl rfl
  rw [List.map_map, flatten_map_length fun c => by simp, chunksOf_flatten]
  simp [he s rfl]

@[simp] theorem execDqblk_keepsShape : KeepsShape s (execDqblk g f s) :=
  .next (vecDo_keepsShape (.refl _) fun _ he => he.put (by simp [he]))

@[simp] theorem execPack_keepsShape : KeepsShape s (execPack g f s) :=
  .next (vecDo_keepsShape (.refl _) fun _ he => he.put (by simp [chunksOf_length]; omega))

theorem unpacked_length {w : Nat} {l : List Word} {g : Word → Nat → Word} (hl : l.length = 256)
    (hw : w = 4 ∨ w = 8 ∨ w = 16) :
    ((l.take (256 / (32 / w))).map fun a => (List.range (32 / w)).map (g a)).flatten.length = 256 := by
  obtain rfl | rfl | rfl := hw <;> simp [List.length_flatten, hl]

theorem packWidth_cases (n : Nat) : packWidth n = 4 ∨ packWidth n = 8 ∨ packWidth n = 16 := by
  unfold packWidth; split <;> simp

@[simp] theorem execUnpack_keepsShape : KeepsShape s (execUnpack g f s) :=
  .next (vecDo_keepsShape (.refl _) fun _ he =>
    he.put (unpacked_length (g := fun _ _ => _) (he.vreg_length f.a) (packWidth_cases f.imm.toNat)).ge)

@[simp] theorem execRsum_keepsShape : KeepsShape s (execRsum g f s) := .next (reduceLanes_keepsShape (.refl _))

@[simp] theorem execRmax_keepsShape : KeepsShape s (execRmax g f s) := .next (reduceLanes_keepsShape (.refl _))

@[simp] theorem execRiadd_keepsShape : KeepsShape s (execRiadd g f s) := .next (reduceLanes_keepsShape (.refl _))

@[simp] theorem execRimax_keepsShape : KeepsShape s (execRimax g f s) := .next (reduceLanes_keepsShape (.refl _))

theorem scanRound_length {n : Nat} {l : List Word} : (scanRound n l).length = l.length := by
  simp [scanRound]; omega

theorem scanRounds_length {rounds : List Nat} {l : List Word} :
    (rounds.foldl (fun l r => scanRound (2 ^ r) l) l).length = l.length := by
  induction rounds generalizing l with
  | nil => rfl
  | cons r rounds ih => rw [List.foldl_cons, ih, scanRound_length]

@[simp] theorem execScan_keepsShape : KeepsShape s (execScan g f s) :=
  .next (vecDo_keepsShape (.refl _) fun _ he => he.put (by
    simp only [scanRounds_length, fillInactive_length, he, VecEngine.shaped.vreg_length, le_refl]))

@[simp] theorem execShuf_keepsShape : KeepsShape s (execShuf g f s) :=
  .next (vecDo_keepsShape (.refl _) fun _ he => he.put (by simp [he]))

@[simp] theorem execRot_keepsShape : KeepsShape s (execRot g f s) :=
  .next (vecDo_keepsShape (.refl _) fun _ he => he.put (by simp [he]; omega))

@[simp] theorem execLane_keepsShape : KeepsShape s (execLane g f s) :=
  .next (vecDo_keepsShape (.refl _) fun _ he => he.setS)

@[simp] theorem execVins_keepsShape : KeepsShape s (execVins g f s) := by
  refine .next (vecDo_keepsShape (.refl _) fun e he => ?_)
  dsimp only; split
  · exact he.setV (by simp [he])
  · split
    · exact he.setV (by simp [he])
    · exact he

@[simp] theorem execVld_keepsShape : KeepsShape s (execVld g f s) := by
  unfold execVld; dsimp only; split
  · refine .next (vecDo_keepsShape (by simp) fun e he => ?_)
    have hz : (e.put f zeroLanes).shaped := he.put List.length_replicate.ge
    split
    · exact hz.putLanes List.length_replicate.ge
    · exact hz
  · rename_i w j _
    refine .next (vecDo_keepsShape (by simp) fun e he => ?_)
    have hl : (e.put f ((loadSlot w j).map fun x => x.1)).shaped := he.put (by simp [loadSlot])
    split
    · exact hl.putLanes (by simp [loadSlot])
    · exact hl

@[simp] theorem execVst_keepsShape : KeepsShape s (execVst g f s) := by
  unfold execVst; dsimp only; split
  · exact .next (vecDo_keepsShape (by simp) fun _ he => he)
  · exact .next (vecDo_keepsShape (storeSlot_keepsShape (.refl _)) fun _ he => he)

@[simp] theorem execLdq_keepsShape : KeepsShape s (execLdq g f s) := by
  unfold execLdq; dsimp only; split
  · exact .next (vecDo_keepsShape (by simp) fun _ he => he.put List.length_replicate.ge)
  · exact .next (vecDo_keepsShape (by simp) fun _ he => (he.put (by simp)).setS)

@[simp] theorem execStq_keepsShape : KeepsShape s (execStq g f s) := by
  unfold execStq; dsimp only; split
  · exact .next (vecDo_keepsShape (by simp) fun _ he => he)
  · exact .next (vecDo_keepsShape (recordStore_keepsShape (storeBlocks_keepsShape (.refl _))) fun _ he => he)

@[simp] theorem execLds_keepsShape : KeepsShape s (execLds g f s) :=
  .next (vecDo_keepsShape (.refl _) fun _ he => he.put (by simp))

theorem mem_scratchSet {l : List (Nat × Word)} {i v y} (h : y ∈ scratchSet l i v) : y = (i, v) ∨ y ∈ l := by
  induction l with
  | nil => grind [scratchSet]
  | cons x l ih => grind [scratchSet]

/-- A write leaves the scratch words in rising order. -/
theorem scratchSet_rising {l : List (Nat × Word)} {i v} (h : l.Pairwise fun x y => x.1 < y.1) :
    (scratchSet l i v).Pairwise fun x y => x.1 < y.1 := by
  induction l with
  | nil => simp only [scratchSet]; split <;> simp
  | cons x l ih =>
    obtain ⟨hx, hl⟩ := List.pairwise_cons.1 h
    simp only [scratchSet]
    split
    · split
      · exact h
      · refine List.pairwise_cons.2 ⟨fun y hy => ?_, h⟩
        obtain rfl | hy := List.mem_cons.1 hy
        · assumption
        · exact Nat.lt_trans ‹_› (hx y hy)
    · split
      · subst_vars
        split
        · exact hl
        · exact List.pairwise_cons.2 ⟨hx, hl⟩
      · refine List.pairwise_cons.2 ⟨fun y hy => ?_, ih hl⟩
        obtain rfl | hy := mem_scratchSet hy
        · exact Nat.lt_of_le_of_ne (Nat.le_of_not_lt ‹_›) (Ne.symm ‹_›)
        · exact hx y hy

theorem scratch_foldl_rising {α : Type} {f : List (Nat × Word) → α → List (Nat × Word)} {l : List (Nat × Word)}
    (hf : ∀ l x, (l.Pairwise fun x y => x.1 < y.1) → (f l x).Pairwise fun x y => x.1 < y.1)
    (h : l.Pairwise fun x y => x.1 < y.1) (xs : List α) : (xs.foldl f l).Pairwise fun x y => x.1 < y.1 := by
  induction xs generalizing l with
  | nil => exact h
  | cons x xs ih => exact ih (hf l x h)

theorem VecEngine.shaped.withScratch {e : VecEngine} (h : e.shaped) {l : List (Nat × Word)}
    (hl : (e.scratch.Pairwise fun x y => x.1 < y.1) → l.Pairwise fun x y => x.1 < y.1) :
    VecEngine.shaped { e with scratch := l } := by
  obtain ⟨hn, hv, hs, hp, hx⟩ := h
  exact ⟨hn, hv, hs, hp, hl hx⟩

@[simp] theorem execSts_keepsShape : KeepsShape s (execSts g f s) := by
  refine .next (vecDo_keepsShape (.refl _) fun e he => he.withScratch fun hx =>
    scratch_foldl_rising (fun l x hl => ?_) hx _)
  split
  · exact scratchSet_rising hl
  · split
    · exact scratchSet_rising hl
    · exact hl

@[simp] theorem execLdx_keepsShape : KeepsShape s (execLdx g f s) :=
  .next (vecDo_keepsShape (.refl _) fun _ he => he.put (by simp [he]))

@[simp] theorem execStx_keepsShape : KeepsShape s (execStx g f s) := by
  refine .next (vecDo_keepsShape (.refl _) fun e he => he.withScratch fun hx =>
    scratch_foldl_rising (fun l x hl => ?_) hx _)
  split
  · exact scratchSet_rising hl
  · exact hl

theorem ctrLanes_length {e : VecEngine} (he : e.shaped) : (ctrLanes e f).length = 256 := by simp [ctrLanes, he]

@[simp] theorem execCtr_keepsShape : KeepsShape s (execCtr g f s) :=
  .next (vecDo_keepsShape (.refl _) fun _ he => he.put (by simp [ctrLanes_length he]))

@[simp] theorem execCtr4_keepsShape : KeepsShape s (execCtr4 g f s) := by
  refine .next (vecDo_keepsShape (.refl _) fun e he => ?_)
  have hr (q : Quad → Word) : 256 ≤ ((ctrLanes e f).map q).length := by simp [ctrLanes_length he]
  exact (((he.putLanes (hr _)).putLanes (hr _)).putLanes (hr _)).putLanes (hr _)

@[simp] theorem execUnif_keepsShape : KeepsShape s (execUnif g f s) :=
  .next (vecDo_keepsShape (.refl _) fun _ he => he.put (by simp [ctrLanes_length he]))

end

end Sys2Proof.Machine
end

section
/-!
PROOFS. Operations that drop engines, make tables anew or run vector programs keep the shape.
-/

namespace Sys2Proof.Machine

variable {z : Outline}

/-! ### Vector programs and runs -/

theorem vecOp_keepsShape {op h} (e : vecOp op = some h) (g : Fin 128) (f : VFields) (s : State) :
    KeepsShape s (h g f s) := by
  unfold vecOp at e
  repeat' split at e
  all_goals cases e
  all_goals simp

theorem KeepsShape.orKeep {s : State} {o} (h : KeepsShape s o) : s.outline.Keeps (Outcome.orKeep s o).outline := by
  cases o with
  | next t => exact h t rfl
  | fault _ => exact .refl _
  | refused _ => exact .refl _

section
variable {s : State} (h : z.Keeps s.outline)
include h

theorem vecWord_keepsShape {g : Fin 128} {w} : z.Keeps (vecWord g w s).outline := by
  refine h.trans ?_
  unfold vecWord; split
  · exact execHdr_keepsShape.orKeep
  · split
    · exact (vecOp_keepsShape ‹_› g _ s).orKeep
    · exact vecDo_keepsShape (.refl _) fun _ he => he

theorem beginRun_keepsShape {g i r d q} : z.Keeps (beginRun s g i r d q).outline := by
  obtain ⟨hn, hv, -, hp, hx⟩ := VecEngine.shaped.default
  exact setVec_keepsShape h fun _ => ⟨hn, hv, by simp, hp, hx⟩

theorem endRun_keepsShape {i r d g} : z.Keeps (endRun i r d s g).outline := by
  refine keeps_filter_engines ?_ rfl rfl rfl rfl rfl rfl rfl rfl rfl rfl
  rw [outline_foldl]
  · exact h
  · intro t x
    split <;> simp

end

theorem runWords_keepsShape {s : State} {g p n} (h : z.Keeps s.outline) : z.Keeps (runWords g p n s).outline := by
  induction n generalizing s with
  | zero => exact h
  | succ n ih =>
    unfold runWords; split
    · exact h
    · exact ih (vecWord_keepsShape h)

theorem wholeRun_keepsShape {s : State} {g i r d q} (h : z.Keeps s.outline) : z.Keeps (wholeRun g i r d q s).outline :=
  endRun_keepsShape (runWords_keepsShape (beginRun_keepsShape h))

@[simp] theorem vecInstDo_keepsShape {s : State} {i r d} (h : z.Keeps s.outline) :
    z.Keeps (vecInstDo i r d s).outline := by
  refine keeps_foldl (fun t q => ?_) h _
  split
  · exact .refl _
  · exact wholeRun_keepsShape (.refl _)

/-! ### The running step -/

theorem startInstance_keepsShape {s : State} {r i d go} (hgo : ∀ r d (t : State), t.outline.Keeps (go r d t).outline)
    (h : z.Keeps s.outline) : z.Keeps (startInstance s r i d go).outline := by
  simp only [startInstance, markExecuted_outline]
  exact h.trans (by simpa using hgo _ d (readLens (setTag s _) _ i d).1)

@[simp] theorem onInstance_keepsShape {s : State} {i op go}
    (hgo : ∀ r d (t : State), t.outline.Keeps (go r d t).outline) (h : z.Keeps s.outline) :
    z.Keeps (onInstance s i op go).outline := by
  unfold onInstance; split
  · exact h
  · split
    · exact h
    · split
      · exact startInstance_keepsShape hgo h
      · exact h

theorem getD_outline {o : Option State} {s : State} (h : ∀ t, o = some t → t.outline = s.outline) :
    (o.getD s).outline = s.outline := by
  cases o with
  | none => rfl
  | some t => exact h t rfl

@[simp] theorem onCollective_keepsShape {s : State} {i op send go}
    (hsend : ∀ r d (t : State), (send r d t).outline = t.outline)
    (hgo : ∀ r d s t, go r d s = some t → t.outline = s.outline) (h : z.Keeps s.outline) :
    z.Keeps (onCollective i op send go s).outline := by
  unfold onCollective; split
  · exact h
  · split
    · exact h
    · split
      · exact h
      · dsimp only; split
        · rwa [hsend]
        · refine onInstance_keepsShape (fun r d t => ?_) (by rwa [hsend])
          rw [getD_outline (hgo r d t)]; exact .refl _

/-- A replay has the effect of each operation that it repeats; a segment within it is a shorter replay. -/
theorem replayInst_keepsShape {s : State} {n i r d} (h : z.Keeps s.outline) :
    z.Keeps (replayInst n i r d s).outline := by
  induction n generalizing z s i r d with
  | zero => exact h
  | succ n ih =>
    unfold replayInst; split
    · simpa using h
    · split <;> simpa using h
    · simpa using h
    · simpa using h
    · simpa using h
    · exact vecInstDo_keepsShape h
    · rwa [getD_outline fun _ => reduceDo_outline]
    · rwa [getD_outline fun _ => gatherDo_outline]
    · simpa using h
    · simpa using h
    · refine keeps_foldl (fun t x => ih (by simp)) ?_ _
      rw [outline_foldl]
      · exact h
      · intro t x; simp
    · exact h

@[simp] theorem recomputeDo_keepsShape {s : State} {i r d} (h : z.Keeps s.outline) :
    z.Keeps (recomputeDo i r d s).outline :=
  replayInst_keepsShape h

/-! ### Fatal errors, resets and the loss of the link -/

section
variable {s : State}

@[simp] theorem stopIslands_keepsShape (h : z.Keeps s.outline) : z.Keeps (stopIslands s).outline :=
  h.trans (keeps_of_subset rfl rfl rfl rfl rfl rfl (by simp [stopIslands]) rfl rfl rfl (List.nil_subset _))

@[simp] theorem fatalWith_keepsShape {answer severity code source p0 p1 p2 p3} (h : z.Keeps s.outline) :
    z.Keeps (fatalWith answer severity s code source p0 p1 p2 p3).outline := by
  unfold fatalWith; split
  · exact h
  · exact h
  · simp [h]

@[simp] theorem fatalAs_keepsShape {severity code source p0 p1 p2 p3} (h : z.Keeps s.outline) :
    z.Keeps (fatalAs severity s code source p0 p1 p2 p3).outline := fatalWith_keepsShape h

@[simp] theorem fatal_keepsShape {code source p0 p1 p2 p3} (h : z.Keeps s.outline) :
    z.Keeps (fatal s code source p0 p1 p2 p3).outline := fatalWith_keepsShape h

/-- The complete reset makes the tables anew, but for the configuration and the flash, which it keeps, and
no engine stays. -/
@[simp] theorem deviceReset_keepsShape (h : z.Keeps s.outline) : z.Keeps (deviceReset s).outline := by
  refine ⟨fun hz => ?_, fun _ x hx => absurd hx List.not_mem_nil⟩
  obtain ⟨-, hcfg, -, -, -, -, -, -, hslots, hmaps⟩ := h.tables hz
  refine ⟨List.length_replicate, hcfg, ?_, List.length_replicate, List.length_replicate, rfl, List.length_replicate,
    List.length_replicate, hslots, hmaps⟩
  rw [← hmaps]; exact List.length_map _

@[simp] theorem loseLink_keepsShape {cause} (h : z.Keeps s.outline) : z.Keeps (loseLink s cause).outline := by
  simp [loseLink, h]

@[simp] theorem resetNow_keepsShape {cause} (h : z.Keeps s.outline) : z.Keeps (resetNow s cause).outline := by
  simp [resetNow, h]

@[simp] theorem powerDown_outline : (powerDown s).outline = (deviceReset s).outline := rfl

@[simp] theorem stageDown_outline {cause mv} : (stageDown s cause mv).outline = (deviceReset s).outline := rfl

@[simp] theorem loseSapling_keepsShape {die cause index} (h : z.Keeps s.outline) :
    z.Keeps (loseSapling s die cause index).outline := fatalAs_keepsShape h

@[simp] theorem lossFatal_keepsShape {island} (h : z.Keeps s.outline) : z.Keeps (lossFatal s island).outline := by
  simp [lossFatal, h]

/-! ### Bursts and faults of the hardware -/

@[simp] theorem readBursts_keepsShape {agent l wrong} (h : z.Keeps s.outline) :
    z.Keeps (readBursts s agent l wrong).1.outline := by
  induction l generalizing s wrong with
  | nil => exact h
  | cons e l ih =>
    unfold readBursts; split
    · exact h
    · split
      · exact ih h
      · split
        · exact ih (by simpa using h)
        · exact fatal_keepsShape h

@[simp] theorem meetFault_keepsShape {index f} (h : z.Keeps s.outline) : z.Keeps (meetFault index s f).outline := by
  unfold meetFault; split
  · exact h
  · split
    all_goals simp [h]

@[simp] theorem deviceAccess_keepsShape {a acc errs} (h : z.Keeps s.outline) :
    z.Keeps (deviceAccess s a acc errs).outline := by
  unfold deviceAccess; split
  · simpa using h
  · cases acc <;> simp [h]

@[simp] theorem mappedAccess_keepsShape {i acc errs} (h : z.Keeps s.outline) :
    z.Keeps (mappedAccess s i acc errs).outline := by
  unfold mappedAccess; dsimp only
  split <;> simp [h]

/-! ### Groves -/

@[simp] theorem retireGrove_keepsShape {g} (h : z.Keeps s.outline) : z.Keeps (retireGrove s g).outline := by
  simp [retireGrove, h]

@[simp] theorem takeOver_keepsShape {g spare step} (h : z.Keeps s.outline) :
    z.Keeps (takeOver s g spare step).outline := by
  simp [takeOver, h]

@[simp] theorem settleGrove_keepsShape {step g} (h : z.Keeps s.outline) : z.Keeps (settleGrove step s g).outline := by
  unfold settleGrove; split
  · exact takeOver_keepsShape h
  · simp [h]

@[simp] theorem retireIdle_keepsShape {x} (h : z.Keeps s.outline) : z.Keeps (retireIdle s x).outline := by
  simp [retireIdle, h]

@[simp] theorem groveBoundary_keepsShape {step} (h : z.Keeps s.outline) : z.Keeps (groveBoundary s step).outline := by
  have settled := keeps_foldl (fun t g => settleGrove_keepsShape (step := step) (g := g) (.refl t.outline)) h
    (waitingGroves s)
  have retired := keeps_foldl (fun t x => retireIdle_keepsShape (x := x) (.refl t.outline)) settled
  simpa [groveBoundary] using retired _

@[simp] theorem loseGrove_keepsShape {g cause} (h : z.Keeps s.outline) : z.Keeps (loseGrove s g cause).outline := by
  unfold loseGrove; split
  · exact takeOver_keepsShape h
  · simp [h]

@[simp] theorem arrayCheck_keepsShape {g place row column trials} (h : z.Keeps s.outline) :
    z.Keeps (arrayCheck s g place row column trials).outline := by
  unfold arrayCheck; dsimp only
  repeat' split
  all_goals simp [h]

@[simp] theorem loseSram_keepsShape {i} (h : z.Keeps s.outline) : z.Keeps (loseSram s i).outline := by
  simp [loseSram, h]

/-! ### Ports, moves and the end of a step -/

@[simp] theorem failPort_keepsShape {p env} (h : z.Keeps s.outline) : z.Keeps (failPort s p env).outline := by
  simp [failPort, h]

@[simp] theorem moveIn_keepsShape {r o x} (h : z.Keeps s.outline) : z.Keeps (moveIn s r o x).outline := by
  unfold moveIn; dsimp only; split <;> simp [h]

@[simp] theorem derivedDo_keepsShape {kind n x r} (h : z.Keeps s.outline) :
    z.Keeps (derivedDo kind n x r s).outline := by
  unfold derivedDo; dsimp only
  repeat' split
  all_goals simp [h]

@[simp] theorem boundary_keepsShape {step} (h : z.Keeps s.outline) : z.Keeps (boundary s step).outline := by
  simp [boundary, h]

@[simp] theorem finishStep_keepsShape {r} (h : z.Keeps s.outline) : z.Keeps (finishStep s r).outline := by
  have emptied (t : State) (ht : z.Keeps t.outline) {sc fa} (ha : fa.ports.length = t.fabric.ports.length) :
      z.Keeps ({ t with sched := sc, vec := [], fabric := fa } : State).outline :=
    ht.trans (keeps_of_subset rfl rfl rfl rfl rfl rfl rfl rfl rfl ha (List.nil_subset _))
  refine boundary_keepsShape ?_
  simp only [outline_ite, deviceEvent_outline, ite_self, announceNext_outline, trimRecords_outline]
  exact emptied _ (by simp [h]) rfl

@[simp] theorem accessEffect_keepsShape {cause address tr} (h : z.Keeps s.outline) :
    z.Keeps (accessEffect s cause address tr).outline := by
  unfold accessEffect; cases tr <;> dsimp only
  case sluice => split <;> simp [h]
  case transientTile => split <;> simp [h]
  case persistentTile => simp [h]
  case t3Write => simp [h]
  case spill => simp [h]
  case hostCopy => split <;> simp [h]
  case image => split <;> simp [h]

/-! ### Start-up, tests and shut-down -/

/-- Start-up takes as many groves as the repair map of the flash lists (R374 step 4). -/
theorem loadFlash_outline : (loadFlash s).outline = { s.outline with groves := s.flash.groves.length } := by
  unfold loadFlash; dsimp only
  split <;> split <;> simp [State.outline, loadGroves]

@[simp] theorem loadFlash_keepsShape (h : z.Keeps s.outline) : z.Keeps (loadFlash s).outline := by
  rw [loadFlash_outline]
  refine ⟨fun hz => ?_, h.engines⟩
  obtain ⟨hmbx, hcfg, -, hrest⟩ := h.tables hz
  have ⟨_, _, _, _, _, _, hmaps⟩ := hrest
  exact ⟨hmbx, hcfg, hmaps, hrest⟩

@[simp] theorem bootDo_keepsShape {env} (h : z.Keeps s.outline) : z.Keeps (bootDo s env).outline := by
  unfold bootDo; dsimp only; split
  · simpa using h
  · simp [h]

@[simp] theorem reinitialise_keepsShape {i} (h : z.Keeps s.outline) : z.Keeps (reinitialise s i).outline := by
  simp [reinitialise, h]

@[simp] theorem testIsland_keepsShape {sigs source i} (h : z.Keeps s.outline) :
    z.Keeps (testIsland sigs source s i).outline := by
  simp [testIsland, h]

@[simp] theorem shutTests_keepsShape {sigs} (h : z.Keeps s.outline) : z.Keeps (shutTests s sigs).outline := by
  unfold shutTests; split
  · exact h
  · simp only [outline_mk]
    exact keeps_foldl (fun t i => testIsland_keepsShape (.refl _)) h _

@[simp] theorem shutDown_keepsShape {sigs ms} (h : z.Keeps s.outline) : z.Keeps (shutDown s sigs ms).outline := by
  simp only [shutDown, outline_mk]
  refine deviceReset_keepsShape ?_
  split <;> simp [h]

end

end Sys2Proof.Machine
end

section
/-!
PROOFS. One lemma for each command, and the step (O4).
-/

namespace Sys2Proof.Machine

variable {z : Outline}

/-! ### Commands of the mailboxes and of SPDM -/

section
variable {s : State} (h : z.Keeps s.outline)
include h

/-- A command of a mailbox does nothing, refuses, or goes on. -/
theorem command_keepsShape {α : Type} {m op} {p : Pay α} {go : Work → α → State}
    (hgo : ∀ w x, z.Keeps (go w x).outline) : z.Keeps (command s m op p go).outline := by
  unfold command; split
  · exact h
  · split
    · simpa using h
    · exact hgo _ _

theorem commandBare_keepsShape {m op} {go : Work → State} (hgo : ∀ w, z.Keeps (go w).outline) :
    z.Keeps (commandBare s m op go).outline := by
  unfold commandBare; split
  · exact h
  · split
    · exact hgo _
    · simpa using h

theorem kvCommand_keepsShape {m op p} : z.Keeps (kvCommand s m op p).outline :=
  command_keepsShape h fun w k => by simp [h]

@[simp] theorem onSession_keepsShape {tr} {go : State → State} (hgo : z.Keeps (go s).outline) :
    z.Keeps (onSession s tr go).outline := by
  simp [onSession, h, hgo]

@[simp] theorem withKey_keepsShape {go : State → State} (hgo : z.Keeps (go s).outline) :
    z.Keeps (withKey s go).outline := by
  simp [withKey, h, hgo]

@[simp] theorem withPresence_keepsShape {code} {go : State → State} (hgo : z.Keeps (go (countClassP s)).outline) :
    z.Keeps (withPresence s code go).outline := by
  simp [withPresence, h, hgo]

end

/-! ### Matrix products -/

@[simp] theorem execMatmul_keepsShape {s : State} {i} : KeepsShape s (execMatmul i s) := by simp [execMatmul]

/-! ### Convolutions -/

@[simp] theorem execConv_keepsShape {s : State} {i} : KeepsShape s (execConv i s) := by
  unfold execConv
  repeat' split
  all_goals simp

@[simp] theorem execFilterLoad_keepsShape {s : State} {i} : KeepsShape s (execFilterLoad i s) := by
  unfold execFilterLoad; dsimp only
  repeat' split
  all_goals simp

/-! ### Attention -/

@[simp] theorem execAttnScore_keepsShape {s : State} {i} : KeepsShape s (execAttnScore i s) := by simp [execAttnScore]

@[simp] theorem execAttnApply_keepsShape {s : State} {i} : KeepsShape s (execAttnApply i s) := by simp [execAttnApply]

@[simp] theorem execKvAppend_keepsShape {s : State} {i} : KeepsShape s (execKvAppend i s) := by
  unfold execKvAppend; dsimp only; split <;> simp

@[simp] theorem execKvSelect_keepsShape {s : State} {i} : KeepsShape s (execKvSelect i s) := by simp [execKvSelect]

/-! ### Vector runs -/

@[simp] theorem execVec_keepsShape {s : State} {i} : KeepsShape s (execVec i s) := by simp [execVec]

@[simp] theorem execVecRun_keepsShape {s : State} {g i q part} : KeepsShape s (execVecRun g i q part s) := by
  unfold execVecRun; split
  · simp
  · split
    · simp
    · dsimp only; split
      · cases part
        case begin => exact .next (beginRun_keepsShape (by simp))
        case finish =>
          dsimp only; split
          · simpa using endRun_keepsShape (by simp)
          · simp
        case whole => simpa using wholeRun_keepsShape (by simp)
      · simp

/-! ### Collectives -/

@[simp] theorem execReduce_keepsShape {s : State} {i} : KeepsShape s (execReduce i s) :=
  .next (onCollective_keepsShape (fun _ _ _ => reduceSend_outline) (fun _ _ _ _ => reduceDo_outline) (.refl _))

@[simp] theorem execGather_keepsShape {s : State} {i} : KeepsShape s (execGather i s) :=
  .next (onCollective_keepsShape (fun _ _ _ => gatherSend_outline) (fun _ _ _ _ => gatherDo_outline) (.refl _))

@[simp] theorem execBarrier_keepsShape {s : State} {i} : KeepsShape s (execBarrier i s) := by
  unfold execBarrier
  repeat' split
  all_goals simp

@[simp] theorem execScaleSync_keepsShape {s : State} {i parts} : KeepsShape s (execScaleSync i parts s) := by
  unfold execScaleSync; dsimp only
  repeat' split
  all_goals simp

@[simp] theorem execNormCollective_keepsShape {s : State} {others} : KeepsShape s (execNormCollective others s) := by
  unfold execNormCollective; dsimp only; split <;> simp

@[simp] theorem execVersionConfirm_keepsShape {s : State} {mb answers} :
    KeepsShape s (execVersionConfirm mb answers s) := by
  unfold execVersionConfirm; dsimp only; split <;> simp

/-! ### Moves between the tiers -/

@[simp] theorem execMove_keepsShape {s : State} {i} : KeepsShape s (execMove i s) := by simp [execMove]

@[simp] theorem execDerivedMove_keepsShape {s : State} {kind object arrival} :
    KeepsShape s (execDerivedMove kind object arrival s) := by
  unfold execDerivedMove; split <;> simp

@[simp] theorem execSluiceTake_keepsShape {s : State} {i} : KeepsShape s (execSluiceTake i s) := by
  unfold execSluiceTake
  repeat' split
  all_goals simp

@[simp] theorem execRecompute_keepsShape {s : State} {i} : KeepsShape s (execRecompute i s) := by
  unfold execRecompute; split <;> simp

/-! ### Updates -/

@[simp] theorem execUpdate_keepsShape {s : State} {i} : KeepsShape s (execUpdate i s) := by simp [execUpdate]

/-! ### Admission of steps -/

@[simp] theorem execSubmit_keepsShape {s : State} {m} : KeepsShape s (execSubmit m s) := by
  unfold execSubmit; split <;> simp

@[simp] theorem execReadmission_keepsShape {s : State} : KeepsShape s (execReadmission s) := by
  unfold execReadmission; split <;> simp

/-! ### Firmware slots -/

@[simp] theorem execFwStage_keepsShape {s : State} {m p} : KeepsShape s (execFwStage m p s) :=
  .next (command_keepsShape (.refl _) fun _ _ => by simp)

@[simp] theorem execFwInstall_keepsShape {s : State} {m p} : KeepsShape s (execFwInstall m p s) := by
  refine .next (command_keepsShape (.refl _) fun w x => ?_)
  dsimp only
  repeat' split
  all_goals simp

@[simp] theorem execFwActivate_keepsShape {s : State} {m p} : KeepsShape s (execFwActivate m p s) := by
  have activated (t : State) (k : Nat) (clear : State → State) (hc : (clear t).outline = t.outline) :
      (execFwActivate.activate m t k clear).outline = t.outline := by
    unfold execFwActivate.activate; split <;> simp [hc]
  refine .next (command_keepsShape (.refl _) fun w k => ?_)
  dsimp only
  repeat' split
  all_goals simp [activated]

@[simp] theorem execFwQuery_keepsShape {s : State} {m} : KeepsShape s (execFwQuery m s) :=
  .next (commandBare_keepsShape (.refl _) fun _ => by simp)

/-! ### Groves and islands -/

@[simp] theorem execArrayMismatch_keepsShape {s : State} {g where_ row error} :
    KeepsShape s (execArrayMismatch g where_ row error s) := by
  unfold execArrayMismatch
  repeat' split
  all_goals simp

@[simp] theorem execSpareWarm_keepsShape {s : State} {g} : KeepsShape s (execSpareWarm g s) := by simp [execSpareWarm]

@[simp] theorem execSaplingMismatch_keepsShape {s : State} {die position group index error} :
    KeepsShape s (execSaplingMismatch die position group index error s) := by
  unfold execSaplingMismatch; dsimp only
  repeat' split
  all_goals simp

@[simp] theorem execIslandSleep_keepsShape {s : State} {island _gap _sramNeeded _busyInGap} :
    KeepsShape s (execIslandSleep island _gap _sramNeeded _busyInGap s) := by simp [execIslandSleep]

@[simp] theorem execIslandWake_keepsShape {s : State} {island} :
    KeepsShape s (execIslandWake island s) := by simp [execIslandWake]

/-! ### The key-value pool -/

@[simp] theorem execKvClose_keepsShape {s : State} {m p} :
    KeepsShape s (execKvClose m p s) :=
  .next (kvCommand_keepsShape (.refl _))

@[simp] theorem execKvPin_keepsShape {s : State} {m p} :
    KeepsShape s (execKvPin m p s) :=
  .next (kvCommand_keepsShape (.refl _))

@[simp] theorem execKvUnpin_keepsShape {s : State} {m p} :
    KeepsShape s (execKvUnpin m p s) :=
  .next (kvCommand_keepsShape (.refl _))

@[simp] theorem execSpillRead_keepsShape {s : State} {m p} : KeepsShape s (execSpillRead m p s) := by
  refine .next (command_keepsShape (.refl _) fun w x => ?_)
  repeat' split
  all_goals simp

/-! ### Fabric ports -/

@[simp] theorem execFlitSend_keepsShape {s : State} {port cls last payload} :
    KeepsShape s (execFlitSend port cls last payload s) := by simp [execFlitSend]

@[simp] theorem execFlitReceive_keepsShape {s : State} {port flit fecOk} :
    KeepsShape s (execFlitReceive port flit fecOk s) := by simp [execFlitReceive]

@[simp] theorem execRetryRequest_keepsShape {s : State} {port seq} :
    KeepsShape s (execRetryRequest port seq s) := by simp [execRetryRequest]

@[simp] theorem execPortSilence_keepsShape {s : State} {port} :
    KeepsShape s (execPortSilence port s) := by simp [execPortSilence]

@[simp] theorem execPortLinkUp_keepsShape {s : State} {port credits} :
    KeepsShape s (execPortLinkUp port credits s) := by simp [execPortLinkUp]

@[simp] theorem execManifestReceive_keepsShape {s : State} {port far lendGib} :
    KeepsShape s (execManifestReceive port far lendGib s) := by
  unfold execManifestReceive; dsimp only
  repeat' split
  all_goals simp

@[simp] theorem execPortFailed_keepsShape {s : State} {port env} :
    KeepsShape s (execPortFailed port env s) := by simp [execPortFailed]

@[simp] theorem execFailoverExchange_keepsShape {s : State} {port device env} :
    KeepsShape s (execFailoverExchange port device env s) := by simp [execFailoverExchange]

@[simp] theorem execDrillPortDownEnd_keepsShape {s : State} {port} : KeepsShape s (execDrillPortDownEnd port s) := by
  unfold execDrillPortDownEnd; split <;> simp

@[simp] theorem execChunkReceive_keepsShape {s : State} {h data} :
    KeepsShape s (execChunkReceive h data s) := by simp [execChunkReceive]

@[simp] theorem execChunkAck_keepsShape {s : State} {h} : KeepsShape s (execChunkAck h s) := by simp [execChunkAck]

@[simp] theorem execTierLending_keepsShape {s : State} {port op} : KeepsShape s (execTierLending port op s) := by
  unfold execTierLending; dsimp only
  repeat' split
  all_goals simp

@[simp] theorem execDrillStart_keepsShape {s : State} {m} : KeepsShape s (execDrillStart m s) :=
  .next (commandBare_keepsShape (.refl _) fun _ => by simp)

@[simp] theorem execDrillStop_keepsShape {s : State} {m} : KeepsShape s (execDrillStop m s) :=
  .next (commandBare_keepsShape (.refl _) fun _ => by simp)

@[simp] theorem execPortStatus_keepsShape {s : State} {m p} : KeepsShape s (execPortStatus m p s) :=
  .next (command_keepsShape (.refl _) fun _ _ => by simp)

/-! ### Jobs -/

@[simp] theorem execJobOpen_keepsShape {s : State} {m p} : KeepsShape s (execJobOpen m p s) :=
  .next (command_keepsShape (.refl _) fun _ _ => by simp)

@[simp] theorem execJoin_keepsShape {s : State} {m p peers} : KeepsShape s (execJoin m p peers s) := by
  refine .next (command_keepsShape (.refl _) fun w x => ?_)
  dsimp only
  repeat' split
  all_goals simp

@[simp] theorem execLeave_keepsShape {s : State} {m p} : KeepsShape s (execLeave m p s) := by
  refine .next (command_keepsShape (.refl _) fun w x => ?_)
  split <;> simp

@[simp] theorem execJobOpenCompare_keepsShape {s : State} {device box shoring} :
    KeepsShape s (execJobOpenCompare device box shoring s) := by
  unfold execJobOpenCompare; dsimp only; split <;> simp

@[simp] theorem execJobStepQuery_keepsShape {s : State} {job device box} :
    KeepsShape s (execJobStepQuery job device box s) := by
  unfold execJobStepQuery; dsimp only; split <;> simp

@[simp] theorem execMemberQuery_keepsShape {s : State} {_job device} :
    KeepsShape s (execMemberQuery _job device s) := by simp [execMemberQuery]

@[simp] theorem execStagePlanPublish_keepsShape {s : State} {job stage times} :
    KeepsShape s (execStagePlanPublish job stage times s) := by simp [execStagePlanPublish]

@[simp] theorem execEntryRoundMessage_keepsShape {s : State} {job step parts waitNs} :
    KeepsShape s (execEntryRoundMessage job step parts waitNs s) := by
  unfold execEntryRoundMessage; dsimp only
  repeat' split
  all_goals simp

@[simp] theorem execVersionConfirmRequest_keepsShape {s : State} {device ctx mb object version} :
    KeepsShape s (execVersionConfirmRequest device ctx mb object version s) := by
  unfold execVersionConfirmRequest; dsimp only; split <;> simp

/-! ### Shoring -/

@[simp] theorem execConfigure_keepsShape {s : State} {m agree} : KeepsShape s (execConfigure m agree s) := by
  unfold execConfigure; dsimp only
  repeat' split
  all_goals simp

@[simp] theorem execSecuringAnnounce_keepsShape {s : State} {job step} :
    KeepsShape s (execSecuringAnnounce job step s) := by
  unfold execSecuringAnnounce; split <;> simp

@[simp] theorem execReencodingAnnounce_keepsShape {s : State} {job step} :
    KeepsShape s (execReencodingAnnounce job step s) := by
  unfold execReencodingAnnounce
  repeat' split
  all_goals simp

@[simp] theorem execSecuring_keepsShape {s : State} {job arrival hostOk} :
    KeepsShape s (execSecuring job arrival hostOk s) := by
  unfold execSecuring; dsimp only
  repeat' split
  all_goals simp

@[simp] theorem execMemberFailed_keepsShape {s : State} {job device answered} :
    KeepsShape s (execMemberFailed job device answered s) := by simp [execMemberFailed]

@[simp] theorem execLeaveNotice_keepsShape {s : State} {job device} :
    KeepsShape s (execLeaveNotice job device s) := by simp [execLeaveNotice]

@[simp] theorem execFailureAnnounce_keepsShape {s : State} {job device fetched us} :
    KeepsShape s (execFailureAnnounce job device fetched us s) := by
  unfold execFailureAnnounce; dsimp only
  repeat' split
  all_goals simp

@[simp] theorem execRestore_keepsShape {s : State} {m p copy} : KeepsShape s (execRestore m p copy s) := by
  refine .next (command_keepsShape (.refl _) fun w x => ?_)
  dsimp only
  repeat' split
  all_goals simp

@[simp] theorem execShoringStatus_keepsShape {s : State} {m p} : KeepsShape s (execShoringStatus m p s) := by
  refine .next (command_keepsShape (.refl _) fun w x => ?_)
  dsimp only; split <;> simp

/-! ### Configuration sets -/

@[simp] theorem execConfigStage_keepsShape {s : State} {m p} : KeepsShape s (execConfigStage m p s) := by
  unfold execConfigStage
  repeat' split
  all_goals simp

@[simp] theorem execConfigCommit_keepsShape {s : State} {m p} : KeepsShape s (execConfigCommit m p s) := by
  refine .next (command_keepsShape (.refl _) fun w i => ?_)
  dsimp only
  repeat' split
  all_goals simp

@[simp] theorem execConfigRead_keepsShape {s : State} {m p} : KeepsShape s (execConfigRead m p s) :=
  .next (command_keepsShape (.refl _) fun _ _ => by simp)

@[simp] theorem execConfigDiscard_keepsShape {s : State} {m p} : KeepsShape s (execConfigDiscard m p s) :=
  .next (command_keepsShape (.refl _) fun _ _ => by simp)

/-! ### Steps -/

@[simp] theorem execStepStart_keepsShape {s : State} : KeepsShape s (execStepStart s) := by
  unfold execStepStart; dsimp only; split <;> simp

@[simp] theorem execContextSwitch_keepsShape {s : State} : KeepsShape s (execContextSwitch s) := by
  unfold execContextSwitch; dsimp only; split <;> simp

@[simp] theorem execInstanceComplete_keepsShape {s : State} {k} : KeepsShape s (execInstanceComplete k s) := by
  unfold execInstanceComplete; split
  · simp
  · have met := keeps_foldl (fun t f => meetFault_keepsShape (index := k.inst.index) (f := f) (.refl t.outline))
      (.refl s.outline) k.met
    dsimp only; split
    · simp
    · split
      · exact .next met
      · rw [keepsShape_done, setRun_outline]
        split
        · simpa using met
        · exact met

@[simp] theorem execStepComplete_keepsShape {s : State} : KeepsShape s (execStepComplete s) := by
  unfold execStepComplete; split <;> simp

/-! ### Stacked memory -/

@[simp] theorem execPatrolScrubSlice_keepsShape {s : State} {stack errs} :
    KeepsShape s (execPatrolScrubSlice stack errs s) := by simp [execPatrolScrubSlice]

@[simp] theorem execStackStatus_keepsShape {s : State} {m p} : KeepsShape s (execStackStatus m p s) :=
  .next (command_keepsShape (.refl _) fun _ _ => by simp)

@[simp] theorem execMargin_keepsShape {s : State} {m p windows} : KeepsShape s (execMargin m p windows s) := by
  refine .next (command_keepsShape (.refl _) fun w x => ?_)
  dsimp only; split <;> simp

/-! ### Windows of the host -/

@[simp] theorem execRegisterWrite_keepsShape {s : State} {offset data} :
    KeepsShape s (execRegisterWrite offset data s) := by
  unfold execRegisterWrite; dsimp only
  repeat' split
  all_goals simp

@[simp] theorem execTimeLoRead_keepsShape {s : State} : KeepsShape s (execTimeLoRead s) := by simp [execTimeLoRead]

@[simp] theorem execSluicePiWrite_keepsShape {s : State} {st v} :
    KeepsShape s (execSluicePiWrite st v s) := by simp [execSluicePiWrite]

@[simp] theorem execAditAccess_keepsShape {s : State} {offset acc errs} :
    KeepsShape s (execAditAccess offset acc errs s) := by simp [execAditAccess]

@[simp] theorem execFullMapAccess_keepsShape {s : State} {offset acc errs} :
    KeepsShape s (execFullMapAccess offset acc errs s) := by simp [execFullMapAccess]

@[simp] theorem execPlacementAccess_keepsShape {s : State} {offset acc} :
    KeepsShape s (execPlacementAccess offset acc s) := by simp [execPlacementAccess]

@[simp] theorem execConfigRequest_keepsShape {s : State} {req} :
    KeepsShape s (execConfigRequest req s) := by simp [execConfigRequest]

@[simp] theorem execUnsupportedRequest_keepsShape {s : State} :
    KeepsShape s (execUnsupportedRequest s) := by simp [execUnsupportedRequest]

@[simp] theorem execD3hotEntry_keepsShape {s : State} : KeepsShape s (execD3hotEntry s) := by simp [execD3hotEntry]

@[simp] theorem execD0Return_keepsShape {s : State} : KeepsShape s (execD0Return s) := by simp [execD0Return]

@[simp] theorem execBusMasterDisable_keepsShape {s : State} :
    KeepsShape s (execBusMasterDisable s) := by simp [execBusMasterDisable]

@[simp] theorem execMsixHeldRelease_keepsShape {s : State} {cause} :
    KeepsShape s (execMsixHeldRelease cause s) := by simp [execMsixHeldRelease]

@[simp] theorem execDoeDiscovery_keepsShape {s : State} {index} : KeepsShape s (execDoeDiscovery index s) := by
  unfold execDoeDiscovery
  repeat' split
  all_goals simp

/-! ### Mailbox requests -/

@[simp] theorem execMbxDoorbell_keepsShape {s : State} {m part} : KeepsShape s (execMbxDoorbell m part s) := by
  unfold execMbxDoorbell; split <;> simp

/-! ### Images and mapped objects -/

@[simp] theorem execIdentify_keepsShape {s : State} {m} : KeepsShape s (execIdentify m s) :=
  .next (commandBare_keepsShape (.refl _) fun _ => by simp)

@[simp] theorem execGroveStatus_keepsShape {s : State} {m p} : KeepsShape s (execGroveStatus m p s) :=
  .next (command_keepsShape (.refl _) fun _ _ => by simp)

@[simp] theorem execRegisterHost_keepsShape {s : State} {m p} : KeepsShape s (execRegisterHost m p s) :=
  .next (command_keepsShape (.refl _) fun _ _ => by simp)

@[simp] theorem execUnregisterHost_keepsShape {s : State} {m p} : KeepsShape s (execUnregisterHost m p s) := by
  refine .next (command_keepsShape (.refl _) fun w x => ?_)
  dsimp only; split <;> simp

@[simp] theorem execAditMap_keepsShape {s : State} {m p} : KeepsShape s (execAditMap m p s) := by
  refine .next (command_keepsShape (.refl _) fun w n => ?_)
  split
  · simp
  · split
    · simp
    · split
      · simp
      · split
        · simp
        · simp [bringBack_outline ‹_›]

@[simp] theorem execAditUnmap_keepsShape {s : State} {m p} : KeepsShape s (execAditUnmap m p s) :=
  .next (command_keepsShape (.refl _) fun _ _ => by simp)

@[simp] theorem execPlaceBind_keepsShape {s : State} {m p} : KeepsShape s (execPlaceBind m p s) := by
  refine .next (command_keepsShape (.refl _) fun w x => ?_)
  repeat' split
  · simp
  · simp
  · simp
  · simp [room_outline ‹_›]

@[simp] theorem execPlaceUnbind_keepsShape {s : State} {m p} : KeepsShape s (execPlaceUnbind m p s) :=
  .next (command_keepsShape (.refl _) fun _ _ => by simp)

@[simp] theorem execT3Probe_keepsShape {s : State} {m p out back} : KeepsShape s (execT3Probe m p out back s) :=
  .next (command_keepsShape (.refl _) fun _ _ => by simp)

@[simp] theorem execScaleRead_keepsShape {s : State} {m p} : KeepsShape s (execScaleRead m p s) := by
  refine .next (command_keepsShape (.refl _) fun w x => ?_)
  split <;> simp

@[simp] theorem execContextCreate_keepsShape {s : State} {m} : KeepsShape s (execContextCreate m s) :=
  .next (commandBare_keepsShape (.refl _) fun _ => by simp)

@[simp] theorem execContextRelease_keepsShape {s : State} {m} : KeepsShape s (execContextRelease m s) :=
  .next (commandBare_keepsShape (.refl _) fun _ => by simp)

@[simp] theorem execLoadImage_keepsShape {s : State} {m fetch} : KeepsShape s (execLoadImage m fetch s) := by
  unfold execLoadImage; dsimp only
  repeat' split
  all_goals simp

@[simp] theorem execUnloadImage_keepsShape {s : State} {m p} : KeepsShape s (execUnloadImage m p s) :=
  .next (command_keepsShape (.refl _) fun _ _ => by simp)

@[simp] theorem execStepStatus_keepsShape {s : State} {m p} : KeepsShape s (execStepStatus m p s) := by
  refine .next (command_keepsShape (.refl _) fun w x => ?_)
  split <;> simp

@[simp] theorem execUpdateParams_keepsShape {s : State} {m p} : KeepsShape s (execUpdateParams m p s) := by
  refine .next (command_keepsShape (.refl _) fun w x => ?_)
  repeat' split
  all_goals simp

@[simp] theorem execJobCounters_keepsShape {s : State} {m p} : KeepsShape s (execJobCounters m p s) :=
  .next (command_keepsShape (.refl _) fun _ _ => by simp)

@[simp] theorem execT3Shortfall_keepsShape {s : State} {bytes _lag index object} :
    KeepsShape s (execT3Shortfall bytes _lag index object s) := by
  unfold execT3Shortfall; split <;> simp

/-! ### Streams -/

@[simp] theorem execSluiceOpen_keepsShape {s : State} {m} : KeepsShape s (execSluiceOpen m s) := by
  unfold execSluiceOpen; dsimp only
  repeat' split
  all_goals simp
  rename_i hroom
  rw [room_outline hroom]; exact .refl _

@[simp] theorem execSluiceClose_keepsShape {s : State} {m p} : KeepsShape s (execSluiceClose m p s) :=
  .next (command_keepsShape (.refl _) fun _ _ => by simp)

@[simp] theorem execSampleStart_keepsShape {s : State} {st unit entry sample} :
    KeepsShape s (execSampleStart st unit entry sample s) := by
  unfold execSampleStart; dsimp only
  repeat' split
  all_goals simp

@[simp] theorem execSampleStaged_keepsShape {s : State} {st unit sample} :
    KeepsShape s (execSampleStaged st unit sample s) := by
  unfold execSampleStaged; dsimp only
  repeat' split
  all_goals simp

@[simp] theorem execSampleOverrun_keepsShape {s : State} {st unit} : KeepsShape s (execSampleOverrun st unit s) := by
  unfold execSampleOverrun; dsimp only; split <;> simp

@[simp] theorem execSampleLate_keepsShape {s : State} {st position} : KeepsShape s (execSampleLate st position s) := by
  unfold execSampleLate; dsimp only
  repeat' split
  all_goals simp

@[simp] theorem execSubstitute_keepsShape {s : State} {m p sample} : KeepsShape s (execSubstitute m p sample s) := by
  refine .next (command_keepsShape (.refl _) fun w x => ?_)
  dsimp only
  repeat' split
  all_goals simp
  rename_i hroom
  rw [room_outline hroom]; exact .refl _

@[simp] theorem execStats_keepsShape {s : State} {m} : KeepsShape s (execStats m s) :=
  .next (commandBare_keepsShape (.refl _) fun _ => by simp)

@[simp] theorem execHostAccessError_keepsShape {s : State} {cause address tr} :
    KeepsShape s (execHostAccessError cause address tr s) := by simp [execHostAccessError]

/-! ### Resets, the link and start-up -/

@[simp] theorem execFunctionLevelReset_keepsShape {s : State} :
    KeepsShape s (execFunctionLevelReset s) := by simp [execFunctionLevelReset]

@[simp] theorem execHotReset_keepsShape {s : State} : KeepsShape s (execHotReset s) := by simp [execHotReset]

@[simp] theorem execLinkDisable_keepsShape {s : State} : KeepsShape s (execLinkDisable s) := by simp [execLinkDisable]

@[simp] theorem execResetAssert_keepsShape {s : State} {pin timeLeft} :
    KeepsShape s (execResetAssert pin timeLeft s) := by simp [execResetAssert]

@[simp] theorem execDlDown_keepsShape {s : State} {ltssm} : KeepsShape s (execDlDown ltssm s) := by simp [execDlDown]

@[simp] theorem execDlUp_keepsShape {s : State} {speed width} :
    KeepsShape s (execDlUp speed width s) := by simp [execDlUp]

@[simp] theorem execLinkRetrained_keepsShape {s : State} {speed width} :
    KeepsShape s (execLinkRetrained speed width s) := by simp [execLinkRetrained]

@[simp] theorem execHoldOffExpiry_keepsShape {s : State} :
    KeepsShape s (execHoldOffExpiry s) := by simp [execHoldOffExpiry]

@[simp] theorem execPerstRelease_keepsShape {s : State} {part} : KeepsShape s (execPerstRelease part s) := by
  unfold execPerstRelease; dsimp only; split <;> simp

@[simp] theorem execFwTrialTimeout_keepsShape {s : State} :
    KeepsShape s (execFwTrialTimeout s) := by simp [execFwTrialTimeout]

@[simp] theorem execEnterState_keepsShape {s : State} {m p} : KeepsShape s (execEnterState m p s) := by
  refine .next (command_keepsShape (.refl _) fun w x => ?_)
  split <;> simp

@[simp] theorem execForemanFatal_keepsShape {s : State} :
    KeepsShape s (execForemanFatal s) := by simp [execForemanFatal]

/-! ### Retirement, repair and shut-down -/

@[simp] theorem execBistRun_keepsShape {s : State} {m p sigs} : KeepsShape s (execBistRun m p sigs s) := by
  refine .next (command_keepsShape (.refl _) fun w l => ?_)
  repeat' split
  · simp
  · simp
  · simpa using keeps_foldl (fun t i => testIsland_keepsShape (.refl t.outline)) (.refl s.outline) l

@[simp] theorem execBistResult_keepsShape {s : State} {m p} : KeepsShape s (execBistResult m p s) :=
  .next (command_keepsShape (.refl _) fun _ _ => by simp)

@[simp] theorem execRetire_keepsShape {s : State} {m p} : KeepsShape s (execRetire m p s) :=
  .next (command_keepsShape (.refl _) fun _ _ => by simp)

@[simp] theorem execUnretire_keepsShape {s : State} {m p} : KeepsShape s (execUnretire m p s) :=
  .next (command_keepsShape (.refl _) fun _ _ => by simp)

@[simp] theorem execRepairEdit_keepsShape {s : State} {m p} : KeepsShape s (execRepairEdit m p s) :=
  .next (command_keepsShape (.refl _) fun _ _ => by simp)

@[simp] theorem execTallyRead_keepsShape {s : State} {m p} : KeepsShape s (execTallyRead m p s) :=
  .next (command_keepsShape (.refl _) fun _ _ => by simp)

@[simp] theorem execTallyClear_keepsShape {s : State} {m} : KeepsShape s (execTallyClear m s) :=
  .next (commandBare_keepsShape (.refl _) fun _ => by simp)

@[simp] theorem execShdnReq_keepsShape {s : State} {asserted} : KeepsShape s (execShdnReq asserted s) := by
  unfold execShdnReq; dsimp only
  repeat' split
  all_goals simp

@[simp] theorem execShutdownBegin_keepsShape {s : State} :
    KeepsShape s (execShutdownBegin s) := by simp [execShutdownBegin]

@[simp] theorem execShutdownAfterSteps_keepsShape {s : State} {sigs ms} :
    KeepsShape s (execShutdownAfterSteps sigs ms s) := by simp [execShutdownAfterSteps]

/-! ### The module -/

@[simp] theorem execPresenceButtonPress_keepsShape {s : State} {heldNs} :
    KeepsShape s (execPresenceButtonPress heldNs s) := by simp [execPresenceButtonPress]

@[simp] theorem execPresenceButtonRelease_keepsShape {s : State} {heldNs} :
    KeepsShape s (execPresenceButtonRelease heldNs s) := by simp [execPresenceButtonRelease]

@[simp] theorem execPresenceWindowExpiry_keepsShape {s : State} : KeepsShape s (execPresenceWindowExpiry s) := by
  unfold execPresenceWindowExpiry; dsimp only; split <;> simp

@[simp] theorem execServiceLChange_keepsShape {s : State} {held} :
    KeepsShape s (execServiceLChange held s) := by simp [execServiceLChange]

@[simp] theorem execPowerApplied_keepsShape {s : State} {mv} :
    KeepsShape s (execPowerApplied mv s) := by simp [execPowerApplied]

@[simp] theorem execVinPresentLost_keepsShape {s : State} {mv} :
    KeepsShape s (execVinPresentLost mv s) := by simp [execVinPresentLost]

@[simp] theorem execInputOutOfRange_keepsShape {s : State} {mv heldNs} :
    KeepsShape s (execInputOutOfRange mv heldNs s) := by simp [execInputOutOfRange]

@[simp] theorem execInputInRange_keepsShape {s : State} {mv heldNs} :
    KeepsShape s (execInputInRange mv heldNs s) := by simp [execInputInRange]

@[simp] theorem execPowerStageShutdown_keepsShape {s : State} {cause mv} :
    KeepsShape s (execPowerStageShutdown cause mv s) := by simp [execPowerStageShutdown]

@[simp] theorem execFaultLatchClear_keepsShape {s : State} {belowNs} :
    KeepsShape s (execFaultLatchClear belowNs s) := by simp [execFaultLatchClear]

@[simp] theorem execPowerLimit_keepsShape {s : State} {overSecond watts} :
    KeepsShape s (execPowerLimit overSecond watts s) := by simp [execPowerLimit]

@[simp] theorem execThermalWarning_keepsShape {s : State} {sensor celsius} :
    KeepsShape s (execThermalWarning sensor celsius s) := by simp [execThermalWarning]

@[simp] theorem execThermalLimit_keepsShape {s : State} {sensor celsius} :
    KeepsShape s (execThermalLimit sensor celsius s) := by simp [execThermalLimit]

@[simp] theorem execThermalTrip_keepsShape {s : State} {sensor celsius} :
    KeepsShape s (execThermalTrip sensor celsius s) := by
  unfold execThermalTrip; dsimp only; split <;> simp

@[simp] theorem execDynamicAddressAssignment_keepsShape {s : State} {address} :
    KeepsShape s (execDynamicAddressAssignment address s) := by simp [execDynamicAddressAssignment]

@[simp] theorem execPowerStatus_keepsShape {s : State} {m} : KeepsShape s (execPowerStatus m s) :=
  .next (commandBare_keepsShape (.refl _) fun _ => by simp)

/-! ### SPDM -/

@[simp] theorem execGetVersion_keepsShape {s : State} {tr} :
    KeepsShape s (execGetVersion tr s) := by simp [execGetVersion]

@[simp] theorem execGetCapabilities_keepsShape {s : State} {tr} :
    KeepsShape s (execGetCapabilities tr s) := by simp [execGetCapabilities]

@[simp] theorem execNegotiateAlgorithms_keepsShape {s : State} {tr mlDsa44 sha3} :
    KeepsShape s (execNegotiateAlgorithms tr mlDsa44 sha3 s) := by simp [execNegotiateAlgorithms]

@[simp] theorem execGetDigests_keepsShape {s : State} {tr} :
    KeepsShape s (execGetDigests tr s) := by simp [execGetDigests]

@[simp] theorem execGetCertificate_keepsShape {s : State} {tr slot offset length} :
    KeepsShape s (execGetCertificate tr slot offset length s) := by simp [execGetCertificate]

@[simp] theorem execChallenge_keepsShape {s : State} {tr slot nonce} :
    KeepsShape s (execChallenge tr slot nonce s) := by simp [execChallenge]

@[simp] theorem execGetMeasurements_keepsShape {s : State} {tr index nonce} :
    KeepsShape s (execGetMeasurements tr index nonce s) := by simp [execGetMeasurements]

@[simp] theorem execGetCsr_keepsShape {s : State} {tr} : KeepsShape s (execGetCsr tr s) :=
  .next (onSession_keepsShape (.refl _) (withPresence_keepsShape (.refl _) (withKey_keepsShape (by simp) (by simp))))

@[simp] theorem execSetCertificate_keepsShape {s : State} {tr slot chain} :
    KeepsShape s (execSetCertificate tr slot chain s) :=
  .next (onSession_keepsShape (.refl _) (withPresence_keepsShape (.refl _) (by simp [↓outline_mk])))

/-! ### The step -/

/-- Every command keeps the shape, by its own lemma. -/
theorem exec_keepsShape (c : Instr) (s : State) : KeepsShape s (exec c s) := by
  cases c
  all_goals simp only [exec]
  all_goals simp

theorem step_keepsShape (s : State) : KeepsShape s (step s) := by
  unfold step; split
  · exact .next (by simp)
  · simpa [KeepsShape] using exec_keepsShape _ { s with pending := _ }

/-- Settles O4: the step keeps what the shape of the tables and that of the engines rest on. -/
theorem stepKeepsShape : Obligations.StepKeepsShape :=
  ⟨fun s _ hs h => shaped_iff_outline.2 ((step_keepsShape s _ h).tables (shaped_iff_outline.1 hs)),
    fun s _ hs h => (step_keepsShape s _ h).engines hs⟩

end Sys2Proof.Machine
end

section
/-!
PROOFS. The lane-wise vector instructions (R36, R42, R123 to R126, R131): a result merged into its destination, lane by lane.
-/

namespace Sys2Proof.Machine

/-! ### Properties of the pairs of a list -/

theorem forall_pair_mem_nil {α β : Type} {P : α → β → Prop} : ∀ a b, (a, b) ∈ ([] : List (α × β)) → P a b :=
  fun _ _ h => absurd h List.not_mem_nil

theorem forall_pair_mem_cons {α β : Type} {P : α → β → Prop} {a : α} {b : β} {l : List (α × β)} :
    (∀ x y, (x, y) ∈ (a, b) :: l → P x y) ↔ P a b ∧ ∀ x y, (x, y) ∈ l → P x y := by
  simp only [List.mem_cons, Prod.mk.injEq]
  constructor
  · exact fun h => ⟨h a b (.inl ⟨rfl, rfl⟩), fun x y hxy => h x y (.inr hxy)⟩
  · rintro ⟨hab, hl⟩ x y (⟨rfl, rfl⟩ | hxy)
    · exact hab
    · exact hl x y hxy

/-! ### A destination under R123 -/

theorem at'_replicate {α : Type} {n i : Nat} {x d : α} (h : i < n) :
    at' (List.replicate n x) i d = x := by simp [at', h]

/-- The merged lanes, each given by its own number. -/
theorem mergeLanes_eq_map {p : Nat} {zm : Bool} {o n : List Word} (h : o.length ≤ n.length) :
    mergeLanes p zm o n = (List.range o.length).map fun l =>
      if p.testBit l then at' n l 0 else if zm then 0 else at' o l 0 := by
  induction o generalizing p n with
  | nil => simp [mergeLanes]
  | cons a o ih => cases n with
    | nil => simp at h
    | cons b n =>
      have hn : o.length ≤ n.length := by simpa using h
      simp [mergeLanes, ih hn, List.range_succ_eq_map, at', Nat.testBit_succ, Nat.testBit_zero, Function.comp_def]

/-- Writing a list of results to vD writes, lane by lane, what stands in the list. -/
theorem VecEngine.shaped.put_eq_lanes {e : VecEngine} (h : e.shaped) {f : VFields} {r : List Word} {op : Nat → Word}
    (hl : 256 ≤ r.length) (hr : ∀ l, l < 256 → at' r l 0 = op l) : e.put f r = e.lanes f f.d.toNat op := by
  have hd := h.register_length f.d.toNat
  simp only [VecEngine.put, VecEngine.putLanes, VecEngine.setV, VecEngine.lanes]
  rw [mergeLanes_eq_map (by omega), hd]
  congr 2
  refine List.map_congr_left fun l hlt => ?_
  rw [hr l (List.mem_range.1 hlt)]

/-! ### Instructions whose rule names an operation on the engine -/

section
variable {s : State} {g : Fin 128} {f : VFields} (h : (vecAt s g).shaped)
include h

theorem vecDo_put {r : VecEngine → List Word} {op : Nat → Word} (hl : 256 ≤ (r (vecAt s g)).length)
    (hr : ∀ l, l < 256 → at' (r (vecAt s g)) l 0 = op l) :
    vecDo s g (fun e => e.put f (r e)) = vecNext s g ((vecAt s g).lanes f f.d.toNat op) := by
  simp only [vecDo, vecNext, h.put_eq_lanes hl hr]

theorem lanes1_eq (op : Word → Word) :
    lanes1 s g f op = vecNext s g ((vecAt s g).lanes f f.d.toNat fun l => op ((vecAt s g).lane f.a l)) :=
  vecDo_put h (by simp [h]) fun l hl => by simp [at', VecEngine.lane, h, hl]

theorem lanes2_eq (op : Word → Word → Word) :
    lanes2 s g f op = vecNext s g ((vecAt s g).lanes f f.d.toNat fun l =>
      op ((vecAt s g).lane f.a l) ((vecAt s g).lane f.b l)) :=
  vecDo_put h (by simp [h]) fun l hl => by simp [at', VecEngine.lane, h, hl]

/-- A list of instructions of one source, each with its operation. -/
theorem each_lanes1 {ops : List (Instr × (Word → Word))}
    (hops : ∀ c op, (c, op) ∈ ops → exec c s = .next (lanes1 s g f op)) :
    ∀ c op, (c, op) ∈ ops → exec c s =
      .next (vecNext s g ((vecAt s g).lanes f f.d.toNat fun l => op ((vecAt s g).lane f.a l))) :=
  fun c op hmem => lanes1_eq h op ▸ hops c op hmem

/-- A list of instructions of two sources, each with its operation. -/
theorem each_lanes2 {ops : List (Instr × (Word → Word → Word))}
    (hops : ∀ c op, (c, op) ∈ ops → exec c s = .next (lanes2 s g f op)) :
    ∀ c op, (c, op) ∈ ops → exec c s = .next (vecNext s g ((vecAt s g).lanes f f.d.toNat fun l =>
      op ((vecAt s g).lane f.a l) ((vecAt s g).lane f.b l))) :=
  fun c op hmem => lanes2_eq h op ▸ hops c op hmem

/-! ### Instructions with a result of their own -/

theorem exec_fma : exec (.fma g f) s = .next (vecNext s g ((vecAt s g).lanes f f.d.toNat fun l =>
    f32Fma ((vecAt s g).lane f.a l) ((vecAt s g).lane f.b l) ((vecAt s g).lane f.c l))) :=
  congrArg _ (vecDo_put h (by simp [h]) fun l hl => by simp [at', VecEngine.lane, h, hl])

theorem exec_movi : exec (.movi g f) s = .next (vecNext s g ((vecAt s g).lanes f f.d.toNat fun _ => f.imm)) :=
  congrArg _ (vecDo_put h List.length_replicate.ge fun _ => at'_replicate)

theorem exec_movs : exec (.movs g f) s =
    .next (vecNext s g ((vecAt s g).lanes f f.d.toNat fun _ => (vecAt s g).sreg f.a.toNat)) :=
  congrArg _ (vecDo_put h (r := fun e => List.replicate 256 (e.sreg f.a.toNat)) List.length_replicate.ge
    fun _ => at'_replicate)

theorem exec_laneid : exec (.laneid g f) s =
    .next (vecNext s g ((vecAt s g).lanes f f.d.toNat fun l => BitVec.ofNat 32 l)) :=
  congrArg _ (vecDo_put h (by simp) fun l hl => by simp [at', hl])

theorem exec_sel : exec (.sel g f) s = .next (vecNext s g ((vecAt s g).lanes f f.d.toNat fun l =>
    if ((vecAt s g).preg f.c.toNat).getLsbD l then (vecAt s g).lane f.a l else (vecAt s g).lane f.b l)) := by
  have hsel : mergeLanes ((vecAt s g).preg f.c.toNat).toNat false ((vecAt s g).vreg f.b) ((vecAt s g).vreg f.a) = _ :=
    mergeLanes_eq_map (by simp [h])
  refine congrArg _ (vecDo_put h ?_ fun l hl => ?_)
  · simp [mergeLanes_length, h]
  · rw [hsel]
    simp [at', VecEngine.lane, h, hl, BitVec.getLsbD]

theorem exec_shuf : exec (.shuf g f) s = .next (vecNext s g ((vecAt s g).lanes f f.d.toNat fun l =>
    (vecAt s g).lane f.a (((vecAt s g).lane f.b l).toNat % 256))) :=
  congrArg _ (vecDo_put h (by simp [h]) fun l hl => by simp [at', VecEngine.lane, h, hl])

/-- ROT is a rotation of the register's list of lanes. -/
theorem exec_rot : exec (.rot g f) s = .next (vecNext s g ((vecAt s g).lanes f f.d.toNat fun l =>
    (vecAt s g).lane f.a ((l + ((vecAt s g).sreg f.b.toNat).toNat) % 256))) := by
  have hlen : ((vecAt s g).vreg f.a).length = 256 := h.vreg_length f.a
  refine congrArg _ (vecDo_put h (by simp [h]; omega) fun l hl => ?_)
  rw [← hlen, ← List.rotate_eq_drop_append_take_mod]
  simp only [at', VecEngine.lane, List.getElem?_rotate (hlen ▸ hl)]

theorem exec_ldx : exec (.ldx g f) s = .next (vecNext s g ((vecAt s g).lanes f f.d.toNat fun l =>
    scratchGet (vecAt s g).scratch (((vecAt s g).lane f.a l).toNat % 262144))) :=
  congrArg _ (vecDo_put h (by simp [h]) fun l hl => by simp [at', VecEngine.lane, h, hl])

end

/-! ### The operations as the statement gives them -/

theorem wordMin_eq : wordMin = fun x y => if x.toInt ≤ y.toInt then x else y := by
  funext x y
  simp only [wordMin, ← Int.not_le, ite_not]

theorem wordMax_eq : wordMax = fun x y => if y.toInt ≤ x.toInt then x else y := by
  funext x y
  simp only [wordMax, ← Int.not_le, ite_not]

/-- Proved by rewriting: by `rfl` the kernel would evaluate the operation on F32 words. -/
theorem exec_vscale {s : State} {g : Fin 128} {f : VFields} : exec (.vscale g f) s =
    .next (lanes1 s g f fun x => f32Scale x ((vecAt s g).sreg f.b.toNat).toInt) := by
  change execVscale g f s = _
  simp only [execVscale, lanes1, done, vecDo]

/-- Proved by rewriting, as `exec_vscale`. -/
theorem exec_cvtfh {s : State} {g : Fin 128} {f : VFields} : exec (.cvtfh g f) s =
    .next (lanes1 s g f fun x => BitVec.ofNat 32 (quantIeee ieee16 maxF16 (f32 x)).1) := by
  change execCvtfh g f s = _
  simp only [execCvtfh, done]

/-- Settles O54: an instruction of one or two sources writes its operation's results lane by lane, and so do the other eight. -/
theorem lanewiseInstructions : Obligations.LanewiseInstructions := by
  intro s g f h
  refine ⟨each_lanes2 h ?_, each_lanes1 h ?_, exec_fma h, exec_movi h, exec_movs h, exec_laneid h, exec_sel h,
    exec_shuf h, exec_rot h, exec_ldx h⟩
  · simp only [forall_pair_mem_cons, ← wordMin_eq, ← wordMax_eq]
    exact ⟨rfl, rfl, rfl, rfl, rfl, rfl, rfl, rfl, rfl, rfl, rfl, rfl, rfl, rfl, rfl, rfl, forall_pair_mem_nil⟩
  · simp only [forall_pair_mem_cons]
    exact ⟨rfl, rfl, rfl, rfl, rfl, rfl, rfl, rfl, rfl, rfl, rfl, rfl, rfl, rfl, rfl, rfl, rfl, rfl, rfl, rfl,
      exec_vscale, exec_cvtfh, forall_pair_mem_nil⟩

end Sys2Proof.Machine
end

section
/-!
PROOFS. The reporting commands (R24, R111, R154, R224, R267, R348, R349, R353, R360, R383, R403): how a command in progress is
answered or refused, and the answer of each.
-/

namespace Sys2Proof.Machine

/-! ### Answers and refusals of a command in progress -/

section
variable {s : State} {m op : Nat} {w : Work} (h : workOf s m op = some w)
include h

theorem respond_of_workOf (status : Nat) (p : Resp) (d e : Nat) : respond s m status p d e = finished s m w status p d e :=
  respond_eq (workOf_some h).1 status p d e

theorem refuse_of_workOf (hop : op ≠ 0x0503) (status d : Nat) : refuse s m status d = finished s m w status [] d 0 := by
  obtain ⟨hw, rfl, -⟩ := workOf_some h
  rw [refuse_eq hw, refusalPayload, if_neg hop]

/-- A command whose fields lead to an answer ends with it. -/
theorem command_answers {α : Type} {x : α} {go : Work → α → State} {status : Nat} {p : Resp} {d e : Nat}
    (hgo : go w x = respond s m status p d e) :
    done (command s m op (.fields x) go) = .next (finished s m w status p d e) := by
  rw [done, command_fields h, hgo, respond_of_workOf h]

/-- A command whose fields lead to a refusal ends with it, and without a payload: it is not SUBMIT. -/
theorem command_refuses (hop : op ≠ 0x0503) {α : Type} {x : α} {go : Work → α → State} {status d : Nat}
    (hgo : go w x = refuse s m status d) :
    done (command s m op (.fields x) go) = .next (finished s m w status [] d 0) := by
  rw [done, command_fields h, hgo, refuse_of_workOf h hop]

theorem commandBare_answers (hl : w.length = 0) {go : Work → State} {status : Nat} {p : Resp} {d e : Nat}
    (hgo : go w = respond s m status p d e) :
    done (commandBare s m op go) = .next (finished s m w status p d e) := by
  rw [done, commandBare_go h hl, hgo, respond_of_workOf h]

/-- A payload where the command has none is refused with the offset of LENGTH. -/
theorem commandBare_refuses (hop : op ≠ 0x0503) (hl : w.length ≠ 0) (go : Work → State) :
    done (commandBare s m op go) = .next (finished s m w St.invalidField [] 12 0) := by
  simp only [done, commandBare, h, if_neg hl, refuse_of_workOf h hop]

end

/-! ### The reports -/

/-- POWER_STATUS ends in the state that the measurement leaves: it spends one free value and stores what it measured. -/
theorem exec_powerStatus {s : State} {m : Fin 64} {w : Work} (h : workOf s m 0x0901 = some w) (hl : w.length = 0) :
    exec (.powerStatus m) s = .next (finished { s with fresh := s.fresh + 1, board := measured s } m w St.ok
      ([(32, s.board.vinMv), (32, Config.free 71 s.fresh), (32, Config.free 72 s.fresh), (32, Config.free 73 s.fresh),
        (8, Config.free 70 s.fresh), (8, s.dev.shutStep)] ++
        (s.board.compute ++ [s.board.io] ++ s.board.hbm ++ [s.board.stage, s.board.inlet]).map fun t => (8, t)) 0 0) := by
  change done (commandBare s m 0x0901 _) = _
  rw [done, commandBare_go h hl]
  exact congrArg _ (respond_eq (s := { s with fresh := s.fresh + 1, board := measured s }) (workOf_some h).1 ..)

/-- STEP_STATUS of a step without a record. -/
theorem exec_stepStatus_noRecord {s : State} {m : Fin 64} {w : Work} {job step : Nat} (h : workOf s m 0x0504 = some w)
    (hnone : ∀ r ∈ s.sched.records, r.job ≠ job ∨ r.step ≠ step) :
    exec (.stepStatus m (.fields (job, step))) s = .next (finished s m w St.noRecord [] 0 0) := by
  have hfind : (s.sched.records.find? fun r => r.job == job && r.step == step) = none := by
    simpa [List.find?_eq_none, imp_iff_not_or] using hnone
  exact command_refuses h (by decide) (by simp only [hfind])

/-- CONFIG_READ of a set that exists. -/
theorem exec_configRead {s : State} {m : Fin 64} {w : Work} {i : Nat} {c : ConfigSet} (h : workOf s m 0x0C03 = some w)
    (hi : 1 ≤ i ∧ i ≤ 6) (hc : s.cfg[i - 1]? = some c) :
    exec (.configRead m (.fields i)) s =
      .next (finished s m w St.ok [(8 * setBytes i, c.value), (32, c.gen), (32, c.forceGen)] 0 0) := by
  have hset : at' s.cfg (i - 1) { value := 0, force := 0 } = c := by simp [at', hc]
  exact command_answers h ((if_neg (by omega)).trans (by simp only [hset]))

/-- Settles O12: each command's fields lead to one answer or refusal, which `command_answers` or `command_refuses` ends. -/
theorem reportsComplete : Obligations.ReportsComplete := by
  refine ⟨fun m s w => ⟨fun h hl => commandBare_answers h hl rfl, fun h hl => commandBare_answers h hl rfl,
      fun h hl => commandBare_answers h hl rfl, exec_powerStatus, ?_⟩,
    fun m s w k => ⟨fun h => ⟨fun hk => ?_, ?_, fun hk hall => ?_⟩, fun h => ⟨fun hk => ?_, fun hk => ?_⟩,
      fun h => ⟨fun hk => ?_, ?_, fun hk hall => ?_⟩, fun h => ⟨fun hk => ?_, fun hk => ?_⟩⟩,
    fun m s w => ⟨fun job step h => ⟨fun r hr => ?_, exec_stepStatus_noRecord h⟩, fun job h => command_answers h rfl,
      fun i c h hlo hhi hc => exec_configRead h ⟨hlo, hhi⟩ hc, fun first n c h hc hlo hhi hfit => ?_,
      fun k x h hc hx => ?_, fun region seconds out back h hreg hlo hhi => ?_, fun job j h hj => ?_⟩⟩
  -- a payload where the row has none
  · simp only [List.mem_cons, Prod.mk.injEq, List.not_mem_nil, or_false]
    rintro op c (⟨rfl, rfl⟩ | ⟨rfl, rfl⟩ | ⟨rfl, rfl⟩ | ⟨rfl, rfl⟩) h hl <;>
      exact commandBare_refuses h (by decide) hl _
  -- GROVE_STATUS
  · exact command_answers h ((if_neg (by omega)).trans (if_pos hk))
  · exact command_answers h (if_pos rfl)
  · exact command_refuses h (by decide) ((if_neg hall).trans (if_neg (by omega)))
  -- STACK_STATUS
  · exact command_answers h (if_neg (by omega))
  · exact command_refuses h (by decide) (if_pos (by omega))
  -- PORT_STATUS
  · exact command_answers h ((if_neg (by omega)).trans (if_pos hk))
  · exact command_answers h (if_pos rfl)
  · exact command_refuses h (by decide) ((if_neg hall).trans (if_neg (by omega)))
  -- BIST_RESULT
  · exact command_answers h (if_pos (by simpa using hk))
  · exact command_refuses h (by decide) (if_neg (by simpa using hk))
  -- STEP_STATUS, SCALE_READ, SPILL_READ, T3_PROBE and SHORING_STATUS of what is held
  · exact command_answers h (by simp only [hr])
  · exact command_answers h (by simp only [hc]; rw [if_neg (by omega), if_neg (by omega)])
  · exact command_answers h (by simp only [hx]; rw [if_neg (by simp [Option.isSome_iff_ne_none.1 hc])])
  · exact command_answers h ((if_neg (by simp [Option.isSome_iff_ne_none.1 hreg])).trans (if_neg (by omega)))
  · exact command_answers h (by simp only [hj])

end Sys2Proof.Machine
end

section
/-!
PROOFS. The instances of the running step take effect (R27 to R30, R53 to R64, R164, R176, R264, R284 to R287): what an
effect leaves of the step, what each command waits for, and that a device alone in its job waits for nothing.
-/

namespace Sys2Proof.Machine

/-! ### Instances that start -/

@[simp] theorem readLens_adm (s : State) (r : Run) (i : InstId) (d : Desc) : (readLens s r i d).2.adm = r.adm := by
  unfold readLens; split
  · rfl
  · dsimp only; split <;> rfl

/-- Effects that agree on the runs of one admission start alike. -/
theorem startInstance_congr {s : State} {r : Run} {i : InstId} {d : Desc} {go go' : Run → Desc → State → State}
    (h : ∀ (q : Run) (t : State), q.adm = r.adm → go q d t = go' q d t) :
    startInstance s r i d go = startInstance s r i d go' :=
  congrArg (markExecuted · i) (h _ _ (readLens_adm ..))

theorem getD_still {s : State} {o : Option State} (h : ∀ t, o = some t → Still s t) : Still s (o.getD s) := by
  cases o with
  | none => exact .refl s
  | some t => exact h t rfl

section
variable {s : State} {r : Run} {i : InstId} {d : Desc} {go : Run → Desc → State → State}

/-- No effect touches the admission, the executed or the complete instances, so starting adds this one and nothing else. -/
theorem startInstance_executes (hr : s.sched.run = some r) (hgo : ∀ q x t, Still t (go q x t)) :
    executes s r i d go (startInstance s r i d go) := by
  refine ⟨rfl, ?_⟩
  let x := readLens (setTag s (tagOf r.adm.image i d)) { r with tag := tagOf r.adm.image i d } i d
  have hstill : Still s (go x.2 d x.1) := Still.trans (by simp [x]) (hgo x.2 d x.1)
  have hadm := hstill.adm
  have hexecuted := hstill.executed
  have hcomplete := hstill.complete
  simp only [hr, Option.map_some, Option.map_eq_some_iff] at hadm hexecuted hcomplete
  obtain ⟨y, hy, hadm⟩ := hadm
  simp only [hy, Option.some.injEq, exists_eq_left'] at hexecuted hcomplete
  refine ⟨{ y with executed := i :: y.executed }, ?_, by rw [hexecuted], hcomplete, hadm⟩
  change (go x.2 d x.1).sched.run.map _ = _
  rw [hy]; rfl

/-- A command of the instances that may start executes its own, with any effect that agrees with the command's on the runs
of this admission. -/
theorem exec_executes_as {c : Instr} {op : Nat} {go' : Run → Desc → State → State}
    (hc : exec c s = done (onInstance s i op go')) (hr : s.sched.run = some r)
    (hd : r.adm.image.descs[i.index]? = some d) (hm : startable s r i d) (hs : s.dev.state ≠ .halt) (ho : d.opcode = op)
    (hgo : ∀ q x t, Still t (go q x t)) (hsame : ∀ (q : Run) (t : State), q.adm = r.adm → go' q d t = go q d t) :
    ∃ t, exec c s = .next t ∧ executes s r i d go t := by
  refine ⟨_, ?_, startInstance_executes hr hgo⟩
  rw [hc, onInstance_runs hr hd ho (mayStart_iff.2 hm) hs, startInstance_congr hsame, done]

theorem exec_executes {c : Instr} {op : Nat} (hc : exec c s = done (onInstance s i op go)) (hr : s.sched.run = some r)
    (hd : r.adm.image.descs[i.index]? = some d) (hm : startable s r i d) (hs : s.dev.state ≠ .halt) (ho : d.opcode = op)
    (hgo : ∀ q x t, Still t (go q x t)) : ∃ t, exec c s = .next t ∧ executes s r i d go t :=
  exec_executes_as hc hr hd hm hs ho hgo fun _ _ _ => rfl

end

/-! ### CONV, KV_APPEND and RECOMPUTE: what they wait for -/

section
variable {s : State} {r : Run} {i : InstId} {d : Desc} (hr : s.sched.run = some r)
include hr

theorem exec_kvAppend (h : ∀ j ∈ r.adm.image.insts, ∀ x, r.adm.image.descs[j.index]? = some x → x.opcode = 5 →
      precedes r.adm.image j i = true → j ∈ r.executed ∨ instDone r j = true ∨ hasPath r.adm.image i j = true) :
    exec (.kvAppend i) s = done (onInstance s i 0x05 (appendDo i)) := by
  change execKvAppend i s = _
  simp only [execKvAppend, hr]
  rw [if_neg]
  simp only [List.any_eq_true, Bool.and_eq_true, Bool.not_eq_true', List.contains_eq_mem, decide_eq_false_iff_not]
  rintro ⟨j, hj, ⟨⟨⟨happend, hbefore⟩, hexecuted⟩, hdone⟩, hpath⟩
  split at happend
  · rename_i x hx
    obtain hover | hover | hover := h j hj x hx (by simpa using happend) hbefore
    · exact hexecuted hover
    · simp [hover] at hdone
    · simp [hover] at hpath
  · cases happend

variable (hd : r.adm.image.descs[i.index]? = some d)
include hd

theorem exec_conv_grove (h : onSapling r.adm.image d = false) :
    exec (.conv i) s = done (onInstance s i 0x02 fun r d s => convDeal i r d (convDo i r d s)) := by
  change execConv i s = _
  simp [execConv, hr, hd, h]

theorem exec_conv_sapling (h : onSapling r.adm.image d = true) (hfilter : i ∈ r.filters)
    (horder : ∀ j ∈ saplingInsts r.adm.image, precedes r.adm.image j i = true →
      saplingRank r.adm.image j % 4 = saplingRank r.adm.image i % 4 → j ∈ r.executed ∨ instDone r j = true) :
    exec (.conv i) s = done (onInstance s i 0x02 fun r d s =>
      freeFilter (convDo i r d s) (saplingRank r.adm.image i % 4) i) := by
  have hready : saplingReady r i = true := by
    simp only [saplingReady, Bool.and_eq_true, List.all_eq_true, List.contains_iff_mem]
    refine ⟨hfilter, fun j hj => ?_⟩
    by_cases hbefore : precedes r.adm.image j i = true ∧ saplingRank r.adm.image j % 4 = saplingRank r.adm.image i % 4
    · simpa [hbefore] using horder j hj hbefore.1 hbefore.2
    · have hbefore : (precedes r.adm.image j i && saplingRank r.adm.image j % 4 == saplingRank r.adm.image i % 4) = false := by
        simpa using hbefore
      simp [hbefore]
  change execConv i s = _
  simp [execConv, hr, hd, h, hready]

theorem exec_recompute_ready (h : segmentReady i r d s = true) :
    exec (.recompute i) s = done (onInstance s i 0x0D (recomputeDo i)) := by
  change execRecompute i s = _
  simp [execRecompute, hr, hd, h]

theorem exec_recompute_waits (h : segmentReady i r d s = false) : exec (.recompute i) s = .next s := by
  change execRecompute i s = _
  simp [execRecompute, hr, hd, h, done]

end

/-! ### What a collective has sent on (R281) -/

/-- `s` with other chunks not yet acknowledged and others sent by the running step. -/
def sentOn (s : State) (unacked : List Chunk) (sent : List (Nat × Nat × Nat)) : State :=
  setRun { s with fabric := { s.fabric with unacked } } fun r => { r with sent }

/-- `t` differs from `s` in the chunks sent on alone. -/
def SentOn (s t : State) : Prop := ∃ unacked sent, t = sentOn s unacked sent

section
variable {s t u : State}

theorem SentOn.refl {r : Run} (hr : s.sched.run = some r) : SentOn s s := by
  refine ⟨s.fabric.unacked, r.sent, ?_⟩
  have hrun : s.sched.run.map (fun q => { q with sent := r.sent }) = s.sched.run := by rw [hr]; rfl
  simp only [sentOn, setRun, hrun]

theorem SentOn.trans (h : SentOn s t) (k : SentOn t u) : SentOn s u := by
  obtain ⟨a, b, rfl⟩ := h
  obtain ⟨a', b', rfl⟩ := k
  refine ⟨a', b', ?_⟩
  simp only [sentOn, setRun, Option.map_map]
  rfl

theorem SentOn.run {r : Run} (h : SentOn s t) (hr : s.sched.run = some r) : ∃ x, t.sched.run = some x := by
  obtain ⟨a, b, rfl⟩ := h
  exact ⟨{ r with sent := b }, by simp [sentOn, setRun, hr]⟩

theorem SentOn.state (h : SentOn s t) : t.dev.state = s.dev.state := by
  obtain ⟨a, b, rfl⟩ := h
  rfl

/-- What the instances wait for does not turn on the chunks sent on. -/
theorem SentOn.startable {r x : Run} {i : InstId} {d : Desc} (h : SentOn s t) (hr : s.sched.run = some r)
    (hx : t.sched.run = some x) (hm : startable s r i d) : x.adm = r.adm ∧ startable t x i d := by
  obtain ⟨a, b, rfl⟩ := h
  have hx' : x = { r with sent := b } := by simpa [sentOn, setRun, hr] using hx.symm
  subst hx'
  have hsame : mayStart (sentOn s a b) { r with sent := b } i d = mayStart s r i d := rfl
  exact ⟨rfl, mayStart_iff.1 (hsame.trans (mayStart_iff.2 hm))⟩

theorem setRun_sent {r : Run} (hr : s.sched.run = some r) (unacked : List Chunk) (x : Nat × Nat × Nat) :
    setRun { s with fabric := { s.fabric with unacked } } (fun q => { q with sent := x :: q.sent }) =
      sentOn s unacked (x :: r.sent) := by
  simp only [sentOn, setRun, hr, Option.map_some]

theorem sendChunk_sentOn {r q : Run} (hr : s.sched.run = some r) (coll chunk phase : Nat) (p : Part) :
    SentOn s (sendChunk s q coll chunk phase p) := by
  unfold sendChunk; split
  · exact .refl hr
  · exact ⟨_, _, setRun_sent hr _ (coll, chunk, phase)⟩

theorem foldl_sentOn {α : Type} {f : State → α → State} {r : Run} (hr : s.sched.run = some r)
    (hf : ∀ (t : State) x q, t.sched.run = some q → SentOn t (f t x)) (l : List α) : SentOn s (l.foldl f s) := by
  refine List.foldlRecOn l f (SentOn.refl hr) fun t ht x _ => ?_
  obtain ⟨q, hq⟩ := ht.run hr
  exact ht.trans (hf t x q hq)

theorem reduceSend_sentOn {r q : Run} {i : InstId} {d : Desc} (hr : s.sched.run = some r) :
    SentOn s (reduceSend i q d s) := by
  unfold reduceSend; split
  · refine foldl_sentOn hr (fun t c y hy => ?_) _
    split
    · exact sendChunk_sentOn hy ..
    · exact .refl hy
  · exact .refl hr

theorem gatherSend_sentOn {r q : Run} {i : InstId} {d : Desc} (hr : s.sched.run = some r) :
    SentOn s (gatherSend i q d s) := by
  unfold gatherSend; split
  · exact .refl hr
  · split
    · exact foldl_sentOn hr (fun t c y hy => sendChunk_sentOn hy ..) _
    · refine foldl_sentOn hr (fun t c y hy => ?_) _
      split
      · exact foldl_sentOn hy (fun v phase z hz => sendChunk_sentOn hz ..) _
      · exact .refl hy

end

/-! ### Collectives -/

section
variable {s : State} {r : Run} {i : InstId} {d : Desc} {op : Nat} {send : Run → Desc → State → State}
  {go : Run → Desc → State → Option State} (hr : s.sched.run = some r) (hd : r.adm.image.descs[i.index]? = some d)
include hr hd

theorem onCollective_waits (he : entered s r (collectiveNumber r.adm.image i) = false) : onCollective i op send go s = s := by
  simp [onCollective, hr, hd, he]

variable (hm : startable s r i d) (hs : s.dev.state ≠ .halt) (ho : d.opcode = op)
  (he : entered s r (collectiveNumber r.adm.image i) = true) (hj : jobRuns s r.adm.job = true) (hend : r.mismatchEnd = false)
include hm hs ho he hj hend

theorem onCollective_sends (hgo : go r d (send r d s) = none) : onCollective i op send go s = send r d s := by
  simp [onCollective, hr, hd, mayStart_iff.2 hm, hs, ho, he, hj, hend, hgo]

theorem onCollective_runs (hgo : (go r d (send r d s)).isSome) :
    onCollective i op send go s = onInstance (send r d s) i op fun r d s => (go r d s).getD s := by
  obtain ⟨t, hgo⟩ := Option.isSome_iff_exists.1 hgo
  simp [onCollective, hr, hd, mayStart_iff.2 hm, hs, ho, he, hj, hend, hgo]

/-- A collective whose data are there executes in the state that its sending leaves. -/
theorem onCollective_executes {x : Run} (hgo : (go r d (send r d s)).isSome) (hsent : SentOn s (send r d s))
    (hstill : ∀ q y t u, go q y t = some u → Still t u) (hx : (send r d s).sched.run = some x) :
    ∃ t, done (onCollective i op send go s) = .next t ∧
      executes (send r d s) x i d (fun r d s => (go r d s).getD s) t := by
  obtain ⟨hadm, hm'⟩ := hsent.startable hr hx hm
  refine ⟨_, ?_, startInstance_executes hx fun q y t => getD_still (hstill q y t)⟩
  rw [onCollective_runs hr hd hm hs ho he hj hend hgo,
    onInstance_runs hx (hadm ▸ hd) ho (mayStart_iff.2 hm') (hsent.state ▸ hs), done]

end

/-! ### A device alone in its job (R286, R287) -/

/-- The seat of a device that no box holds. -/
def aloneParty (dev : Nat) : Party := ⟨[dev % 8], [dev / 8], 0, 0, none, dev⟩

theorem partyAt_of_box_none {s : State} {job scope dev : Nat} (h : (partyAt s job scope dev).box = none) :
    partyAt s job scope dev = aloneParty dev := by
  unfold partyAt at h ⊢
  dsimp only at h ⊢
  split at h
  · rfl
  · split at h
    · split at h <;> cases h
    · rfl

theorem Layout.share_of_mem_ofShare {l : Layout} {c share : Nat} (h : c ∈ l.ofShare share) : c / l.perShare = share := by
  simp only [Layout.ofShare, List.mem_filter, List.mem_map, List.mem_range] at h
  obtain ⟨⟨k, hk, rfl⟩, -⟩ := h
  rw [Nat.mul_comm, Nat.mul_add_div (by omega), Nat.div_eq_of_lt hk, Nat.add_zero]

section
variable {l : Layout} {dev : Nat} (h : l.party = aloneParty dev)
include h

/-- A device alone has one share. -/
theorem Layout.share_zero_of_alone {c : Nat} (hc : c ∈ l.chunks) : c / l.perShare = 0 := by
  simp only [Layout.chunks, h, Party.count, aloneParty, List.length_singleton, List.mem_flatten, List.mem_map,
    List.mem_range] at hc
  obtain ⟨_, ⟨share, hshare, rfl⟩, hc⟩ := hc
  rw [Layout.share_of_mem_ofShare hc]; omega

theorem Layout.party_facts_of_alone : l.party.a = 0 ∧ l.party.box = none ∧ l.party.axes = [] ∧ l.party.nodes.length = 1 ∧
    l.party.share = 0 := by
  simp [h, aloneParty, Party.axes, Party.share]

end

section
variable {s : State} {r : Run} {dev : Nat}

/-- Every chunk is of the device's own share, and none is sent on. -/
theorem Reduction.outgoing_of_alone {x : Reduction} (h : x.lay.party = aloneParty dev) {c : Nat} (hc : c ∈ x.lay.chunks) :
    x.outgoing s r c = none := by
  obtain ⟨ha, hbox, -, hnodes, -⟩ := Layout.party_facts_of_alone h
  simp [Reduction.outgoing, Layout.share_zero_of_alone h hc, ha, hbox, hnodes]

theorem Reduction.send_of_alone {x : Reduction} (h : x.lay.party = aloneParty dev) : x.send s r = s := by
  refine List.foldlRecOn (motive := fun t => t = s) x.lay.chunks _ rfl fun t ht c hc => ?_
  rw [outgoing_of_alone h hc]
  exact ht

theorem Reduction.allSent_of_alone {x : Reduction} (h : x.lay.party = aloneParty dev) : x.allSent s r = true := by
  simp only [Reduction.allSent, List.all_eq_true]
  intro c hc
  rw [outgoing_of_alone h hc]

/-- The contributions of the node are this device's own, or none where it has failed. -/
theorem Reduction.nodeSum_of_alone {x : Reduction} (h : x.lay.party = aloneParty (deviceNumber s)) (c : Nat) :
    (x.nodeSum s r c).isSome := by
  have hdev : 8 * (deviceNumber s / 8) + deviceNumber s % 8 = deviceNumber s := Nat.div_add_mod ..
  simp only [Reduction.nodeSum, h, aloneParty, List.map_cons, List.map_nil, hdev, List.filter_cons, List.filter_nil]
  split <;> simp

theorem Reduction.result_of_alone {x : Reduction} (h : x.lay.party = aloneParty (deviceNumber s)) : (x.result s r).isSome := by
  obtain ⟨-, -, haxes, -⟩ := Layout.party_facts_of_alone h
  have hsum (c : Nat) : (x.sum s r x.lay.party.axes c).isSome := by
    rw [haxes]; exact nodeSum_of_alone h c
  simp only [Reduction.result]
  rw [if_pos]
  · rfl
  · simp [hsum]

theorem Gathering.phases_of_alone {x : Gathering} (h : x.lay.party = aloneParty dev) {d : Desc} {c : Nat}
    (hc : c / x.lay.perShare = 0) : x.phases d c = [] := by
  obtain ⟨ha, hbox, -, hnodes, -⟩ := Layout.party_facts_of_alone h
  simp [Gathering.phases, hc, ha, hbox, hnodes]

theorem Gathering.part_of_alone {x : Gathering} (h : x.lay.party = aloneParty dev) {i : InstId} {c : Nat}
    (hc : c / x.lay.perShare = 0) : (x.part s i r c).isSome := by
  obtain ⟨-, -, -, -, hshare⟩ := Layout.party_facts_of_alone h
  simp [Gathering.part, hc, hshare]

end

section
variable {s : State} {r : Run} {i : InstId} {d : Desc}

theorem entered_of_alone (h : (partyOf s r.adm.job 1).box = none) (n : Nat) : entered s r n = true := by
  have halone : partyOf s r.adm.job 1 = aloneParty (deviceNumber s) := partyAt_of_box_none h
  simp [entered, halone, aloneParty, Party.count]

section
variable (hbox : (partyOf s r.adm.job (d.param 0)).box = none) {src : Obj × Int}
  (hsrc : readerView s r.adm.image (d.opr 0).object = some src)
include hbox hsrc

/-- The reduction of a device alone is made from the seat that no box holds. -/
theorem reductionOf_of_alone :
    ∃ x, reductionOf s i r d (deviceNumber s) = some x ∧ x.lay.party = aloneParty (deviceNumber s) :=
  ⟨_, by rw [reductionOf, hsrc]; rfl, partyAt_of_box_none hbox⟩

theorem reduceSend_of_alone : reduceSend i r d s = s := by
  obtain ⟨x, hx, hparty⟩ := reductionOf_of_alone (i := i) hbox hsrc
  simp only [reduceSend, hx, Reduction.send_of_alone hparty]

theorem reduceDo_of_alone (hshadows : shadowsOf s r.adm.job = []) : (reduceDo i r d s).isSome := by
  obtain ⟨x, hx, hparty⟩ := reductionOf_of_alone (i := i) hbox hsrc
  obtain ⟨y, hy⟩ := Option.isSome_iff_exists.1 (Reduction.result_of_alone (r := r) hparty)
  simp [reduceDo, hx, Reduction.allSent_of_alone hparty, hy, hshadows]

variable (hstage : d.param 0 ≠ 2) {dst : ObjEntry} (hdst : r.adm.image.entry (d.opr 1).object = some dst)
include hstage hdst

theorem gatheringOf_of_alone : ∃ x, gatheringOf s i r d = some x ∧ x.lay.party = aloneParty (deviceNumber s) := by
  refine ⟨_, by simp only [gatheringOf, hsrc, hdst]; rfl, ?_⟩
  dsimp only
  rw [if_neg hstage]
  exact partyAt_of_box_none hbox

theorem gatherSend_of_alone : gatherSend i r d s = s := by
  obtain ⟨x, hx, hparty⟩ := gatheringOf_of_alone (i := i) hbox hsrc hstage hdst
  simp only [gatherSend, hx, if_neg hstage]
  refine List.foldlRecOn (motive := fun t => t = s) x.lay.chunks _ rfl fun t ht c hc => ?_
  rw [Gathering.phases_of_alone hparty (Layout.share_zero_of_alone hparty hc)]
  split <;> exact ht

theorem gatherDo_of_alone : (gatherDo i r d s).isSome := by
  obtain ⟨x, hx, hparty⟩ := gatheringOf_of_alone (i := i) hbox hsrc hstage hdst
  have hzero : ∀ c ∈ ((x.shares d).map x.lay.ofShare).flatten, c / x.lay.perShare = 0 := by
    simp only [List.mem_flatten, List.mem_map, Gathering.shares, List.mem_filter, List.mem_range, hparty, Party.count,
      aloneParty, List.length_singleton]
    rintro c ⟨_, ⟨share, ⟨hshare, -⟩, rfl⟩, hc⟩
    rw [Layout.share_of_mem_ofShare hc]; omega
  simp only [gatherDo, if_neg hstage, hx]
  generalize ((x.shares d).map x.lay.ofShare).flatten = cs at hzero ⊢
  have hsent : (cs.all fun c => (x.phases d c).all fun phase => wasSent s x.coll c phase) = true := by
    rw [List.all_eq_true]
    intro c hc
    rw [Gathering.phases_of_alone hparty (hzero c hc)]; rfl
  have hparts : ((cs.map fun c => (x.part s i r c).map fun p => (c, p)).all fun p => p.isSome) = true := by
    simp only [List.all_map, List.all_eq_true, Function.comp_apply, Option.isSome_map]
    exact fun c hc => Gathering.part_of_alone hparty (hzero c hc)
  simp only [hsent, hparts]
  rfl

end
end

/-! ### SLUICE_TAKE, SCALE_SYNC and BARRIER: what they wait for -/

section
variable {s : State} {r : Run} {i : InstId} {d : Desc} (hr : s.sched.run = some r)
  (hd : r.adm.image.descs[i.index]? = some d)
include hr hd

theorem exec_sluiceTake_ready (h : (takeReady s r i d).isSome = true) :
    exec (.sluiceTake i) s = done (onInstance s i 0x0C (takeDo i)) := by
  change execSluiceTake i s = _
  simp [execSluiceTake, hr, hd, h]

theorem exec_sluiceTake_waits (h : takeReady s r i d = none) : exec (.sluiceTake i) s = .next s := by
  change execSluiceTake i s = _
  simp [execSluiceTake, hr, hd, h, done]

theorem exec_barrier (h : d.jobWide = false ∨
      (entered s r (collectiveNumber r.adm.image i) = true ∧ jobRuns s r.adm.job = true)) :
    exec (.barrier i) s = done (onInstance s i 0x0F fun _ _ s => s) := by
  change execBarrier i s = _
  obtain h | ⟨he, hj⟩ := h
  · simp [execBarrier, hr, hd, h]
  · simp [execBarrier, hr, hd, he, hj]

theorem exec_barrier_waits (hw : d.jobWide = true) (h : entered s r (collectiveNumber r.adm.image i) = false) :
    exec (.barrier i) s = .next s := by
  change execBarrier i s = _
  simp [execBarrier, hr, hd, hw, h, done]

theorem exec_scaleSync (hi : i ≠ ⟨0, 0, r.adm.image.descs.length⟩)
    (hready : ∀ j ∈ r.adm.image.insts, j = i ∨ instDone r j = true)
    (h : d.jobWide = false ∨ (entered s r (collectiveNumber r.adm.image i) = true ∧ jobRuns s r.adm.job = true))
    (parts : List ScalePart) :
    exec (.scaleSync i parts) s = done (onInstance s i 0x0E fun q x t => syncScales t q.adm.ctx
      (syncEntries r.adm.image d) (!x.jobWide || contributes q) (if x.jobWide then parts else [])) := by
  change execScaleSync i parts s = _
  simp only [execScaleSync, hr, if_neg hi, hd]
  rw [if_pos]
  refine Bool.and_eq_true_iff.2 ⟨List.all_eq_true.2 fun j hj => ?_, ?_⟩
  · obtain rfl | hdone := hready j hj
    · simp
    · simp [hdone]
  · obtain h | ⟨he, hj⟩ := h
    · simp [h]
    · simp [he, hj]

end

theorem exec_scaleSync_implicit {s : State} {r : Run} (hr : s.sched.run = some r) (parts : List ScalePart)
    (hi : ⟨0, 0, r.adm.image.descs.length⟩ ∉ r.executed) (hdone : ∀ j ∈ r.adm.image.insts, instDone r j = true) :
    exec (.scaleSync ⟨0, 0, r.adm.image.descs.length⟩ parts) s = .next (markExecuted
      (syncScales s r.adm.image.ctx (implicitEntries r.adm.image) true []) ⟨0, 0, r.adm.image.descs.length⟩) := by
  change execScaleSync _ parts s = _
  simp only [execScaleSync, hr, if_true]
  rw [if_pos (by simpa [hi] using hdone)]
  rfl

theorem exec_scaleSync_implicit_waits {s : State} {r : Run} (hr : s.sched.run = some r) (parts : List ScalePart)
    (h : ⟨0, 0, r.adm.image.descs.length⟩ ∈ r.executed ∨ ∃ j ∈ r.adm.image.insts, instDone r j = false) :
    exec (.scaleSync ⟨0, 0, r.adm.image.descs.length⟩ parts) s = .next s := by
  change execScaleSync _ parts s = _
  simp only [execScaleSync, hr, if_true]
  rw [if_neg (by simpa [← or_iff_not_imp_left] using h)]
  rfl

/-! ### REDUCE and GATHER -/

section
variable {s : State} {r : Run} {i : InstId} {d : Desc} (hr : s.sched.run = some r)
  (hd : r.adm.image.descs[i.index]? = some d) (hm : startable s r i d) (hs : s.dev.state ≠ .halt)
  (hj : jobRuns s r.adm.job = true) (hend : r.mismatchEnd = false)
include hr hd hm hs hj hend

theorem exec_reduce_executes (ho : d.opcode = 0x09) (he : entered s r (collectiveNumber r.adm.image i) = true)
    (hgo : (reduceDo i r d (reduceSend i r d s)).isSome) {x : Run} (hx : (reduceSend i r d s).sched.run = some x) :
    ∃ t, exec (.reduce i) s = .next t ∧
      executes (reduceSend i r d s) x i d (fun r d s => (reduceDo i r d s).getD s) t :=
  onCollective_executes hr hd hm hs ho he hj hend hgo (reduceSend_sentOn hr) (fun _ _ _ _ => reduceDo_still) hx

theorem exec_gather_executes (ho : d.opcode = 0x0A) (he : entered s r (collectiveNumber r.adm.image i) = true)
    (hgo : (gatherDo i r d (gatherSend i r d s)).isSome) {x : Run} (hx : (gatherSend i r d s).sched.run = some x) :
    ∃ t, exec (.gather i) s = .next t ∧
      executes (gatherSend i r d s) x i d (fun r d s => (gatherDo i r d s).getD s) t :=
  onCollective_executes hr hd hm hs ho he hj hend hgo (gatherSend_sentOn hr) (fun _ _ _ _ => gatherDo_still) hx

variable (hentry : (partyOf s r.adm.job 1).box = none) (hbox : (partyOf s r.adm.job (d.param 0)).box = none)
include hentry hbox

/-- A REDUCE of a device alone sends nothing and has its data. -/
theorem exec_reduce_of_alone (ho : d.opcode = 0x09) (hshadows : shadowsOf s r.adm.job = [])
    (hview : (readerView s r.adm.image (d.opr 0).object).isSome) :
    ∃ t, exec (.reduce i) s = .next t ∧ executes s r i d (fun r d s => (reduceDo i r d s).getD s) t := by
  obtain ⟨src, hsrc⟩ := Option.isSome_iff_exists.1 hview
  have hsend : reduceSend i r d s = s := reduceSend_of_alone hbox hsrc
  have hexec := exec_reduce_executes hr hd hm hs hj hend ho (entered_of_alone hentry _) (x := r)
  rw [hsend] at hexec
  exact hexec (reduceDo_of_alone hbox hsrc hshadows) hr

/-- A GATHER of a device alone, but for a stage transfer, sends nothing and has its data. -/
theorem exec_gather_of_alone (ho : d.opcode = 0x0A) (hstage : d.param 0 ≠ 2)
    (hview : (readerView s r.adm.image (d.opr 0).object).isSome) (hdst : (r.adm.image.entry (d.opr 1).object).isSome) :
    ∃ t, exec (.gather i) s = .next t ∧ executes s r i d (fun r d s => (gatherDo i r d s).getD s) t := by
  obtain ⟨src, hsrc⟩ := Option.isSome_iff_exists.1 hview
  obtain ⟨dst, hdst⟩ := Option.isSome_iff_exists.1 hdst
  have hsend : gatherSend i r d s = s := gatherSend_of_alone hbox hsrc hstage hdst
  have hexec := exec_gather_executes hr hd hm hs hj hend ho (entered_of_alone hentry _) (x := r)
  rw [hsend] at hexec
  exact hexec (gatherDo_of_alone hbox hsrc hstage hdst) hr

end

/-! ### The instances together -/

/-- Settles O41: each command comes down to `onInstance` on a startable descriptor, once what it waits for is there. -/
theorem instancesExecute : Obligations.InstancesExecute := by
  refine ⟨fun s r i d hr hd hm hs => ?_, fun s r i d hr hd hm hs => ?_,
    fun s r parts hr => ⟨exec_scaleSync_implicit hr parts, exec_scaleSync_implicit_waits hr parts⟩⟩
  · have starts {c op go} (hc : exec c s = done (onInstance s i op go)) (ho : d.opcode = op)
        (hgo : ∀ q x t, Still t (go q x t)) := exec_executes hc hr hd hm hs ho hgo
    exact ⟨fun ho => starts rfl ho (by simp),
      fun ho hk => starts (exec_conv_grove hr hd hk) ho (by simp),
      fun ho hk hfilter horder => starts (exec_conv_sapling hr hd hk hfilter horder) ho (by simp),
      fun ho => starts rfl ho (by simp), fun ho => starts rfl ho (by simp),
      fun ho horder => starts (exec_kvAppend hr horder) ho (by simp),
      fun ho => starts rfl ho (by simp), fun ho => starts rfl ho (by simp), fun ho => starts rfl ho (by simp),
      fun ho => starts rfl ho (by simp),
      fun ho hseg => starts (exec_recompute_ready hr hd hseg) ho (by simp),
      fun _ hseg => exec_recompute_waits hr hd hseg⟩
  · refine ⟨fun ho hj hend => ⟨?_, ?_, ?_, ?_⟩, fun ho hj hend => ⟨?_, ?_, ?_, ?_⟩, fun ho => ⟨?_, ?_⟩,
      fun ho hi hready parts => ⟨?_, ?_⟩, fun ho => ⟨?_, ?_⟩⟩
    -- REDUCE
    · rintro ⟨hentry, hbox, hshadows⟩ hview -
      exact exec_reduce_of_alone hr hd hm hs hj hend hentry hbox ho hshadows hview
    · exact fun he hgo _ hx => exec_reduce_executes hr hd hm hs hj hend ho he hgo hx
    · exact fun he hgo => congrArg _ (onCollective_sends hr hd hm hs ho he hj hend hgo)
    · exact fun he => congrArg _ (onCollective_waits hr hd he)
    -- GATHER
    · rintro ⟨hentry, hbox, -⟩ hstage hview hdst -
      exact exec_gather_of_alone hr hd hm hs hj hend hentry hbox ho hstage hview hdst
    · exact fun he hgo _ hx => exec_gather_executes hr hd hm hs hj hend ho he hgo hx
    · exact fun he hgo => congrArg _ (onCollective_sends hr hd hm hs ho he hj hend hgo)
    · exact fun he => congrArg _ (onCollective_waits hr hd he)
    -- SLUICE_TAKE
    · exact fun h _ => exec_executes (exec_sluiceTake_ready hr hd h) hr hd hm hs ho (by simp)
    · exact exec_sluiceTake_waits hr hd
    -- SCALE_SYNC, of this device alone and of the job
    · exact fun hw _ => exec_executes_as (exec_scaleSync hr hd hi hready (.inl hw) parts) hr hd hm hs ho (by simp)
        fun q t hq => by simp [hq, hw]
    · exact fun hw he hj _ => exec_executes_as (exec_scaleSync hr hd hi hready (.inr ⟨he, hj⟩) parts) hr hd hm hs ho (by simp)
        fun q t hq => by simp [hq, hw]
    -- BARRIER
    · exact fun h _ => exec_executes (exec_barrier hr hd h) hr hd hm hs ho (by simp)
    · exact exec_barrier_waits hr hd

end Sys2Proof.Machine
end

section
/-!
PROOFS. Instances of the running step: what they wait for (R55 to R59, R246), and a REDUCE that sends on what it can and then
waits for another device, which leaves the step neither as it was nor with the REDUCE executed (R281, R285).
-/

namespace Sys2Proof.Machine

/-! ### Instances that may not start -/

section
variable {s : State} {r : Run} {i : InstId} {d : Desc} (hr : s.sched.run = some r)
  (hd : r.adm.image.descs[i.index]? = some d) (hm : mayStart s r i d = false)
include hr hd hm

theorem onInstance_of_not_mayStart (op : Nat) (go : Run → Desc → State → State) : onInstance s i op go = s := by
  simp [onInstance, hr, hd, hm]

theorem onCollective_of_not_mayStart (op : Nat) (send : Run → Desc → State → State) (go : Run → Desc → State → Option State) :
    onCollective i op send go s = s := by
  simp [onCollective, hr, hd, hm]

theorem exec_conv_of_not_mayStart : exec (.conv i) s = .next s := by
  change execConv i s = _
  simp [execConv, hr, hd, onInstance_of_not_mayStart hr hd hm, done]

theorem exec_kvAppend_of_not_mayStart : exec (.kvAppend i) s = .next s := by
  change execKvAppend i s = _
  simp [execKvAppend, hr, onInstance_of_not_mayStart hr hd hm, done]

theorem exec_sluiceTake_of_not_mayStart : exec (.sluiceTake i) s = .next s := by
  change execSluiceTake i s = _
  simp [execSluiceTake, hr, hd, onInstance_of_not_mayStart hr hd hm, done]

theorem exec_recompute_of_not_mayStart : exec (.recompute i) s = .next s := by
  change execRecompute i s = _
  cases h : segmentReady i r d s <;> simp [execRecompute, hr, hd, h, onInstance_of_not_mayStart hr hd hm, done]

theorem exec_barrier_of_not_mayStart : exec (.barrier i) s = .next s := by
  change execBarrier i s = _
  simp [execBarrier, hr, hd, onInstance_of_not_mayStart hr hd hm, done]

end

/-- Nothing may start before the context switch, twice, ahead of a predecessor, or in a dropped micro-batch. -/
theorem mayStart_of_not_turn {s : State} {r : Run} {i : InstId} {d : Desc}
    (h : r.switched = false ∨ i ∈ r.executed ∨ (∃ j ∈ predsOf r.adm.image i, instDone r j = false) ∨
      ((mbLoopOf r.adm.image d).isSome ∧ i.mb ∈ r.dropped)) : mayStart s r i d = false := by
  rw [Bool.eq_false_iff, ne_eq, mayStart_iff]
  rintro ⟨hswitched, -, hexecuted, hdropped, -, hpreds, -⟩
  obtain h | h | ⟨j, hj, h⟩ | h := h
  · simp [h] at hswitched
  · exact hexecuted h
  · simp [hpreds j hj] at h
  · exact hdropped h

/-- Settles O43: each command comes down to `onInstance` or `onCollective`, which do nothing where `mayStart` is false. -/
theorem instancesWaitTheirTurn : Obligations.InstancesWaitTheirTurn := by
  intro s r i d c hr hd hc h
  have hm : mayStart s r i d = false := mayStart_of_not_turn h
  have hinst (op go) : done (onInstance s i op go) = .next s := congrArg _ (onInstance_of_not_mayStart hr hd hm op go)
  have hcoll (op send go) : done (onCollective i op send go s) = .next s :=
    congrArg _ (onCollective_of_not_mayStart hr hd hm op send go)
  simp only [List.mem_cons, List.not_mem_nil, or_false] at hc
  obtain rfl | rfl | rfl | rfl | rfl | rfl | rfl | rfl | rfl | rfl | rfl | rfl | rfl | rfl := hc
  exacts [hinst _ _, exec_conv_of_not_mayStart hr hd hm, hinst _ _, hinst _ _, exec_kvAppend_of_not_mayStart hr hd hm,
    hinst _ _, hinst _ _, hinst _ _, hcoll _ _ _, hcoll _ _ _, hinst _ _, exec_sluiceTake_of_not_mayStart hr hd hm,
    exec_recompute_of_not_mayStart hr hd hm, exec_barrier_of_not_mayStart hr hd hm]

/-! ### A REDUCE that waits for another device -/

/-- An F32 object of two tiles. -/
def twoTiles : ObjEntry :=
  ⟨5, .f32, 2, .activation, false, 0, false, false, false, false, false, 0, 0, [128, 128, 1, 1, 1]⟩

/-- A REDUCE of object 5 into itself across the nodes of the job. -/
def reduceAcross : Desc :=
  ⟨0x09, false, false, noLoop, 0, [], 0, 0xFFFF, [⟨5, 0, 0, 0⟩, ⟨5, 0, 0, 0⟩, ⟨noObject, 0, 0, 0⟩, ⟨noObject, 0, 0, 0⟩],
    [1, 0, 0, 0, 0, 0, 0, 0]⟩

/-- A step of job 1 on context 0 with that REDUCE alone, past the context switch and the entry round. -/
def reduceRun : Run :=
  { adm := ⟨1, 0, 1, ⟨0, 1, 256, noLoop, 0, [twoTiles], [], [reduceAcross], [], [], [], []⟩, 1000, 1000, false, false, false, false,
      0, 0, 0, 0, 0x1403, [0, 0, 0, 0, 0, 0], false, [], 0, 0, 0, 0, 0, []⟩
    started := 0
    switched := true
    entered := 1 }

/-- The first of two nodes of job 1, in SERVICE with that step running; no chunk has come from the other. -/
def awaitingPeer : State :=
  { State.reset with
    dev := { State.reset.dev with state := .service, stage := 4 }
    cfg := State.reset.cfg.set 3 { value := 1, force := 1 }
    ctxs := [{ number := 0, objects := [{ entry := twoTiles }] }]
    jobs := [{ number := 1, box := some ⟨1, 0, 0, 0, 2, 1, 1, 0x80, 0⟩ }]
    sched := { State.reset.sched with run := some reduceRun } }

/-- The REDUCE sends chunk 1, which belongs to the other device, and waits for that device's part of its own chunk. -/
theorem exec_reduce_awaitingPeer :
    exec (.reduce ⟨0, 0, 0⟩) awaitingPeer = .next (reduceSend ⟨0, 0, 0⟩ reduceRun reduceAcross awaitingPeer) := by
  have hstart : startable awaitingPeer reduceRun ⟨0, 0, 0⟩ reduceAcross := mayStart_iff.1 (by decide +kernel)
  have hwaits : reduceDo ⟨0, 0, 0⟩ reduceRun reduceAcross (reduceSend ⟨0, 0, 0⟩ reduceRun reduceAcross awaitingPeer) = none :=
    Option.isNone_iff_eq_none.1 (by decide +kernel)
  exact congrArg _ (onCollective_sends rfl rfl hstart (by decide) rfl (by decide +kernel) (by decide +kernel) rfl hwaits)

theorem reduceSend_awaitingPeer :
    (reduceSend ⟨0, 0, 0⟩ reduceRun reduceAcross awaitingPeer).sched.run.map (fun r => (r.executed, r.sent)) =
      some ([], [(0, 1, 1)]) := by decide +kernel

/-- Refutes O42: a REDUCE that has sent a chunk on and waits for the other device has not executed, and the state is not what it
was. -/
theorem not_instancesLeaveTheRest : ¬ Obligations.InstancesLeaveTheRest := by
  intro h
  have hkeeps := h.1 awaitingPeer _ ⟨0, 0, 0⟩ (.reduce ⟨0, 0, 0⟩) (.inl (by simp)) exec_reduce_awaitingPeer
  have hrun := reduceSend_awaitingPeer
  generalize reduceSend ⟨0, 0, 0⟩ reduceRun reduceAcross awaitingPeer = t at hkeeps hrun
  obtain ⟨-, -, -, -, -, -, -, -, -, -, -, -, -, -, -, hexecuted | rfl⟩ := hkeeps
  · have hnone : t.sched.run.map (fun r => r.executed) = some [] := by simpa using congrArg (Option.map Prod.fst) hrun
    simp [hnone, awaitingPeer] at hexecuted
  · cases hrun

end Sys2Proof.Machine
end

section
/-!
PROOFS. What a change of one entry leaves of the contexts, the jobs and the step-status records.
-/

namespace Sys2Proof.Machine

/-! ### The first entry that meets a test -/

section
variable {α : Type} {p q : α → Bool} {f : α → α}

theorem find?_modifyWhere_same (hf : ∀ x, p x = true → p (f x) = true) (l : List α) :
    (modifyWhere p f l).find? p = (l.find? p).map f := by
  induction l with
  | nil => rfl
  | cons x l ih => cases h : p x <;> simp [modifyWhere, h, hf, ih]

theorem find?_modifyWhere_other (hq : ∀ x, p x = true → q x = false) (hf : ∀ x, p x = true → q (f x) = false)
    (l : List α) : (modifyWhere p f l).find? q = l.find? q := by
  induction l with
  | nil => rfl
  | cons x l ih => cases h : p x <;> simp [modifyWhere, List.find?_cons, h, hq, hf, ih]

end

theorem modifyWhere_length {α : Type} (p : α → Bool) (f : α → α) (l : List α) : (modifyWhere p f l).length = l.length := by
  induction l with
  | nil => rfl
  | cons x l ih => unfold modifyWhere; split <;> simp [ih]

theorem mem_modifyWhere {α : Type} {p : α → Bool} {f : α → α} {l : List α} {y : α} (h : y ∈ modifyWhere p f l) :
    y ∈ l ∨ ∃ x ∈ l, y = f x := by
  induction l with
  | nil => exact .inl h
  | cons x l ih =>
    unfold modifyWhere at h
    split at h
    · obtain rfl | h := List.mem_cons.1 h
      · exact .inr ⟨x, by simp, rfl⟩
      · exact .inl (List.mem_cons_of_mem x h)
    · obtain rfl | h := List.mem_cons.1 h
      · exact .inl (by simp)
      · obtain h | ⟨z, hz, rfl⟩ := ih h
        · exact .inl (List.mem_cons_of_mem x h)
        · exact .inr ⟨z, List.mem_cons_of_mem x hz, rfl⟩

/-! ### Contexts, jobs and records -/

section
variable {s : State} {k : Nat}

theorem ctxAt_setCtx_same {f : Context → Context} (hf : ∀ c, (f c).number = c.number) :
    ctxAt (setCtx s k f) k = (ctxAt s k).map f :=
  find?_modifyWhere_same (by simp [hf]) s.ctxs

theorem ctxAt_setCtx_other {n : Nat} {f : Context → Context} (hf : ∀ c, (f c).number = c.number) (h : n ≠ k) :
    ctxAt (setCtx s k f) n = ctxAt s n :=
  find?_modifyWhere_other (by simp +contextual [Ne.symm h]) (by simp +contextual [hf, Ne.symm h]) s.ctxs

theorem jobAt_setJob {f : Job → Job} (hf : ∀ j, (f j).number = j.number) :
    jobAt (setJob s k f) k = some (f ((jobAt s k).getD { number := k })) := by
  unfold setJob
  cases hj : jobAt s k with
  | some j => exact (find?_modifyWhere_same (by simp [hf]) s.jobs).trans (congrArg (Option.map f) hj)
  | none =>
    have hnone : s.jobs.find? (fun x => x.number == k) = none := hj
    simp [jobAt, List.find?_append, hnone, hf]

theorem find?_setRecord {job step : Nat} {f : StepRec → StepRec} (hf : ∀ x, (f x).job = x.job ∧ (f x).step = x.step) :
    (setRecord s job step f).sched.records.find? (fun x => x.job == job && x.step == step) =
      (s.sched.records.find? fun x => x.job == job && x.step == step).map f :=
  find?_modifyWhere_same (by simp [hf]) s.sched.records

end

end Sys2Proof.Machine
end

section
/-!
PROOFS. LOAD_IMAGE (R45, R231, R332, R415): a valid image's context, what keeping an image leaves, and the four ends of the command.
-/

namespace Sys2Proof.Machine

/-! ### An image that passes every check -/

theorem firstOffset_concat (l : List (Nat × Bool)) {x : Nat × Bool} (h : x.2 = false) : firstOffset (l ++ [x]) = firstOffset l := by
  simp [firstOffset, h]

theorem firstOffset_concat_isSome (l : List (Nat × Bool)) {x : Nat × Bool} (h : x.2 = true) : (firstOffset (l ++ [x])).isSome := by
  simp only [firstOffset, List.foldl_append, List.foldl_cons, List.foldl_nil, h]
  split
  · contradiction
  · split <;> rfl

theorem firstOffset_eq_none {l : List (Nat × Bool)} (h : firstOffset l = none) : ∀ x ∈ l, x.2 = false := by
  induction l using List.reverseRecOn with
  | nil => simp
  | append_singleton l x ih =>
    cases hx : x.2 with
    | true => exact absurd (firstOffset_concat_isSome l hx) (by simp [h])
    | false =>
      rw [firstOffset_concat l hx] at h
      simpa [or_imp, forall_and, hx] using ih h

/-- A valid image is one of the context that loads it. -/
theorem parseImage_ctx {n : Nat} {b : List Byte} {ctx len : Nat} {known : List Obj} (h : imageBad n b ctx len known = none) :
    (parseImage b).ctx = ctx := by
  have hheader : headerBad ctx len ⟨recAt b 0 128⟩ = none := by
    unfold imageBad at h
    dsimp only at h
    split at h
    · cases h
    · assumption
  have hall := firstOffset_eq_none (Option.map_eq_none_iff.1 hheader)
  simpa [parseImage] using hall (6, bits (recAt b 0 128) 63 48 != ctx) (by simp)

/-! ### What keeping an image leaves -/

theorem room_of_le {s : State} {need : Nat} (h : need ≤ poolFree s) : room s need = some s := by
  unfold room
  cases (evictables s).length <;> simp [makeRoom, h]

/-- Publishing a plan changes jobs alone. -/
theorem publishPlan_jobs (s : State) (img : Image) : ∃ jobs, publishPlan s img = { s with jobs } := by
  unfold publishPlan setJob
  repeat' split
  all_goals exact ⟨_, rfl⟩

/-- The context of an image's job without the image, and then with it. -/
def Context.kept (c : Context) (img : Image) : Context :=
  { c with images := img :: (c.images.filter fun i => i.job != img.job).filter fun i => i.job != img.job
           scales := keptScales c img
           objects := c.objects ++ (newObjects c img).map fun e => { entry := e, inT1 := e.tier != 2 }
           cache := c.cache.filter fun x => x.1 != img.job }

theorem ctxAt_keepImage {s : State} {k : Nat} {c : Context} {img : Image} (hc : ctxAt s k = some c) (himg : img.ctx = k) :
    ctxAt (keepImage (withoutImage s k img.job) img) k = some (c.kept img) := by
  subst himg
  rw [keepImage, ctxAt_setCtx_same, withoutImage, ctxAt_setCtx_same, hc]
  · rfl
  all_goals exact fun _ => rfl

theorem ctxAt_keepImage_other {s : State} {k n job : Nat} {img : Image} (himg : img.ctx = k) (h : n ≠ k) :
    ctxAt (keepImage (withoutImage s k job) img) n = ctxAt s n := by
  subst himg
  rw [keepImage, ctxAt_setCtx_other _ h, withoutImage, ctxAt_setCtx_other _ h]
  all_goals exact fun _ => rfl

/-! ### The ends of the command -/

/-- What LOAD_IMAGE has found when it fetches: the request, its context, Bus Master set and the link up. -/
structure LoadReady (m : Nat) (s : State) (w : Work) (c : Context) : Prop where
  work : workOf s m 0x0501 = some w
  fields : loadBad s w = none
  ctx : ctxAt s w.ctx = some c
  busMaster : s.link.busMaster = true
  up : s.link.up = true

section
variable {m : Fin 64} {s u : State} {w : Work} {c : Context} {b : List Byte} (h : LoadReady m s w c)
include h

theorem LoadReady.exec_bytes (hlen : b.length = (loadPayload w.page).2.2) :
    exec (.loadImage m (.bytes b)) s = .next (keepFetched s m w b c) := by
  change execLoadImage m (.bytes b) s = _
  simp [execLoadImage, h.work, h.fields, h.ctx, h.busMaster, h.up, hlen, done]

theorem LoadReady.exec_error {region : Region} (hregion : regionAt s (loadPayload w.page).1 = some region) (cause : Nat) :
    exec (.loadImage m (.error cause)) s = .next (finished
      (accessError s cause (region.address + (loadPayload w.page).2.1)) m w St.invalidField [] 64 0) := by
  have hwork : (mbxAt (accessError s cause (region.address + (loadPayload w.page).2.1)) m).work = some w :=
    (workOf_some h.work).1
  change execLoadImage m (.error cause) s = _
  simp only [execLoadImage, h.work, h.fields, h.ctx, h.busMaster, h.up, hregion, done]
  simp [refuse_eq hwork, refusalPayload, (workOf_some h.work).2.1]

theorem LoadReady.keeps (hbad : imageBad (inService s).length b w.ctx b.length c.objects = none)
    (hroom : room (withoutImage s w.ctx (parseImage b).job) (loadNeed c (parseImage b)) = some u) :
    keepFetched s m w b c =
      finished (publishPlan (keepImage u (parseImage b)) (parseImage b)) m w St.ok [] 0 0 := by
  have hmbx : (publishPlan (keepImage u (parseImage b)) (parseImage b)).mbx = s.mbx :=
    (Still.trans (Still.trans (by simp) (room_still hroom)) (by simp)).mbx
  have hwork : (mbxAt (publishPlan (keepImage u (parseImage b)) (parseImage b)) m).work = some w := by
    rw [mbxAt, hmbx]; exact (workOf_some h.work).1
  simp only [keepFetched, hbad, hroom]
  exact respond_eq hwork ..

theorem LoadReady.refuses_room (hbad : imageBad (inService s).length b w.ctx b.length c.objects = none)
    (hroom : room (withoutImage s w.ctx (parseImage b).job) (loadNeed c (parseImage b)) = none) :
    keepFetched s m w b c = finished s m w St.refusedResource [] 0 0 := by
  simp only [keepFetched, hbad, hroom]
  exact refuse_of_workOf h.work (by decide) ..

theorem LoadReady.refuses_image {x : ImgBad} (hbad : imageBad (inService s).length b w.ctx b.length c.objects = some x) :
    keepFetched s m w b c = finished s m w x.2.2 (imageWord (inService s).length (parseImage b) x) (imgDetail x) 0 := by
  simp only [keepFetched, hbad]
  exact respond_of_workOf h.work ..

end

theorem mbxAt_finished {s : State} {m : Nat} {w : Work} {status : Nat} {p : Resp} {d e : Nat} (h : m < s.mbx.length) :
    (mbxAt (finished s m w status p d e) m).header.status = status ∧ (mbxAt (finished s m w status p d e) m).work = none := by
  simp [mbxAt, finished_mbx, at', h, answerHeader]

/-- Settles O15: the fetched image ends the command in one of three ways, and one that fits without eviction is kept. -/
theorem loadedImageIsKept : Obligations.LoadedImageIsKept := by
  intro m s w c hwork hfields hc hbusMaster hup
  have h : LoadReady m s w c := ⟨hwork, hfields, hc, hbusMaster, hup⟩
  refine ⟨fun b hlen => ?_, fun cause region hregion => h.exec_error hregion cause⟩
  dsimp only
  rw [h.exec_bytes hlen]
  refine ⟨fun hbad hfits => ?_, fun hbad u hroom => congrArg _ (h.keeps hbad hroom),
    fun hbad hroom => congrArg _ (h.refuses_room hbad hroom), fun x hbad => congrArg _ (h.refuses_image hbad)⟩
  have himg : (parseImage b).ctx = w.ctx := parseImage_ctx hbad
  obtain ⟨jobs, hjobs⟩ := publishPlan_jobs (keepImage (withoutImage s w.ctx (parseImage b).job) (parseImage b)) (parseImage b)
  have hctx := ctxAt_keepImage hc himg
  rw [h.keeps hbad (room_of_le hfits), hjobs]
  have hdone := mbxAt_finished (w := w) (status := St.ok) (p := []) (d := 0) (e := 0)
    (s := { keepImage (withoutImage s w.ctx (parseImage b).job) (parseImage b) with jobs }) (work_lt (workOf_some hwork).1)
  refine ⟨_, _, rfl, hdone.1, hdone.2, ?_, hctx, ?_, ?_, fun k hk => ctxAt_keepImage_other himg hk, rfl, rfl, rfl⟩
  · exact (congrArg (Option.bind · _) hctx).trans (by simp [Context.kept])
  · exact fun o ho => List.mem_append_left _ ho
  · exact fun e he => List.mem_append_right _ (List.mem_map_of_mem he)

end Sys2Proof.Machine
end

section
/-!
PROOFS. INSTANCE_COMPLETE (R55, R80, R201, R223, R373): what an answer and a fatal error leave, and how instances complete with the
errors that they met.
-/

namespace Sys2Proof.Machine

/-! ### What shared operations leave -/

/-- What every step of a fold keeps, the fold keeps. -/
theorem foldl_keeps {α β : Type} {f : State → α → State} (g : State → β) (h : ∀ t x, g (f t x) = g t) (s : State)
    (l : List α) : g (l.foldl f s) = g s :=
  List.foldlRecOn (motive := fun t => g t = g s) l f rfl fun t ht x _ => (h t x).trans ht

/-- An answer reaches its mailbox and the message to the host alone. -/
theorem respond_mbx_link (s : State) (m status : Nat) (p : Resp) (d e : Nat) :
    ∃ mbx link, respond s m status p d e = { s with mbx, link } := by
  cases hw : (mbxAt s m).work with
  | none => exact ⟨s.mbx, s.link, respond_none hw ..⟩
  | some w => exact ⟨_, _, respond_eq hw ..⟩

theorem refuse_mbx_link (s : State) (m status d : Nat) : ∃ mbx link, refuse s m status d = { s with mbx, link } :=
  respond_mbx_link ..

theorem haltCommands_dev_sched (s : State) :
    (haltCommands s).dev = s.dev ∧ (haltCommands s).sched = s.sched := by
  have h : ((haltCommands s).dev, (haltCommands s).sched) = (s.dev, s.sched) := by
    refine foldl_keeps (fun t => (t.dev, t.sched)) (fun t m => ?_) s _
    obtain ⟨mbx, link, h⟩ := refuse_mbx_link t m St.halted 0
    rw [h]
  simpa using h

theorem voidRecords_dev (s : State) (cause : Nat) (l : List Admitted) (seen : List Nat) :
    (voidRecords s cause l seen).dev = s.dev := by
  induction l generalizing s seen with
  | nil => rfl
  | cons a l ih => unfold voidRecords; split <;> simp [ih]

theorem voidSteps_dev (s : State) (cause : Nat) (hit : Admitted → Bool) : (voidSteps s cause hit).dev = s.dev := by
  unfold voidSteps; dsimp only; split
  · rfl
  · simp only [deviceEvent_keeps, voidRecords_dev]
    refine (foldl_keeps State.dev (fun t x => ?_) _ _).trans rfl
    simp

/-- Outside OFF and HALT a fatal error leaves the device in HALT with its code and no step in hand (R373). -/
theorem fatalWith_halts {answer : Bool} {severity : Nat} {s : State} {code source p q u v : Nat} (hoff : s.dev.state ≠ .off)
    (hhalt : s.dev.state ≠ .halt) :
    let t := fatalWith answer severity s code source p q u v
    t.dev.state = .halt ∧ t.dev.lastFatal = code ∧ t.sched.run = none ∧ t.sched.queue = [] := by
  have hrecords (u : State) (l : List Admitted) (f : StepRec → StepRec) :
      (l.foldl (fun u a => setRecord u a.job a.step f) u).dev = u.dev := foldl_keeps State.dev (fun t x => by simp) u l
  dsimp only
  unfold fatalWith
  split
  · contradiction
  · contradiction
  · dsimp only
    split <;> split <;> simp [haltCommands_dev_sched, stopIslands, stopPorts, hrecords, voidSteps_dev]

/-! ### INSTANCE_COMPLETE -/

/-- `s` with i among the complete instances of the running step, and what that makes visible. -/
def markComplete (s : State) (r : Run) (i : InstId) : State :=
  setRun (match r.adm.image.descs[i.index]? with | some d => completeEffect s r i d | none => s) fun r =>
    { r with complete := i :: r.complete }

theorem markComplete_of_plain {s : State} {r : Run} {i : InstId} {d : Desc} (hd : r.adm.image.descs[i.index]? = some d)
    (hop : d.opcode ∉ [5, 8, 12]) : markComplete s r i = setRun s fun r => { r with complete := i :: r.complete } := by
  have hplain : completeEffect s r i d = s := by
    simp only [List.mem_cons, List.not_mem_nil, or_false, not_or] at hop
    obtain ⟨happend, hupdate, htake⟩ := hop
    unfold completeEffect
    split
    · contradiction
    · contradiction
    · contradiction
    · rfl
  rw [markComplete, hd]
  exact congrArg (setRun · _) hplain

theorem markComplete_run {s : State} {r : Run} (i : InstId) (hr : s.sched.run = some r) :
    ∃ r', (markComplete s r i).sched.run = some r' ∧ r'.complete = i :: r.complete ∧ r'.executed = r.executed ∧
      r'.adm = r.adm ∧ (markComplete s r i).sched.queue = s.sched.queue ∧ (markComplete s r i).dev = s.dev := by
  obtain ⟨t, ht, hstill⟩ : ∃ t, markComplete s r i = setRun t (fun r => { r with complete := i :: r.complete }) ∧ Still s t := by
    refine ⟨_, rfl, ?_⟩
    split <;> simp
  have hadm := hstill.adm
  have hexecuted := hstill.executed
  have hcomplete := hstill.complete
  simp only [hr, Option.map_some, Option.map_eq_some_iff] at hadm hexecuted hcomplete
  obtain ⟨x, hx, hadm⟩ := hadm
  simp only [hx, Option.some.injEq, exists_eq_left'] at hexecuted hcomplete
  rw [ht]
  exact ⟨{ x with complete := i :: x.complete }, by simp [setRun, hx], by rw [hcomplete], hexecuted, hadm, hstill.queue, hstill.dev⟩

section
variable {s : State} {r : Run} {i : InstId} (hr : s.sched.run = some r)
include hr

theorem exec_instanceComplete_unchanged (h : i ∉ r.executed ∨ i ∈ r.complete) (met : List HwFault) :
    exec (.instanceComplete ⟨i, met⟩) s = .next s := by
  change execInstanceComplete ⟨i, met⟩ s = _
  obtain h | h := h <;> simp [execInstanceComplete, hr, h, done]

variable (hexecuted : i ∈ r.executed) (hcomplete : i ∉ r.complete)
include hexecuted hcomplete

/-- Errors that leave the device working do not keep i from being complete. -/
theorem exec_instanceComplete_completes {met : List HwFault} (h : (met.foldl (meetFault i.index) s).dev.state ≠ .halt) :
    exec (.instanceComplete ⟨i, met⟩) s = .next (markComplete (met.foldl (meetFault i.index) s) r i) := by
  change execInstanceComplete ⟨i, met⟩ s = _
  simp only [execInstanceComplete, hr, done]
  rw [if_neg (by simp [hexecuted, hcomplete]), if_neg h]
  rfl

/-- With a fatal error among those met, the step is over before i is complete. -/
theorem exec_instanceComplete_halts {met : List HwFault} (h : (met.foldl (meetFault i.index) s).dev.state = .halt) :
    exec (.instanceComplete ⟨i, met⟩) s = .next (met.foldl (meetFault i.index) s) := by
  change execInstanceComplete ⟨i, met⟩ s = _
  simp only [execInstanceComplete, hr, done]
  rw [if_neg (by simp [hexecuted, hcomplete]), if_pos h]

end

section
variable {s : State} (hhalt : s.dev.state ≠ .halt)
include hhalt

theorem meetFault_onDie (index : Nat) (k : Fin 16) :
    meetFault index s (.onDie k) = { s with hbm := s.hbm.modify k fun x => { x with onDie := x.onDie + 1 } } :=
  if_neg hhalt

theorem meetFault_lode (index : Nat) (k : Fin 16) (function : Nat) :
    meetFault index s (.lode k function) = fatal s 0x0266 (islandLode k) function index 0 0 := if_neg hhalt

theorem meetFault_controller (index : Nat) (k : Fin 16) :
    meetFault index s (.controller k) = lossFatal s (islandStack k) := if_neg hhalt

end

section
variable {s : State} {r : Run} {i : InstId} (hr : s.sched.run = some r) (hexecuted : i ∈ r.executed) (hcomplete : i ∉ r.complete)
  (hoff : s.dev.state ≠ .off) (hhalt : s.dev.state ≠ .halt)
include hr hexecuted hcomplete hoff hhalt

theorem exec_instanceComplete_lode (k : Fin 16) (function : Nat) :
    ∃ t, exec (.instanceComplete ⟨i, [.lode k function]⟩) s = .next t ∧ t.dev.state = .halt ∧ t.dev.lastFatal = 0x0266 ∧
      t.sched.run = none ∧ t.sched.queue = [] := by
  have hmet : [HwFault.lode k function].foldl (meetFault i.index) s = fatal s 0x0266 (islandLode k) function i.index 0 0 :=
    meetFault_lode hhalt i.index k function
  have hends := fatalWith_halts (answer := true) (severity := 4) (code := 0x0266) (source := islandLode k) (p := function)
    (q := i.index) (u := 0) (v := 0) hoff hhalt
  exact ⟨_, exec_instanceComplete_halts hr hexecuted hcomplete (by rw [hmet]; exact hends.1), by rwa [hmet]⟩

theorem exec_instanceComplete_controller (k : Fin 16) :
    ∃ t, exec (.instanceComplete ⟨i, [.controller k]⟩) s = .next t ∧ t.dev.state = .halt ∧ t.sched.run = none := by
  have hmet : [HwFault.controller k].foldl (meetFault i.index) s = lossFatal s (islandStack k) :=
    meetFault_controller hhalt i.index k
  obtain ⟨hstate, -, hrun, -⟩ : (lossFatal s (islandStack k)).dev.state = .halt ∧ _ :=
    fatalWith_halts (s := (freshValue s 21).2) hoff hhalt
  exact ⟨_, exec_instanceComplete_halts hr hexecuted hcomplete (by rwa [hmet]), by rwa [hmet], by rwa [hmet]⟩

end

end Sys2Proof.Machine
end

section
/-!
PROOFS. STEP_COMPLETE (R62, R86, R88, R231, R349, R353): what the boundary of a step leaves, and what the end of a step makes of its
job, its context and its record.
-/

namespace Sys2Proof.Machine

/-! ### What the boundary of a step leaves (R353) -/

/-- The objects of a context are the persistent ones, and none is in the middle of an update. -/
def AtRest (s : State) (k : Nat) : Prop :=
  ∀ c, ctxAt s k = some c → ∀ o ∈ c.objects, Role.persistent o.entry.role = true ∧ o.other = none

/-- What the boundary of a step keeps of a state in which no step runs. -/
structure BoundaryKeeps (s t : State) : Prop where
  jobs : t.jobs = s.jobs
  records : t.sched.records = s.sched.records
  current : t.sched.current = s.sched.current
  queue : t.sched.queue.map (fun a => (a.job, a.step, a.promise)) = s.sched.queue.map (fun a => (a.job, a.step, a.promise))
  run : s.sched.run = none → t.sched.run = none
  vec : s.vec = [] → t.vec = []
  atRest : ∀ k, AtRest s k → AtRest t k

namespace BoundaryKeeps

theorem refl (s : State) : BoundaryKeeps s s := ⟨rfl, rfl, rfl, rfl, id, id, fun _ => id⟩

theorem trans {s t u : State} (a : BoundaryKeeps s t) (b : BoundaryKeeps t u) : BoundaryKeeps s u :=
  ⟨b.jobs.trans a.jobs, b.records.trans a.records, b.current.trans a.current, b.queue.trans a.queue, b.run ∘ a.run,
    b.vec ∘ a.vec, fun k => b.atRest k ∘ a.atRest k⟩

theorem foldl {α : Type} {f : State → α → State} (h : ∀ t x, BoundaryKeeps t (f t x)) (s : State) (l : List α) :
    BoundaryKeeps s (l.foldl f s) :=
  List.foldlRecOn l f (refl s) fun t ht x _ => ht.trans (h t x)

/-- An operation that leaves the jobs, the schedule, the engines and the contexts alone. -/
theorem of_eq {s t : State} (jobs : t.jobs = s.jobs) (sched : t.sched = s.sched) (vec : t.vec = s.vec) (ctxs : t.ctxs = s.ctxs) :
    BoundaryKeeps s t :=
  ⟨jobs, by rw [sched], by rw [sched], by rw [sched], fun h => by rw [sched, h], fun h => by rw [vec, h],
    fun k h c hc => h c (by rwa [ctxAt, ctxs] at hc)⟩

end BoundaryKeeps

section
variable (s : State)

theorem tally_boundaryKeeps (a b c p q r t : Nat) : BoundaryKeeps s (tally s a b c p q r t) := .of_eq rfl rfl rfl rfl

theorem setGrove_boundaryKeeps (g : Nat) (f : Grove → Grove) : BoundaryKeeps s (setGrove s g f) := .of_eq rfl rfl rfl rfl

theorem mapGrove_boundaryKeeps (g : Nat) (f : GroveMap → GroveMap) : BoundaryKeeps s (mapGrove s g f) := .of_eq rfl rfl rfl rfl

theorem respond_boundaryKeeps (m status : Nat) (p : Resp) (d e : Nat) : BoundaryKeeps s (respond s m status p d e) := by
  obtain ⟨mbx, link, h⟩ := respond_mbx_link s m status p d e
  rw [h]; exact .of_eq rfl rfl rfl rfl

theorem retireGrove_boundaryKeeps (g : Nat) : BoundaryKeeps s (retireGrove s g) :=
  ⟨rfl, rfl, rfl, rfl, id, fun h => by simp [retireGrove, h], fun _ => id⟩

theorem replaceGrove_boundaryKeeps (f : Run → Run) (g spare : Nat) : BoundaryKeeps s { setRun s f with
    sched := { (setRun s f).sched with queue := (setRun s f).sched.queue.map fun a => a.replaceGrove g spare } } :=
  ⟨rfl, rfl, rfl, by simp [setRun, Admitted.replaceGrove, Function.comp_def], fun h => by simp [setRun, h], id, fun _ => id⟩

theorem takeOver_boundaryKeeps (g spare step : Nat) : BoundaryKeeps s (takeOver s g spare step) :=
  ((((retireGrove_boundaryKeeps s g).trans (setGrove_boundaryKeeps ..)).trans (mapGrove_boundaryKeeps ..)).trans
    (replaceGrove_boundaryKeeps ..)).trans (tally_boundaryKeeps ..)

theorem settleGrove_boundaryKeeps (step g : Nat) : BoundaryKeeps s (settleGrove step s g) := by
  unfold settleGrove
  split
  · exact takeOver_boundaryKeeps ..
  · split
    · exact .refl s
    · split
      · exact retireGrove_boundaryKeeps ..
      · split
        · exact (retireGrove_boundaryKeeps ..).trans (tally_boundaryKeeps ..)
        · exact setGrove_boundaryKeeps ..

theorem retireIdle_boundaryKeeps (x : Nat × Nat) : BoundaryKeeps s (retireIdle s x) := by
  unfold retireIdle; split
  · exact retireGrove_boundaryKeeps ..
  · exact .refl s

theorem tally_islands_boundaryKeeps (a b c p q r t : Nat) (islands : Islands) :
    BoundaryKeeps s { tally s a b c p q r t with islands } := .of_eq rfl rfl rfl rfl

theorem answerRetire_boundaryKeeps (x : Nat × Nat) : BoundaryKeeps s (answerRetire s x) := by
  unfold answerRetire; split
  · exact (tally_islands_boundaryKeeps ..).trans (respond_boundaryKeeps ..)
  · exact .refl s

theorem saveChecker_boundaryKeeps (g : Nat) : BoundaryKeeps s (saveChecker s g) := by
  unfold saveChecker; dsimp only; split
  · exact .refl s
  · exact mapGrove_boundaryKeeps ..

theorem groveBoundary_boundaryKeeps (step : Nat) : BoundaryKeeps s (groveBoundary s step) := by
  refine .trans ?_ (.foldl saveChecker_boundaryKeeps _ _)
  refine .trans ?_ (.foldl answerRetire_boundaryKeeps _ _)
  refine .trans ?_ (.foldl retireIdle_boundaryKeeps _ _)
  exact .foldl (fun t g => settleGrove_boundaryKeeps t step g) _ _

theorem retirePort_boundaryKeeps (p : Nat) : BoundaryKeeps s (retirePort s p) := .of_eq rfl rfl rfl rfl

theorem retireOthers_boundaryKeeps : BoundaryKeeps s (retireOthers s) := by
  refine .foldl (fun t x => ?_) _ _
  refine .trans (.trans ?_ (tally_islands_boundaryKeeps ..)) (respond_boundaryKeeps ..)
  split
  · exact retirePort_boundaryKeeps ..
  · exact .of_eq rfl rfl rfl rfl

theorem configBoundary_boundaryKeeps : BoundaryKeeps s (configBoundary s) := by
  refine .foldl (fun t k => ?_) _ _
  refine .of_eq ?_ ?_ ?_ ?_
  all_goals dsimp only; repeat' split
  all_goals rfl

theorem releaseStandby_boundaryKeeps : BoundaryKeeps s (releaseStandby s) := by
  refine .of_eq ?_ ?_ ?_ ?_
  all_goals unfold releaseStandby; repeat' split
  all_goals rfl

theorem idleIslands_boundaryKeeps : BoundaryKeeps s (idleIslands s) := .of_eq rfl rfl rfl rfl

end

/-! ### Closed sequences and pins (R150) -/

/-- A change of an object that keeps its entry and starts no update. -/
theorem setObj_boundaryKeeps (s : State) (ctx n : Nat) {f : Obj → Obj} (hentry : ∀ o, (f o).entry = o.entry)
    (hother : ∀ o, (f o).other = o.other) : BoundaryKeeps s (setObj s ctx n f) := by
  refine ⟨rfl, rfl, rfl, rfl, id, id, fun k h c hc o ho => ?_⟩
  by_cases hk : k = ctx
  · subst hk
    rw [setObj, ctxAt_setCtx_same] at hc
    · obtain ⟨x, hx, rfl⟩ := Option.map_eq_some_iff.1 hc
      obtain ho | ⟨y, hy, rfl⟩ := mem_modifyWhere ho
      · exact h x hx o ho
      · rw [hentry, hother]; exact h x hx y hy
    · exact fun _ => rfl
  · rw [setObj, ctxAt_setCtx_other _ hk] at hc
    · exact h c hc o ho
    · exact fun _ => rfl

theorem closeSequence_boundaryKeeps (s : State) (ctx table entry : Nat) : BoundaryKeeps s (closeSequence s ctx table entry) := by
  unfold closeSequence; split
  · exact .refl s
  · refine .trans ?_ (setObj_boundaryKeeps _ _ _ (fun _ => rfl) fun _ => rfl)
    exact .of_eq rfl rfl rfl rfl

theorem pinPage_boundaryKeeps (s : State) (ctx : Nat) (k : KvName) (pin : Bool) : BoundaryKeeps s (pinPage s ctx k pin) := by
  unfold pinPage; split
  · exact .refl s
  · exact .of_eq rfl rfl rfl rfl

theorem kvAct_boundaryKeeps (s : State) (op ctx : Nat) (k : KvName) : BoundaryKeeps s (kvAct s op ctx k) := by
  unfold kvAct; split
  · exact closeSequence_boundaryKeeps ..
  · exact pinPage_boundaryKeeps ..

theorem kvBoundary_boundaryKeeps (s : State) : BoundaryKeeps s (kvBoundary s) := by
  refine .trans ?_ (.foldl (fun t w => ?_) _ _)
  · exact .of_eq rfl rfl rfl rfl
  · split
    · exact (kvAct_boundaryKeeps ..).trans (respond_boundaryKeeps ..)
    · exact .refl t

theorem boundary_boundaryKeeps (s : State) (step : Nat) : BoundaryKeeps s (boundary s step) :=
  (((((groveBoundary_boundaryKeeps s step).trans (retireOthers_boundaryKeeps _)).trans (kvBoundary_boundaryKeeps _)).trans
    (configBoundary_boundaryKeeps _)).trans (releaseStandby_boundaryKeeps _)).trans (idleIslands_boundaryKeeps _)

/-! ### The job, the context and the record of a step that ends -/

section
variable {s : State} {k : Nat}

theorem jobAt_announceNext {j : Job} (h : jobAt s k = some j) :
    ∃ j', jobAt (announceNext s k) k = some j' ∧ j'.lastCompleted = j.lastCompleted := by
  simp only [announceNext, h]
  split
  · exact ⟨j, h, rfl⟩
  · exact ⟨_, jobAt_setJob fun _ => rfl, by simp [h]⟩

theorem announceNext_keeps : (announceNext s k).sched = s.sched ∧ (announceNext s k).ctxs = s.ctxs ∧
    (announceNext s k).vec = s.vec := by
  unfold announceNext
  split
  · exact ⟨rfl, rfl, rfl⟩
  · split <;> simp

/-- With at most 256 records no record is too many. -/
theorem trimRecords_of_short (h : s.sched.records.length ≤ 256) : (trimRecords s k).sched.records = s.sched.records := by
  have hshort (q : StepRec → Bool) : (s.sched.records.filter q).length - 256 = 0 :=
    Nat.sub_eq_zero_of_le ((List.length_filter_le ..).trans h)
  simp [trimRecords, hshort]

end

section
variable {s : State} {r : Run}

/-- The context of a step that has ended keeps its persistent objects, none in the middle of an update. -/
theorem endObjects_atRest : AtRest (endObjects s r) r.adm.ctx := by
  intro c hc o ho
  rw [endObjects, ctxAt_setCtx_same] at hc
  · obtain ⟨x, -, rfl⟩ := Option.map_eq_some_iff.1 hc
    obtain ⟨y, hy, rfl⟩ := List.mem_map.1 ho
    have hrole : Role.persistent y.entry.role = true := (List.mem_filter.1 hy).2
    dsimp only
    split <;> exact ⟨hrole, rfl⟩
  · exact fun _ => rfl

theorem closeRecord_records_length : (closeRecord s r).sched.records.length = s.sched.records.length := by
  unfold closeRecord; dsimp only
  split <;> simp [setRecord, modifyWhere_length]

theorem closeRecord_keeps : (closeRecord s r).jobs = s.jobs ∧ (closeRecord s r).ctxs = s.ctxs := by
  unfold closeRecord; dsimp only
  split <;> simp

/-- The outcome of a step that no mismatch ended (R88, R349). -/
theorem closeRecord_find {x : StepRec} {j : Job} (hend : r.mismatchEnd = false) (hj : jobAt s r.adm.job = some j)
    (hx : s.sched.records.find? (fun x => x.job == r.adm.job && x.step == r.adm.step) = some x) :
    (closeRecord s r).sched.records.find? (fun x => x.job == r.adm.job && x.step == r.adm.step) = some { x with
      completed := s.time, residual := r.residual, state := if r.adm.void then 3 else 2,
      status := if r.adm.void then St.promiseVoid else if !r.adm.drill && decide (x.effective < s.time) then St.promiseMissed
        else if j.degraded then St.shoringDegraded else St.ok } := by
  have hrecords : (closeRecord s r).sched.records =
      (setRecord s r.adm.job r.adm.step fun x' => { x' with
        completed := s.time, residual := r.residual, state := if r.adm.void then 3 else 2,
        status := if r.adm.void then St.promiseVoid else if !r.adm.void && !r.adm.drill && decide (x.effective < s.time) then
          St.promiseMissed else if j.degraded then St.shoringDegraded else St.ok }).sched.records := by
    unfold closeRecord
    simp only [hx, hj, hend, Option.map_some, Option.getD_some]
    split <;> rfl
  rw [hrecords, find?_setRecord, hx]
  · cases hvoid : r.adm.void <;> simp
  · exact fun _ => ⟨rfl, rfl⟩

end

/-! ### STEP_COMPLETE -/

/-- The step's context, shards and takes at its end. -/
def endedStep (s : State) (r : Run) : State :=
  endTakes (endShadows (endObjects (freeFilters (advanceScales s r) fun _ => true) r) r) r.adm

/-- The state in which a step has ended, its record closed and its job told. -/
def leftStep (s : State) (r : Run) : State :=
  let t := closeRecord (endedStep s r) r
  let t := setJob t r.adm.job fun j =>
    { j with lastCompleted := some r.adm.step, durations := keepLast 65 (j.durations ++ [t.time]) }
  { t with
    sched := { t.sched with run := none, current := some r.adm.ctx, voidedAt := if r.adm.void then t.time else t.sched.voidedAt }
    vec := []
    fabric := { t.fabric with chunks := t.fabric.chunks.filter fun c => !(c.h.job == r.adm.job && c.h.step == r.adm.step),
                              retained := t.fabric.retained.filter fun x => x.2.1 != r.adm.ctx } }

/-- A step that no mismatch ended leaves what the boundary makes of `leftStep`. -/
theorem finishStep_boundaryKeeps {s : State} {r : Run} (hend : r.mismatchEnd = false) :
    BoundaryKeeps (announceNext (trimRecords (leftStep s r) r.adm.job) r.adm.job) (finishStep s r) := by
  have hfinish : finishStep s r = boundary
      (if r.adm.void then announceNext (trimRecords (leftStep s r) r.adm.job) r.adm.job
        else deviceEvent (announceNext (trimRecords (leftStep s r) r.adm.job) r.adm.job) 0) r.adm.step := by
    simp only [finishStep, hend]
    rfl
  rw [hfinish]
  refine .trans ?_ (boundary_boundaryKeeps ..)
  split
  · exact .refl _
  · exact .of_eq (by simp) (by simp) (by simp) (by simp)

section
variable {s : State} {r : Run}

theorem endTakes_keeps (s : State) (a : Admitted) :
    (endTakes s a).ctxs = s.ctxs ∧ (endTakes s a).jobs = s.jobs ∧ (endTakes s a).sched = s.sched := by
  have h : ((endTakes s a).ctxs, (endTakes s a).jobs, (endTakes s a).sched) = (s.ctxs, s.jobs, s.sched) := by
    refine foldl_keeps (fun t => (t.ctxs, t.jobs, t.sched)) (fun t x => ?_) s _
    exact foldl_keeps (fun t => (t.ctxs, t.jobs, t.sched)) (fun u k => by simp [freeTake]) t _
  simpa using h

theorem endedStep_sched : (endedStep s r).sched = s.sched := by
  simp [endedStep, endTakes_keeps, endShadows, endObjects, advanceScales, freeFilters]

theorem endedStep_time : (endedStep s r).time = s.time := by
  have h : Still s (endedStep s r) := by simp [endedStep]
  exact h.time

theorem endedStep_ctxs : (endedStep s r).ctxs = (endObjects (freeFilters (advanceScales s r) fun _ => true) r).ctxs := by
  simp [endedStep, endTakes_keeps, endShadows]

theorem endedStep_job {j : Job} (hj : jobAt s r.adm.job = some j) :
    ∃ j', jobAt (endedStep s r) r.adm.job = some j' ∧ j'.degraded = j.degraded := by
  have hj' : jobAt (endObjects (freeFilters (advanceScales s r) fun _ => true) r) r.adm.job = some j := by
    simpa [jobAt, endObjects, advanceScales, freeFilters] using hj
  rw [jobAt, endedStep, (endTakes_keeps _ _).2.1]
  exact ⟨_, jobAt_setJob fun _ => rfl, by rw [hj']; rfl⟩

theorem leftStep_atRest : AtRest (leftStep s r) r.adm.ctx := by
  have hctxs : (leftStep s r).ctxs = (endObjects (freeFilters (advanceScales s r) fun _ => true) r).ctxs := by
    simp [leftStep, closeRecord_keeps, endedStep_ctxs]
  intro c hc
  rw [ctxAt, hctxs] at hc
  exact endObjects_atRest c hc

theorem leftStep_queue : (leftStep s r).sched.queue = s.sched.queue := by
  have h : Still s (closeRecord (endedStep s r) r) := by simp [endedStep]
  simpa [leftStep] using h.queue

theorem leftStep_job : ∃ j, jobAt (leftStep s r) r.adm.job = some j ∧ j.lastCompleted = some r.adm.step :=
  ⟨_, jobAt_setJob fun _ => rfl, rfl⟩

theorem leftStep_records : (leftStep s r).sched.records = (closeRecord (endedStep s r) r).sched.records := by
  simp [leftStep]

theorem exec_stepComplete_finishes (hr : s.sched.run = some r) (hhalt : s.dev.state ≠ .halt) (hdone : stepDone s r = true) :
    exec .stepComplete s = .next (finishStep s r) := by
  change execStepComplete s = _
  simp [execStepComplete, hr, hhalt, hdone, done]

theorem exec_stepComplete_unchanged (hr : s.sched.run = some r) (hdone : stepDone s r = false) :
    exec .stepComplete s = .next s := by
  change execStepComplete s = _
  simp [execStepComplete, hr, hdone, done]

end

/-- Settles O39: what has executed is complete by `markComplete`, or its error is fatal by `fatalWith_halts`; a step ends as
`leftStep`, which the boundary keeps. -/
theorem stepsAndInstancesComplete : Obligations.StepsAndInstancesComplete := by
  refine ⟨fun s r i hr hhalt => ⟨fun hex hnc => ⟨?_, fun d hd hop => ?_, fun hoff k function =>
      ⟨exec_instanceComplete_lode hr hex hnc hoff hhalt k function, exec_instanceComplete_controller hr hex hnc hoff hhalt k⟩⟩,
    exec_instanceComplete_unchanged hr⟩, fun s r hr hhalt => ⟨fun hdone hend => ?_, exec_stepComplete_unchanged hr⟩⟩
  · obtain ⟨r', hrun, hcomplete, hexecuted, hadm, hqueue, hdev⟩ := markComplete_run i hr
    exact ⟨_, r', exec_instanceComplete_completes hr hex hnc (met := []) hhalt, hrun, hcomplete, hexecuted, hadm, hqueue, hdev⟩
  · refine ⟨?_, fun k => ?_⟩
    · rw [exec_instanceComplete_completes hr hex hnc (met := []) hhalt, List.foldl_nil, markComplete_of_plain hd hop]
    · have hmet : [HwFault.onDie k].foldl (meetFault i.index) s = _ := meetFault_onDie hhalt i.index k
      rw [exec_instanceComplete_completes hr hex hnc (by rwa [hmet]), hmet, markComplete_of_plain hd hop]
  · have hkeeps := finishStep_boundaryKeeps (s := s) hend
    obtain ⟨hsched, hctxs, hvec⟩ := announceNext_keeps (s := trimRecords (leftStep s r) r.adm.job) (k := r.adm.job)
    obtain ⟨j, hj, hlast⟩ := leftStep_job (s := s) (r := r)
    obtain ⟨j', hj', hlast'⟩ := jobAt_announceNext (s := trimRecords (leftStep s r) r.adm.job) hj
    refine ⟨_, exec_stepComplete_finishes hr hhalt hdone, ?_, ?_, ?_, ?_, ?_, ?_, ?_⟩
    · exact hkeeps.run (by rw [hsched]; rfl)
    · exact hkeeps.queue.trans (by rw [hsched]; exact congrArg _ leftStep_queue)
    · exact hkeeps.current.trans (by rw [hsched]; rfl)
    · exact hkeeps.vec hvec
    · exact ⟨j', by rwa [jobAt, hkeeps.jobs], hlast'.trans hlast⟩
    · refine hkeeps.atRest _ fun c hc => leftStep_atRest (s := s) (r := r) c ?_
      rwa [ctxAt, hctxs] at hc
    · intro x j hshort hj hx
      obtain ⟨j', hj', hdegraded⟩ := endedStep_job hj
      have hlength : (leftStep s r).sched.records.length ≤ 256 := by
        rwa [leftStep_records, closeRecord_records_length, endedStep_sched]
      rw [hkeeps.records, hsched, trimRecords_of_short hlength, leftStep_records,
        closeRecord_find hend hj' (by rwa [endedStep_sched]), endedStep_time, hdegraded]

end Sys2Proof.Machine
end

section
/-!
PROOFS. DERIVED_MOVE (R73, R240, R243, R245): what a fetch and a write-back of the running step make of an object, and what they
wait for.
-/

namespace Sys2Proof.Machine

/-! ### An object after a change of it -/

theorem objAt_setObj_same {s : State} {c n : Nat} {f : Obj → Obj} (hf : ∀ o, (f o).entry = o.entry) :
    objAt (setObj s c n f) c n = (objAt s c n).map f := by
  unfold objAt setObj
  rw [ctxAt_setCtx_same]
  · cases ctxAt s c with
    | none => rfl
    | some x => exact find?_modifyWhere_same (by simp [hf]) x.objects
  · exact fun _ => rfl

/-! ### A move into T1 (R240, R245) -/

section
variable {s : State} {r : Run} {o : Obj}

/-- What arrives as it was coded comes back as it was written. -/
theorem moveIn_intact : moveIn s r o ⟨none, []⟩ = moved (setObj s r.adm.ctx o.entry.object fun x =>
    { x with inT1 := true, data := o.data }) .fetch o.entry.object 0 := by
  cases hkeep : Role.persistent o.entry.role <;> simp [moveIn, arrivedTiles, hkeep]

theorem moveIn_corrupt {k : Nat} {b : List Byte} (hkeep : Role.persistent o.entry.role = true) (hk : k < o.entry.tiles)
    (hbad : seamDecode o k b = none) : moveIn s r o ⟨none, [(k, b)]⟩ =
      fatalAs 3 s 0x0272 islandForeman o.entry.object k (if o.entry.tier = 1 then 2 else 3) 2 := by
  simp [moveIn, arrivedTiles, hkeep, hk, hbad]

/-- The tiles of a failed lender are lost whole, and the step has lost a tier. -/
theorem moveIn_lenderFailed (hkeep : Role.persistent o.entry.role = false) (htier : o.entry.tier = 1) (p : Nat) :
    moveIn s r o ⟨some p, []⟩ =
      moved (setObj (setRun (tally s 0x0273 islandForeman 2 p o.entry.tiles (lo32 r.adm.step) (hi32 r.adm.step))
        fun r => { r with tierLoss := true }) r.adm.ctx o.entry.object fun x =>
        { x with inT1 := true, data := [], narrowed := [], lost := true }) .fetch o.entry.object 0 := by
  simp [moveIn, arrivedTiles, hkeep, htier]

end

/-! ### DERIVED_MOVE -/

section
variable {s : State} {r : Run} {n : Nat} {o : Obj} {e : ObjEntry} (hr : s.sched.run = some r) (hhalt : s.dev.state ≠ .halt)
  (ho : objAt s r.adm.ctx n = some o)
include hr hhalt ho

theorem exec_fetch (he : r.adm.image.entry n = some e) (x : Arrival) : exec (.derivedMove .fetch n x) s =
    .next (if o.inT1 || (Role.persistent e.role && !planFree s r (.fetch n)) then s else moveIn s r o x) := by
  change execDerivedMove .fetch n x s = _
  simp [execDerivedMove, hr, hhalt, derivedDo, ho, he, done]

theorem exec_writeBack (hdue : writeBackDue r o = true) (hwriters : ∀ i ∈ r.adm.image.insts, instDone r i = true)
    (hplan : planFree s r (.writeBack n) = true) (x : Arrival) : exec (.derivedMove .writeBack n x) s =
    .next (moved (setObj s r.adm.ctx n fun x => { x with t3Copy := true, coded := r.adm.step }) .writeBack n 0) := by
  have hall : (r.adm.image.insts.all fun i => instDone r i ||
      !(touches r.adm.image i).any fun t => t.object == n && t.writes) = true :=
    List.all_eq_true.2 fun i hi => by simp [hwriters i hi]
  change execDerivedMove .writeBack n x s = _
  simp [execDerivedMove, hr, hhalt, derivedDo, ho, hdue, hall, hplan, done]

section
variable (he : r.adm.image.entry n = some e) (haway : o.inT1 = false)
  (hplan : Role.persistent e.role = true → planFree s r (.fetch n) = true)
include he haway hplan

/-- An object outside T1 whose schedule lets it is moved in. -/
theorem exec_fetch_moves (x : Arrival) : exec (.derivedMove .fetch n x) s = .next (moveIn s r o x) := by
  rw [exec_fetch hr hhalt ho he, if_neg]
  simpa [haway] using hplan

theorem exec_fetch_corrupt (hkeep : Role.persistent o.entry.role = true) (hoff : s.dev.state ≠ .off) {k : Nat} {b : List Byte}
    (hk : k < o.entry.tiles) (hbad : seamDecode o k b = none) :
    ∃ t, exec (.derivedMove .fetch n ⟨none, [(k, b)]⟩) s = .next t ∧ t.dev.state = .halt ∧ t.dev.lastFatal = 0x0272 := by
  refine ⟨_, exec_fetch_moves hr hhalt ho he haway hplan _, ?_⟩
  rw [moveIn_corrupt hkeep hk hbad]
  obtain ⟨hstate, hcode, -⟩ := fatalWith_halts (answer := true) (severity := 3) (code := 0x0272) (source := islandForeman)
    (p := o.entry.object) (q := k) (u := if o.entry.tier = 1 then 2 else 3) (v := 2) hoff hhalt
  exact ⟨hstate, hcode⟩

theorem exec_fetch_lenderFailed (hname : o.entry.object = n) (hkeep : Role.persistent o.entry.role = false)
    (htier : o.entry.tier = 1) (p : Nat) :
    ∃ t x r', exec (.derivedMove .fetch n ⟨some p, []⟩) s = .next t ∧ objAt t r.adm.ctx n = some x ∧ x.data = [] ∧
      x.inT1 = true ∧ x.lost = true ∧ t.sched.run = some r' ∧ r'.tierLoss = true := by
  rw [exec_fetch_moves hr hhalt ho he haway hplan, moveIn_lenderFailed hkeep htier, hname]
  refine ⟨_, _, { r with tierLoss := true, moves := (.fetch, n, 0) :: r.moves }, rfl, (objAt_setObj_same ?_).trans
    (congrArg _ ho), rfl, rfl, rfl, ?_, rfl⟩
  · exact fun _ => rfl
  · simp [moved, setRun, hr]

end

end

/-- Settles O46: a fetch that may start is `moveIn` on the object as it stands, and a due write-back notes its T3 copy. -/
theorem derivedMovesFollowTheSchedule : Obligations.DerivedMovesFollowTheSchedule := by
  intro s r n o e hr hhalt ho hname he
  refine ⟨fun haway hplan => ⟨?intact, fun hkeep hoff k b => exec_fetch_corrupt hr hhalt ho he haway hplan hkeep hoff,
    exec_fetch_lenderFailed hr hhalt ho he haway hplan hname⟩, fun x hin => ?present, fun x hkeep hplan => ?waits,
    fun x hdue hwriters hplan => exec_writeBack hr hhalt ho hdue hwriters hplan x⟩
  case intact =>
    rw [exec_fetch_moves hr hhalt ho he haway hplan, moveIn_intact, hname]
    rfl
  case present => rw [exec_fetch hr hhalt ho he, if_pos (by simp [hin])]
  case waits => rw [exec_fetch hr hhalt ho he, if_pos (by simp [hkeep, hplan])]

end Sys2Proof.Machine
end

section
/-!
PROOFS. FILTER_LOAD and VEC_RUN (R61, R73, R114, R118, R120, R176): the filter that an engine takes, and the run that a grove
makes.
-/

namespace Sys2Proof.Machine

theorem at'_of_getElem? {α : Type} {l : List α} {i : Nat} {x d : α} (h : l[i]? = some x) : at' l i d = x := by
  simp [at', h]

/-! ### FILTER_LOAD -/

section
variable {s : State} {r : Run} {i : InstId} {d : Desc} {e : Sapling} (hr : s.sched.run = some r)
  (hd : r.adm.image.descs[i.index]? = some d) (he : s.islands.saplings[saplingRank r.adm.image i % 4]? = some e)
include hr hd he

theorem exec_filterLoad_full (hfull : at' e.buffers e.idle none ≠ none) : exec (.filterLoad i) s = .next s := by
  change execFilterLoad i s = _
  simp only [execFilterLoad, hr, hd, at'_of_getElem? he, done]
  rw [if_neg (by simp [hfull])]

theorem exec_filterLoad_loads {o : Obj} (hinst : i ∈ saplingInsts r.adm.image) (hnew : i ∉ r.filters)
    (hfree : at' e.buffers e.idle none = none) (hkept : ¬ ((mbLoopOf r.adm.image d).isSome ∧ i.mb ∈ r.dropped))
    (hsettled : ∀ j ∈ predsOf r.adm.image i, ∀ x, r.adm.image.descs[j.index]? = some x →
      (d.opr 0).object ∈ writtenObjects r.adm.image x → instDone r j = true)
    (hplan : planFree s r (.filter i) = true) (ho : oprObj s r.adm.image d 0 = some o) :
    exec (.filterLoad i) s = .next { s with
      islands := { s.islands with
        saplings := s.islands.saplings.set (saplingRank r.adm.image i % 4)
          { e with buffers := e.buffers.set e.idle (some (i, o.data)), idle := 1 - e.idle } }
      sched := { s.sched with run := some { r with filters := i :: r.filters } } } := by
  change execFilterLoad i s = _
  simp only [execFilterLoad, hr, hd, at'_of_getElem? he, done]
  rw [if_pos]
  · simp [ho, setRun, hr, List.modify_eq_set_getElem?, he]
  · have hkeep : ((mbLoopOf r.adm.image d).isSome && r.dropped.contains i.mb) = false := by
      simpa [Classical.or_iff_not_imp_left] using hkept
    simp only [hkeep, hplan, hfree, Bool.and_eq_true, List.all_eq_true]
    refine ⟨⟨⟨⟨⟨by simpa using hinst, by simpa using hnew⟩, rfl⟩, rfl⟩, fun j hj => ?_⟩, trivial⟩
    cases hx : r.adm.image.descs[j.index]? with
    | none => simp
    | some x => simpa [Classical.or_iff_not_imp_right] using hsettled j hj x hx

end

/-! ### VEC_RUN -/

/-- Reading a length table counts and records its clamps; the vector engines are not its concern. -/
theorem readLens_vec (s : State) (r : Run) (i : InstId) (d : Desc) : (readLens s r i d).1.vec = s.vec := by
  have hlengths : (lengthsFor s r d).2.vec = s.vec := by
    unfold lengthsFor
    split
    · rfl
    · split
      · rfl
      · exact foldl_keeps State.vec (fun t c => by simp) s _
  unfold readLens
  split
  · rfl
  · dsimp only
    split <;> exact hlengths

section
variable {s : State} {r : Run} {g : Fin 128} {i : InstId} {d : Desc} {q : Nat} (hr : s.sched.run = some r)
  (hd : r.adm.image.descs[i.index]? = some d)
include hr hd

/-- A run that has been made, or that another grove makes. -/
theorem exec_vecRun_unchanged (h : (i, q) ∈ r.runs ∨ runGrove s i r d q ≠ some (g : Nat)) (part : RunPart) :
    exec (.vecRun g i q part) s = .next s := by
  change execVecRun g i q part s = _
  simp only [execVecRun, hr, hd, done]
  obtain h | h := h
  · rw [if_neg (by simp [h])]
  · rw [if_neg (by simp [h])]

variable (hop : d.opcode = 7) (hs : startable s r i d) (hq : q < runsOf r.adm.image d) (hnew : (i, q) ∉ r.runs)
  (hg : runGrove s i r d q = some (g : Nat))
include hop hs hq hnew hg

omit hr hd in
/-- The conditions of VEC_RUN, as the model tests them. -/
theorem vecRun_allowed : (d.opcode = 7 && mayStart s r i d && decide (q < runsOf r.adm.image d) && !r.runs.contains (i, q) &&
    runGrove s i r d q == some g.val) = true := by
  simp [hop, mayStart_iff.2 hs, hq, hnew, hg]

theorem exec_vecRun_whole :
    let x := readLens (setTag s (tagOf r.adm.image i d)) { r with tag := tagOf r.adm.image i d } i d
    exec (.vecRun g i q .whole) s =
      .next (setRun (wholeRun g i x.2 d q x.1) fun r => { r with runs := (i, q) :: r.runs }) := by
  change execVecRun g i q .whole s = _
  simp only [execVecRun, hr, hd, done, if_pos (vecRun_allowed hop hs hq hnew hg)]

theorem exec_vecRun_begin :
    let x := readLens (setTag s (tagOf r.adm.image i d)) { r with tag := tagOf r.adm.image i d } i d
    exec (.vecRun g i q .begin) s = .next (beginRun x.1 g i x.2 d q) := by
  change execVecRun g i q .begin s = _
  simp only [execVecRun, hr, hd, done, if_pos (vecRun_allowed hop hs hq hnew hg)]

theorem exec_vecRun_finish (hinst : (vecAt s g).inst = some i) (hnumber : (vecAt s g).run = q)
    (hdone : programDone r.adm.image d (vecAt s g) = true) :
    let x := readLens (setTag s (tagOf r.adm.image i d)) { r with tag := tagOf r.adm.image i d } i d
    exec (.vecRun g i q .finish) s =
      .next (setRun (endRun i x.2 d x.1 g) fun r => { r with runs := (i, q) :: r.runs }) := by
  have hengine (r' : Run) : vecAt (readLens (setTag s (tagOf r.adm.image i d)) r' i d).1 g = vecAt s g := by
    rw [vecAt, readLens_vec]; rfl
  change execVecRun g i q .finish s = _
  simp only [execVecRun, hr, hd, done, if_pos (vecRun_allowed hop hs hq hnew hg), hengine]
  rw [if_pos (by simp [hinst, hnumber, hdone])]

end

/-- Settles O44: the filter takes the place of the idle buffer; each part of a run that is allowed acts on the engine
that it finds, and a run made before or dealt elsewhere is not allowed. -/
theorem filtersLoadAndRunsAreMadeOnce : Obligations.FiltersLoadAndRunsAreMadeOnce := by
  refine ⟨fun s r i d e o hr hinst hnew hd he => ⟨fun hfree hkept hsettled hplan ho =>
      exec_filterLoad_loads hr hd he hinst hnew hfree hkept hsettled hplan ho, exec_filterLoad_full hr hd he⟩,
    fun s r g i d q hr hd hop hs hq => ⟨fun hnew hg => ?_, exec_vecRun_unchanged hr hd⟩⟩
  exact ⟨exec_vecRun_whole hr hd hop hs hq hnew hg, exec_vecRun_begin hr hd hop hs hq hnew hg,
    exec_vecRun_finish hr hd hop hs hq hnew hg⟩

end Sys2Proof.Machine
end

section
/-!
PROOFS. STEP_START, CONTEXT_SWITCH and READMISSION (R69, R79, R80, R85, R87, R246): what the step that starts takes with
it, what the switch to its context brings back, and what becomes of a step that is sought again in its place.
-/

namespace Sys2Proof.Machine

/-! ### The groves of a step that starts (R79, R85) -/

/-- An island without admitted work enters its idle state; a grove's role is not its power state. -/
theorem groveAt_idleIslands (s : State) (k : Nat) : (groveAt (idleIslands s) k).role = (groveAt s k).role ∧
    ((groveAt (idleIslands s) k).power = (groveAt s k).power ∨
      ((groveAt (idleIslands s) k).power = idleGrove s ∧ serves s k = true)) := by
  cases hg : s.groves[k]? with
  | none => simp [groveAt, at', idleIslands, hg]
  | some g =>
    simp only [groveAt, at', idleIslands, List.getElem?_map, List.getElem?_zipIdx, hg, Option.map_some, Option.getD_some,
      Nat.zero_add]
    split
    · next h => exact ⟨rfl, .inr ⟨rfl, (Bool.and_eq_true_iff.1 h).1⟩⟩
    · exact ⟨rfl, .inl rfl⟩

theorem inService_of_role {s t : State} (h : ∀ k, (groveAt t k).role = (groveAt s k).role) : inService t = inService s := by
  refine List.filter_congr fun k _ => ?_
  have hrole : (at' t.groves k {}).role = (at' s.groves k {}).role := h k
  rw [serves, serves, hrole]

/-! ### STEP_START -/

/-- The running step that an admitted one becomes. -/
def startedRun (s : State) (a : Admitted) : Run :=
  let s' := beginObjects s a.image
  { adm := a, started := s.time, switched := decide (s.sched.current = some a.ctx), before := shardObjects s' a.ctx,
    scales := (match ctxAt s' a.ctx with | some c => c.scales | none => []), groves := inService s }

/-- `s` with the oldest admitted step running: what STEP_START leaves unless too many groves are lost. -/
def startedStep (s : State) (a : Admitted) (rest : List Admitted) : State :=
  let s' := beginObjects s a.image
  setRecord (idleIslands { s' with sched := { s'.sched with run := some (startedRun s a), queue := rest } }) a.job a.step
    fun x => if x.state = 0 then { x with state := 1 } else x

section
variable {s : State} {a : Admitted} {rest : List Admitted}

theorem startedStep_sched :
    (startedStep s a rest).sched.run = some (startedRun s a) ∧ (startedStep s a rest).sched.queue = rest := ⟨rfl, rfl⟩

theorem groveAt_startedStep (k : Nat) : (groveAt (startedStep s a rest) k).role = (groveAt s k).role ∧
    ((groveAt (startedStep s a rest) k).power = (groveAt s k).power ∨
      ((groveAt (startedStep s a rest) k).power = idleGrove s ∧ serves s k = true)) :=
  groveAt_idleIslands _ k

theorem startedStep_record {x : StepRec}
    (hx : s.sched.records.find? (fun x => x.job == a.job && x.step == a.step) = some x) (hstate : x.state = 0) :
    (startedStep s a rest).sched.records.find? (fun x => x.job == a.job && x.step == a.step) = some { x with state := 1 } := by
  rw [startedStep, find?_setRecord]
  · change (s.sched.records.find? _).map _ = _
    rw [hx, Option.map_some, if_pos hstate]
  · intro y; split <;> exact ⟨rfl, rfl⟩

/-- The groves lost since the admission count, whatever the start has put to sleep. -/
theorem overLost_startedStep : overLost (startedStep s a rest) = decide (a.covered < a.groves - (inService s).length) := by
  have hservice : inService (startedStep s a rest) = inService s := inService_of_role fun k => (groveAt_startedStep k).1
  rw [overLost, startedStep_sched.1]
  simp [losses, hservice, startedRun]

theorem exec_stepStart_of_run {r : Run} (hr : s.sched.run = some r) : exec .stepStart s = .next s := by
  change execStepStart s = _
  simp [execStepStart, hr, done]

variable (hidle : s.sched.run = none) (hqueue : s.sched.queue = a :: rest)
include hidle hqueue

theorem exec_stepStart_voidedBehind (hvoid : a.voidedBehind = true) : exec .stepStart s = .next s := by
  change execStepStart s = _
  simp [execStepStart, hidle, hqueue, hvoid, done]

variable (hoff : s.dev.state ≠ .off) (hhalt : s.dev.state ≠ .halt) (hvoid : a.voidedBehind = false)
  (hlost : ∀ j, jobAt s a.job = some j → j.lost = 0)
include hoff hhalt hvoid hlost

theorem exec_stepStart : exec .stepStart s = .next (if overLost (startedStep s a rest) then
    fatalAs 3 (startedStep s a rest) 0x0213 islandForeman 4 0 (inService (startedStep s a rest)).length 0
    else startedStep s a rest) := by
  change execStepStart s = _
  simp only [execStepStart, hidle, hqueue, done]
  rw [if_neg]
  · rfl
  · cases hj : jobAt s a.job with
    | none => simp [hvoid, fabricRuns, hoff, hhalt]
    | some j => simp [hvoid, fabricRuns, hoff, hhalt, hlost j hj]

theorem exec_stepStart_starts (hcovered : a.groves ≤ a.covered + (inService s).length) :
    exec .stepStart s = .next (startedStep s a rest) := by
  rw [exec_stepStart hidle hqueue hoff hhalt hvoid hlost, overLost_startedStep, if_neg]
  rw [decide_eq_true_eq]; omega

theorem exec_stepStart_halts (hover : a.covered + (inService s).length < a.groves) :
    ∃ t, exec .stepStart s = .next t ∧ t.dev.state = .halt ∧ t.dev.lastFatal = 0x0213 := by
  have hoverLost : overLost (startedStep s a rest) = true := by
    rw [overLost_startedStep, decide_eq_true_eq]; omega
  obtain ⟨hstate, hcode, -⟩ := fatalWith_halts (answer := true) (severity := 3) (s := startedStep s a rest) (code := 0x0213)
    (source := islandForeman) (p := 4) (q := 0) (u := (inService (startedStep s a rest)).length) (v := 0) hoff hhalt
  refine ⟨_, exec_stepStart hidle hqueue hoff hhalt hvoid hlost, ?_⟩
  rw [if_pos hoverLost]
  exact ⟨hstate, hcode⟩

end

/-! ### CONTEXT_SWITCH -/

/-- A persistent object that the step uses, back in T1. -/
def broughtBack (r : Run) (o : Obj) : Obj :=
  if Role.persistent o.entry.role && usesObject r.adm.image o.entry.object then { o with inT1 := true } else o

/-- `s` with the running step's context the current one. -/
def switchedTo (s : State) (r : Run) : State :=
  let s := setCtx s r.adm.ctx fun c => { c with objects := c.objects.map (broughtBack r) }
  setRun { s with sched := { s.sched with current := some r.adm.ctx } } fun r => { r with switched := true }

section
variable {s : State} {r : Run}

theorem broughtBack_entry (o : Obj) : (broughtBack r o).entry = o.entry := by
  unfold broughtBack; split <;> rfl

theorem objAt_switchedTo {n : Nat} {o : Obj} (ho : objAt s r.adm.ctx n = some o) :
    objAt (switchedTo s r) r.adm.ctx n = some (broughtBack r o) := by
  have hname : ((fun y : Obj => y.entry.object == n) ∘ broughtBack r) = fun y => y.entry.object == n := by
    funext y; simp [broughtBack_entry]
  change ((ctxAt (setCtx s r.adm.ctx _) r.adm.ctx).bind _) = _
  rw [ctxAt_setCtx_same]
  · unfold objAt at ho
    cases hc : ctxAt s r.adm.ctx with
    | none => simp [hc] at ho
    | some c =>
      rw [hc, Option.bind_some] at ho
      rw [Option.map_some, Option.bind_some, List.find?_map, hname, ho]; rfl
  · exact fun _ => rfl

theorem ctxAt_switchedTo {c : Nat} (h : c ≠ r.adm.ctx) : ctxAt (switchedTo s r) c = ctxAt s c :=
  ctxAt_setCtx_other (fun _ => rfl) h

theorem exec_contextSwitch (hr : s.sched.run = some r) :
    exec .contextSwitch s = .next (if r.switched then s else switchedTo s r) := by
  change execContextSwitch s = _
  simp only [execContextSwitch, hr, done]
  rfl

end

/-! ### What a search for room and a schedule leaves (R74) -/

theorem planRoom_still {s t : State} {img : Image} {peak : Nat} {gone : List (Nat × Nat × Nat)}
    (h : planRoom s img peak = some (t, gone)) : Still s t := by
  unfold planRoom at h; dsimp only at h
  split at h
  · cases h
  · cases h
    refine (still_foldl (fun t x => ?_) _ _ _).2 (.refl s)
    split <;> simp

/-- The rounds end with the evictions of the peak that they settle on, coded for the step. -/
theorem settleRoom_planRoom {b : Basis} {n peak k : Nat} {t : State} {gone : List (Nat × Nat × Nat)} {x : Bound}
    (h : settleRoom b n peak = some (t, gone, x, k)) :
    ∃ u, planRoom b.s b.img k = some (u, gone) ∧ t = codedFor u gone b.step := by
  induction n generalizing peak with
  | zero => cases h
  | succ n ih =>
    unfold settleRoom at h
    split at h
    · cases h
    · next u _ hplan =>
      dsimp only at h
      split at h
      · cases h; exact ⟨u, hplan, rfl⟩
      · exact ih h

theorem seek_planRoom {s t : State} {before : List Admitted} {img : Image} {step peak t0 : Nat}
    {takes : List (Nat × Nat × Nat)} {b : Bound} {rests : Bool}
    (h : seek s before img step takes = .found b t peak rests t0) :
    ∃ u gone, planRoom s img peak = some (u, gone) ∧ t = codedFor u gone step := by
  unfold seek at h; dsimp only at h
  split at h
  · cases h
  · split at h
    · cases h
    · split at h
      · cases h
      · next gone _ _ hroom =>
        split at h
        · cases h
        · split at h
          · cases h
          · cases h
            obtain ⟨u, hplan, hcoded⟩ := settleRoom_planRoom hroom
            exact ⟨u, gone, hplan, hcoded⟩

/-- Room is found by evictions, which no queued step sees. -/
theorem seek_still {s t : State} {before : List Admitted} {img : Image} {step peak t0 : Nat} {takes : List (Nat × Nat × Nat)}
    {b : Bound} {rests : Bool} (h : seek s before img step takes = .found b t peak rests t0) : Still s t := by
  obtain ⟨u, gone, hplan, rfl⟩ := seek_planRoom h
  simpa using planRoom_still hplan

/-! ### READMISSION (R87) -/

theorem exists_mem_modifyWhere {α : Type} {p : α → Bool} (f : α → α) {l : List α} (h : ∃ x ∈ l, p x = true) :
    ∃ x ∈ l, p x = true ∧ f x ∈ modifyWhere p f l := by
  induction l with
  | nil => simp at h
  | cons x l ih =>
    by_cases hx : p x = true
    · exact ⟨x, by simp, hx, by simp [modifyWhere, hx]⟩
    · obtain ⟨y, hy, hpy, hmem⟩ := ih (by simpa [hx] using h)
      exact ⟨y, by simp [hy], hpy, by simp [modifyWhere, hx, hmem]⟩

theorem Admitted.same_iff {a b : Admitted} : a.same b = true ↔ a.job = b.job ∧ a.step = b.step := by
  simp [Admitted.same]

/-- The steps of the queue by job and number, in its order. -/
def queuedSteps (s : State) : List (Nat × Nat) := s.sched.queue.map fun x => (x.job, x.step)

/-- The take numbers that later steps close up are no part of which steps they are. -/
theorem queuedSteps_releaseTakes (s : State) (a : Admitted) : queuedSteps (releaseTakes s a) = queuedSteps s :=
  foldl_keeps queuedSteps (fun t x => by simp [queuedSteps]) s a.takes

/-- `s` without the step a, whose record ends with an achievable completion of `ach` microseconds. -/
def refusedAgain (s : State) (a : Admitted) (ach : Nat) : State :=
  deviceEvent (tally (setRecord (removeQueued s a) a.job a.step fun r =>
    { r with state := 4, status := St.refusedBound, readmitted := true }) 0x0203 islandForeman 1 a.job (lo32 a.step) 2 ach) 0

theorem queuedSteps_refusedAgain (s : State) (a : Admitted) (ach : Nat) : queuedSteps (refusedAgain s a ach) =
    (s.sched.queue.filter fun x => !x.same a).map fun x => (x.job, x.step) := by
  have hremoved : queuedSteps (refusedAgain s a ach) = queuedSteps (removeQueued s a) := by
    simp [queuedSteps, refusedAgain, setRecord]
  rw [hremoved, removeQueued, queuedSteps_releaseTakes, queuedSteps]

section
variable {s : State} {a : Admitted} {before : List Admitted}

theorem exec_readmission (h : readmittable s = some (a, before)) : exec .readmission s = .next (readmitOne s a before) := by
  change execReadmission s = _
  simp [execReadmission, h, done]

theorem exec_readmission_none (h : readmittable s = none) : exec .readmission s = .next s := by
  change execReadmission s = _
  simp [execReadmission, h, done]

theorem readmitOne_refused {st : Nat}
    (h : seek (setQueued s a fun x => { x with booked := 0 }) before a.image a.step a.takes = .refused st) :
    readmitOne s a before = refusedAgain s a 0 := by
  simp only [readmitOne, h]; rfl

variable {b : Bound} {t : State} {peak t0 : Nat} {rests : Bool}
  (h : seek (setQueued s a fun x => { x with booked := 0 }) before a.image a.step a.takes = .found b t peak rests t0)
include h

theorem readmitOne_late (hdeadline : a.deadline ≠ 0) (hlate : a.deadline < t0 + b.total - s.sched.voidedAt) :
    readmitOne s a before = refusedAgain s a (microseconds (t0 + b.total - s.sched.voidedAt)) := by
  simp only [readmitOne, h]
  rw [if_pos (by simp [hdeadline, hlate])]; rfl

/-- Inside its deadline the step has its new promise, in its place. -/
theorem readmitOne_queue (hdeadline : a.deadline = 0 ∨ t0 + b.total - s.sched.voidedAt ≤ a.deadline) :
    ∃ f : Admitted → Admitted, (∀ x, (f x).job = x.job ∧ (f x).step = x.step ∧ (f x).promise = t0 + b.total ∧
      (f x).bound = b.total ∧ (f x).void = false ∧ (f x).voidedBehind = false) ∧
      (readmitOne s a before).sched.queue = modifyWhere (fun x => x.same a) f t.sched.queue := by
  have hintime : ¬ (a.deadline ≠ 0 && decide (a.deadline < t0 + b.total - s.sched.voidedAt)) = true := by
    simpa [Classical.or_iff_not_imp_left] using hdeadline
  simp only [readmitOne, h, if_neg hintime, deviceEvent_keeps]
  refine ⟨_, ?_, rfl⟩
  exact fun x => ⟨rfl, rfl, rfl, rfl, rfl, rfl⟩

theorem readmitOne_promises (ha : a ∈ s.sched.queue)
    (hdeadline : a.deadline = 0 ∨ t0 + b.total - s.sched.voidedAt ≤ a.deadline) :
    (readmitOne s a before).sched.queue.length = s.sched.queue.length ∧
      ∃ x ∈ (readmitOne s a before).sched.queue, x.job = a.job ∧ x.step = a.step ∧ x.promise = t0 + b.total ∧
        x.bound = b.total ∧ x.void = false ∧ x.voidedBehind = false := by
  obtain ⟨f, hf, hqueue⟩ := readmitOne_queue h hdeadline
  have hfound : t.sched.queue = modifyWhere (fun x => x.same a) (fun x => { x with booked := 0 }) s.sched.queue :=
    (seek_still h).queue
  obtain ⟨y, -, hy, hmem⟩ := exists_mem_modifyWhere (p := fun x => x.same a) (fun x => { x with booked := 0 })
    ⟨a, ha, Admitted.same_iff.2 ⟨rfl, rfl⟩⟩
  rw [← hfound] at hmem
  obtain ⟨x, -, hx, hmem⟩ := exists_mem_modifyWhere (p := fun x => x.same a) f ⟨_, hmem, hy⟩
  obtain ⟨hjob, hstep, hnew⟩ := hf x
  obtain ⟨hxjob, hxstep⟩ := Admitted.same_iff.1 hx
  rw [hqueue]
  exact ⟨by rw [modifyWhere_length, hfound, modifyWhere_length], f x, hmem, hjob.trans hxjob, hstep.trans hxstep, hnew⟩

end

/-- Settles O38: the step that starts makes `startedStep`, the switch `switchedTo`, and a step that is sought again keeps its place
with a new promise or leaves the queue. -/
theorem stepsStartInOrder : Obligations.StepsStartInOrder := by
  refine ⟨fun s a rest hoff hhalt => ⟨fun hidle hqueue hvoid hlost => ⟨fun hcovered => ?starts,
      exec_stepStart_halts hidle hqueue hoff hhalt hvoid hlost⟩, exec_stepStart_voidedBehind,
      fun r hr => ⟨exec_stepStart_of_run hr, fun hswitched => ?switches, fun hswitched => ?switched⟩⟩,
    fun s => ⟨exec_readmission_none, fun a before hnext ha => ⟨fun b t peak rests t0 h => ⟨fun hdeadline => ?promised,
      fun hdeadline hlate => ?late⟩, fun st h => ?refused⟩⟩⟩
  case starts =>
    obtain ⟨hrun, hrest⟩ := startedStep_sched (s := s) (a := a) (rest := rest)
    exact ⟨_, _, exec_stepStart_starts hidle hqueue hoff hhalt hvoid hlost hcovered, hrun, hrest, rfl, rfl, rfl, rfl, rfl,
      groveAt_startedStep, fun x => startedStep_record, rfl, rfl⟩
  case switches =>
    exact ⟨switchedTo s r, (exec_contextSwitch hr).trans (by simp [hswitched]), rfl, by simp [switchedTo, setRun, hr], rfl,
      fun n o ho => objAt_switchedTo ho, fun c hc => ctxAt_switchedTo hc⟩
  case switched =>
    exact (exec_contextSwitch hr).trans (by simp [hswitched])
  case promised =>
    exact ⟨_, exec_readmission hnext, readmitOne_promises h ha hdeadline⟩
  case late =>
    refine ⟨_, exec_readmission hnext, ?_⟩
    rw [readmitOne_late h hdeadline hlate]; exact queuedSteps_refusedAgain ..
  case refused =>
    refine ⟨_, exec_readmission hnext, ?_⟩
    rw [readmitOne_refused h]; exact queuedSteps_refusedAgain ..

end Sys2Proof.Machine
end

section
/-!
PROOFS. Scalars, predicates, reductions and single lanes of the vector engine (R123 to R126, R131): each predicate is read lane by
lane, and the inactive lanes of a reduction take part as its unit.
-/

namespace Sys2Proof.Machine

/-! ### Predicates, lane by lane -/

theorem predOf_testBit (l : List Bool) (i : Nat) : (predOf l).testBit i = l.getD i false := by
  induction l generalizing i with
  | nil => simp [predOf]
  | cons b l ih =>
    have hbit : predOf (b :: l) = Nat.bit b (predOf l) := by cases b <;> simp [predOf, bit, Nat.bit]; omega
    cases i with
    | zero => simp [hbit]
    | succ i => simp [hbit, Nat.testBit_bit_succ, ih]

theorem getLsbD_ofNat_predOf {l : List Bool} {i : Nat} (hi : i < 256) :
    (BitVec.ofNat 256 (predOf l)).getLsbD i = l.getD i false := by
  rw [BitVec.getLsbD_ofNat, predOf_testBit, decide_eq_true hi, Bool.true_and]

/-- The lanes below n. -/
theorem getLsbD_lowLanes {n l : Nat} (hl : l < 256) : (BitVec.ofNat 256 (2 ^ min 256 n - 1)).getLsbD l = decide (l < n) := by
  rw [BitVec.getLsbD_ofNat, Nat.testBit_two_pow_sub_one, decide_eq_true hl, Bool.true_and, decide_eq_decide]
  exact lt_min_iff.trans (and_iff_right hl)

/-- Writing a predicate register writes, lane by lane, the truth values that it holds. -/
theorem setP_eq_truths {e : VecEngine} {i : Nat} {p : BitVec 256} {op : Nat → Bool} (h : ∀ l, l < 256 → p.getLsbD l = op l) :
    e.setP i p = e.truths i op := by
  have hp : p = BitVec.ofNat 256 (predOf ((List.range 256).map op)) := by
    refine BitVec.eq_of_getLsbD_eq fun l hl => ?_
    rw [h l hl, getLsbD_ofNat_predOf hl]
    simp [hl]
  rw [hp]; rfl

/-- The number of true lanes is the count of the lanes that are true. -/
theorem popCount_eq_countP (n p : Nat) : popCount n p = (List.range n).countP p.testBit := by
  induction n generalizing p with
  | zero => rfl
  | succ n ih =>
    rw [popCount, ih, List.range_succ_eq_map, List.countP_cons, List.countP_map, Nat.testBit_zero, Nat.add_comm]
    congr 1
    · exact congrArg (fun q => (List.range n).countP q) (funext fun i => (Nat.testBit_succ p i).symm)
    · rcases Nat.mod_two_eq_zero_or_one p with h | h <;> simp [h]

/-! ### The lanes of a reduction -/

/-- The lanes that take part in a reduction, each given by its own number. -/
theorem fillInactive_eq_map (w : Word) (p : Nat) (l : List Word) :
    fillInactive w p l = (List.range l.length).map fun i => if p.testBit i then at' l i 0 else w := by
  induction l generalizing p with
  | nil => rfl
  | cons a l ih =>
    simp [fillInactive, ih, List.range_succ_eq_map, at', Nat.testBit_succ, Nat.testBit_zero, Function.comp_def]

/-- The fixed tree over wrapping adds comes to the sum in any order. -/
theorem treeReduce_add (k : Nat) {l : List Word} (h : l.length = 2 ^ k) :
    treeReduce (fun a b => a + b) k l = l.sum := by
  induction k generalizing l with
  | zero => obtain ⟨a, rfl⟩ := List.length_eq_one_iff.1 h; simp [treeReduce]
  | succ k ih =>
    have htake : (l.take (2 ^ k)).length = 2 ^ k := by rw [List.length_take, h]; omega
    have hdrop : (l.drop (2 ^ k)).length = 2 ^ k := by rw [List.length_drop, h]; omega
    calc treeReduce (fun a b => a + b) (k + 1) l
        = (List.zipWith (fun a b => a + b) (l.take (2 ^ k)) (l.drop (2 ^ k))).sum := ih (by simp [htake, hdrop])
      _ = (l.take (2 ^ k)).sum + (l.drop (2 ^ k)).sum :=
          (List.sum_add_sum_eq_sum_zipWith_of_length_eq _ _ (htake.trans hdrop.symm)).symm
      _ = l.sum := List.sum_take_add_sum_drop l _

/-! ### Registers that take their own value -/

theorem set_at'_self {α : Type} (l : List α) (i : Nat) (d : α) : l.set i (at' l i d) = l := by
  rcases Nat.lt_or_ge i l.length with hi | hi
  · simp [at', hi]
  · exact List.set_eq_of_length_le hi

theorem VecEngine.setV_vreg {e : VecEngine} (i : BitVec 5) : e.setV i.toNat (e.vreg i) = e := by
  simp only [VecEngine.setV, VecEngine.vreg, set_at'_self]

/-- An inactive lane that INS names takes its own value again. -/
theorem VecEngine.insLane_eq (e : VecEngine) (f : VFields) (n : Nat) (x : Word) :
    (if (e.preg f.pred.toNat).getLsbD n then e.setV f.d.toNat ((e.vreg f.d).set n x)
      else if f.zm then e.setV f.d.toNat ((e.vreg f.d).set n 0) else e) =
    e.setV f.d.toNat ((e.vreg f.d).set n
      (if (e.preg f.pred.toNat).getLsbD n then x else if f.zm then 0 else at' (e.vreg f.d) n 0)) := by
  split
  · rfl
  · split
    · rfl
    · rw [set_at'_self, setV_vreg]

/-! ### Instructions, by the operation on the engine that each names -/

section
variable {s : State} {g : Fin 128} {f : VFields}

/-- A command that writes a predicate register writes its truth values lane by lane. -/
theorem exec_predicate {c : Instr} {p : VecEngine → BitVec 256} {op : Nat → Bool}
    (hc : exec c s = .next (vecDo s g fun e => e.setP f.d.toNat (p e)))
    (hp : ∀ l, l < 256 → (p (vecAt s g)).getLsbD l = op l) :
    exec c s = .next (vecNext s g ((vecAt s g).truths f.d.toNat op)) := by
  rw [hc, vecDo, vecNext, setP_eq_truths hp]

theorem exec_pcnt : exec (.pcnt g f) s = .next (vecNext s g ((vecAt s g).setS f.d.toNat
    (BitVec.ofNat 32 ((List.range 256).countP fun l => ((vecAt s g).preg f.a.toNat).getLsbD l)))) := by
  have hcount : popCount 256 ((vecAt s g).preg f.a.toNat).toNat = _ := popCount_eq_countP 256 _
  change execPcnt g f s = _
  simp only [execPcnt, done, vecDo, vecNext, hcount]
  rfl

theorem exec_vins : exec (.vins g f) s = .next (vecNext s g ((vecAt s g).setV f.d.toNat
    (((vecAt s g).vreg f.d).set (((vecAt s g).sreg f.b.toNat).toNat % 256)
      (if ((vecAt s g).active f).testBit (((vecAt s g).sreg f.b.toNat).toNat % 256) then (vecAt s g).sreg f.a.toNat
       else if f.zm then 0 else at' ((vecAt s g).vreg f.d) (((vecAt s g).sreg f.b.toNat).toNat % 256) 0)))) :=
  congrArg (done <| vecNext s g ·) (VecEngine.insLane_eq (vecAt s g) f (((vecAt s g).sreg f.b.toNat).toNat % 256) _)

variable (h : (vecAt s g).shaped)
include h

theorem exec_compare {c : Instr} {op : Word → Word → Bool} (hc : exec c s = .next (compareLanes s g f op)) :
    exec c s = .next (vecNext s g ((vecAt s g).truths f.d.toNat fun l =>
      op ((vecAt s g).lane f.a l) ((vecAt s g).lane f.b l) && ((vecAt s g).active f).testBit l)) := by
  refine exec_predicate hc fun l hl => ?_
  rw [BitVec.getLsbD_and, getLsbD_ofNat_predOf hl]
  simp [VecEngine.lane, at', hl, h]
  rfl

/-- The lanes of vA that take part in a reduction. -/
theorem reductionLanes_eq (w : Word) : fillInactive w ((vecAt s g).active f) ((vecAt s g).vreg f.a) =
    (List.range 256).map fun l => if ((vecAt s g).active f).testBit l then (vecAt s g).lane f.a l else w := by
  rw [fillInactive_eq_map, h.vreg_length]; rfl

theorem exec_reduction {c : Instr} {w : Word} {op : Word → Word → Word} (hc : exec c s = .next (reduceLanes s g f w op)) :
    exec c s = .next (vecNext s g ((vecAt s g).setS f.d.toNat (treeReduce op 8 ((List.range 256).map fun l =>
      if ((vecAt s g).active f).testBit l then (vecAt s g).lane f.a l else w)))) := by
  simp only [hc, reduceLanes, vecDo, vecNext, reductionLanes_eq h]

/-- RIADD's tree comes to the sum in the order of the lanes. -/
theorem exec_riadd : exec (.riadd g f) s = .next (vecNext s g ((vecAt s g).setS f.d.toNat
    (((List.range 256).map fun l => if ((vecAt s g).active f).testBit l then (vecAt s g).lane f.a l else 0).foldl
      (· + ·) 0))) := by
  rw [exec_reduction h (c := .riadd g f) rfl, treeReduce_add 8 (by simp), List.sum_eq_foldl]

/-- The smallest value of RMAX is −∞. -/
theorem exec_rmax : exec (.rmax g f) s = .next (vecNext s g ((vecAt s g).setS f.d.toNat
    (treeReduce f32Max 8 ((List.range 256).map fun l =>
      if ((vecAt s g).active f).testBit l then (vecAt s g).lane f.a l else 0xFF800000)))) := by
  rw [exec_reduction h (c := .rmax g f) rfl, show f32Inf true = 0xFF800000 by decide]

theorem exec_scan : exec (.scan g f) s = .next (vecNext s g ((vecAt s g).lanes f f.d.toNat fun l =>
    at' ((List.range 8).foldl (fun v r => scanRound (2 ^ r) v) ((List.range 256).map fun l =>
      if ((vecAt s g).active f).testBit l then (vecAt s g).lane f.a l else 0)) l 0)) := by
  refine congrArg _ (vecDo_put h ?_ fun l _ => ?_)
  · simp only [scanRounds_length, fillInactive_length, h.vreg_length, le_refl]
  · rw [reductionLanes_eq h]

end

/-- Settles O55: a scalar takes its result, a predicate its truth values lane by lane, and a reduction its tree over the lanes. -/
theorem scalarAndPredicateInstructions : Obligations.ScalarAndPredicateInstructions := by
  intro s g f h
  refine ⟨?_, ?_, exec_vins, exec_scan h⟩
  · simp only [forall_pair_mem_cons]
    exact ⟨rfl, rfl, rfl, rfl, rfl, rfl, rfl, rfl, rfl, exec_pcnt, rfl, exec_reduction h rfl, exec_rmax h,
      exec_riadd h, exec_reduction h rfl, forall_pair_mem_nil⟩
  · simp only [forall_pair_mem_cons]
    exact ⟨exec_compare h (op := f32Compare (condOf f)) rfl,
      exec_compare h (op := fun a b => compareBy (condOf f) false a.toInt b.toInt) rfl,
      exec_compare h (op := fun a b => compareBy (condOf f) false a.toNat b.toNat) rfl,
      exec_predicate (p := fun e => e.preg f.a.toNat &&& e.preg f.b.toNat) rfl fun _ _ => BitVec.getLsbD_and,
      exec_predicate (p := fun e => e.preg f.a.toNat ||| e.preg f.b.toNat) rfl fun _ _ => BitVec.getLsbD_or,
      exec_predicate (p := fun e => ~~~ e.preg f.a.toNat) rfl fun l hl => by simp [hl],
      exec_predicate (p := fun e => BitVec.ofNat 256 (2 ^ min 256 (e.sreg f.a.toNat).toNat - 1)) rfl
        fun l hl => getLsbD_lowLanes hl, forall_pair_mem_nil⟩

end Sys2Proof.Machine
end

section
/-!
PROOFS. Conversions between lanes and codes and the counter generator (R126, R132): a register read in groups of consecutive lanes,
and groups of results put one after another.
-/

namespace Sys2Proof.Machine

/-! ### Groups of consecutive lanes -/

theorem drop_take_eq_map {α : Type} {l : List α} {m n : Nat} (d : α) (h : m + n ≤ l.length) :
    (l.drop m).take n = (List.range n).map fun k => at' l (m + k) d := by
  refine List.ext_getElem (by simp; omega) fun k hk _ => ?_
  have hlt : m + k < l.length := by simp at hk; omega
  simp [at', hlt]

theorem chunksOf_eq_map {α : Type} (n k : Nat) (l : List α) :
    chunksOf n k l = (List.range k).map fun i => (l.drop (n * i)).take n := by
  induction k generalizing l with
  | zero => rfl
  | succ k ih => simp [chunksOf, ih, List.range_succ_eq_map, Function.comp_def, Nat.mul_succ, Nat.add_comm]

/-- The groups of a list, each element by its number in the list. -/
theorem chunksOf_eq_lanes {α : Type} {n k : Nat} {l : List α} (d : α) (h : n * k ≤ l.length) :
    chunksOf n k l = (List.range k).map fun i => (List.range n).map fun j => at' l (n * i + j) d := by
  rw [chunksOf_eq_map]
  refine List.map_congr_left fun i hi => drop_take_eq_map d (le_trans ?_ h)
  rw [← Nat.mul_succ]
  exact Nat.mul_le_mul_left n (List.mem_range.1 hi)

/-- Groups of n results one after another: result l is result l % n of group l / n. -/
theorem at'_flatten_groups {α : Type} {n k l : Nat} {group : Nat → List α} (d : α) (hg : ∀ i, (group i).length = n)
    (hl : l < n * k) : at' ((List.range k).map group).flatten l d = at' (group (l / n)) (l % n) d := by
  have hn : 0 < n := Nat.pos_of_ne_zero fun h0 => by simp [h0] at hl
  induction k generalizing l group with
  | zero => simp at hl
  | succ k ih =>
    rw [List.range_succ_eq_map, List.map_cons, List.flatten_cons, List.map_map]
    rcases Nat.lt_or_ge l n with hlt | hge
    · rw [Nat.div_eq_of_lt hlt, Nat.mod_eq_of_lt hlt, at', List.getElem?_append_left (by rwa [hg])]; rfl
    · have hrest := ih (l := l - n) (group := group ∘ Nat.succ) (fun i => hg _) (by rw [Nat.mul_succ] at hl; omega)
      rw [at', List.getElem?_append_right (by rwa [hg]), hg]
      refine hrest.trans ?_
      rw [← Nat.mod_eq_sub_mod hge, Nat.div_eq_sub_div hn hge]; rfl

/-- Results followed by zeros. -/
theorem at'_map_range_append_zeros (n m : Nat) (result : Nat → Word) (l : Nat) :
    at' ((List.range n).map result ++ List.replicate m 0) l 0 = if l < n then result l else 0 := by
  by_cases hl : l < n
  · simp [at', List.getElem?_append, hl]
  · simp only [at', List.getElem?_append, List.length_map, List.length_range, hl, if_false, List.getElem?_replicate]
    split <;> rfl

/-! ### A destination register of any number -/

/-- Writing a list of results to a vector register writes, lane by lane, what stands in the list. -/
theorem VecEngine.shaped.putLanes_eq_lanes {e : VecEngine} (h : e.shaped) {f : VFields} {i : Nat} {r : List Word}
    {op : Nat → Word} (hl : 256 ≤ r.length) (hr : ∀ l, l < 256 → at' r l 0 = op l) : e.putLanes f i r = e.lanes f i op := by
  simp only [VecEngine.putLanes, VecEngine.setV, VecEngine.lanes]
  rw [mergeLanes_eq_map (by rw [h.register_length]; exact hl), h.register_length]
  congr 2
  exact List.map_congr_left fun l hlt => by rw [hr l (List.mem_range.1 hlt)]

theorem VecEngine.shaped.lanes {e : VecEngine} (h : e.shaped) {f : VFields} {i : Nat} {op : Nat → Word} :
    (e.lanes f i op).shaped := h.setV (by simp)

/-! ### Blocks, packed words and counters, lane by lane -/

/-- Block i of vA as QBLK quantises it (R126). -/
def VecEngine.blockOf (e : VecEngine) (f : VFields) (i : Nat) : Nat × List Int × Stats :=
  quantBlock (Format.ofCode (f.imm.toNat % 8)) ((e.sreg f.b.toNat).truncate 8).toInt
    ((List.range 32).map fun k => f32 (e.lane f.a (32 * i + k)))

/-- The k fields that PACK puts together in lane l, where a word holds k (R126 Table 6). -/
def VecEngine.packedAt (e : VecEngine) (f : VFields) (l : Nat) : Nat :=
  let w := packWidth f.imm.toNat
  if l < 8 * w then packWord w ((List.range (32 / w)).map fun k => e.lane f.a (32 / w * l + k)) else 0

/-- Field i of a word that UNPACK takes apart (R126 Table 6). -/
def unpackedField (f : VFields) (a : Word) (i : Nat) : Word :=
  let w := packWidth f.imm.toNat
  let v := bits a.toNat (w * i + w - 1) (w * i)
  if f.imm.getLsbD 2 && decide (2 ^ (w - 1) ≤ v) then BitVec.ofInt 32 ((v : Int) - (2 ^ w : Nat)) else BitVec.ofNat 32 v

/-- The four words of the counter generator for lane l (R132). -/
def VecEngine.draw (e : VecEngine) (f : VFields) (l : Nat) : Quad :=
  counterGen ⟨e.sreg f.a.toNat, e.sreg (f.a.toNat + 1), e.sreg (f.a.toNat + 2), e.sreg (f.a.toNat + 3)⟩
    ⟨e.lane f.b l, e.sreg f.c.toNat, e.sreg (f.c.toNat + 1), f.imm⟩

section
variable {e : VecEngine} (h : e.shaped) {f : VFields}
include h

/-- The eight blocks that QBLK quantises. -/
theorem VecEngine.shaped.quantBlocks_eq : ((chunksOf 32 8 (e.vreg f.a)).map fun b => quantBlock (Format.ofCode (f.imm.toNat % 8))
    ((e.sreg f.b.toNat).truncate 8).toInt (b.map f32)) = (List.range 8).map (e.blockOf f) := by
  rw [chunksOf_eq_lanes 0 (by simp [h])]
  simp only [List.map_map]
  rfl

/-- The codes of the eight blocks one after another. -/
theorem VecEngine.shaped.put_codes : e.put f (((List.range 8).map (e.blockOf f)).map fun b =>
    b.2.1.map fun q => BitVec.ofInt 32 q).flatten =
      e.lanes f f.d.toNat fun l => BitVec.ofInt 32 (at' (e.blockOf f (l / 32)).2.1 (l % 32) 0) := by
  have hcodes (i : Nat) : (e.blockOf f i).2.1.length = 32 := by simp [VecEngine.blockOf]
  rw [List.map_map]
  refine h.put_eq_lanes (by simp [List.length_flatten, Function.comp_def, hcodes]) fun l hl => ?_
  refine (at'_flatten_groups 0 (fun i => (List.length_map _).trans (hcodes i)) hl).trans ?_
  simp [at', hcodes, Nat.mod_lt]

/-- The words that PACK makes, and zeros above them. -/
theorem VecEngine.shaped.at'_packed (l : Nat) :
    at' (((chunksOf (32 / packWidth f.imm.toNat) (256 / (32 / packWidth f.imm.toNat)) (e.vreg f.a)).map fun c =>
      BitVec.ofNat 32 (packWord (packWidth f.imm.toNat) c)) ++ List.replicate (256 - 256 / (32 / packWidth f.imm.toNat)) 0)
      l 0 = BitVec.ofNat 32 (e.packedAt f l) := by
  simp only [VecEngine.packedAt]
  generalize hw : packWidth f.imm.toNat = w
  have hcount : 256 / (32 / w) = 8 * w ∧ 32 / w * (8 * w) = 256 := by
    obtain rfl | rfl | rfl := hw ▸ packWidth_cases f.imm.toNat <;> decide
  rw [hcount.1, chunksOf_eq_lanes 0 (by rw [hcount.2, h.vreg_length]), List.map_map, at'_map_range_append_zeros]
  split <;> rfl

/-- The fields of equal width that UNPACK takes apart. -/
theorem VecEngine.shaped.at'_unpacked {k l : Nat} (hk : k * (256 / k) = 256) (hl : l < 256) :
    at' (((e.vreg f.a).take (256 / k)).map fun a => (List.range k).map (unpackedField f a)).flatten l 0 =
      unpackedField f (e.lane f.a (l / k)) (l % k) := by
  have hpos : 0 < k := Nat.pos_of_ne_zero fun h0 => by simp [h0] at hk
  have htake := drop_take_eq_map (l := e.vreg f.a) (m := 0) (n := 256 / k) 0
    (by rw [h.vreg_length, Nat.zero_add]; exact Nat.div_le_self 256 k)
  rw [List.drop_zero] at htake
  rw [htake, List.map_map, at'_flatten_groups (n := k) 0 (fun i => by simp) (by rwa [hk])]
  simp [at', VecEngine.lane, Nat.mod_lt _ hpos]

/-- Lane l of what the counter generator gives, read by `word`. -/
theorem VecEngine.shaped.at'_ctrLanes (word : Quad → Word) {l : Nat} (hl : l < 256) :
    at' ((ctrLanes e f).map word) l 0 = word (e.draw f l) := by
  simp [at', ctrLanes, VecEngine.draw, VecEngine.lane, h, hl]

/-- One word of what the counter generator gives, in any vector register of an engine whose lanes have been written. -/
theorem VecEngine.shaped.putLanes_ctrLanes {e' : VecEngine} (h' : e'.shaped) (i : Nat) (word : Quad → Word) :
    e'.putLanes f i ((ctrLanes e f).map word) = e'.lanes f i fun l => word (e.draw f l) :=
  h'.putLanes_eq_lanes (by simp [ctrLanes_length h]) fun _ hl => h.at'_ctrLanes word hl

end

/-! ### The instructions -/

section
variable {s : State} {g : Fin 128} {f : VFields} (h : (vecAt s g).shaped)
include h

/-- QBLK with no window declared for the operand that its saturations count for. -/
theorem exec_qblk (hw : at' (vecAt s g).windows (f.imm.toNat / 16 % 4) none = none) :
    exec (.qblk g f) s = .next (vecNext s g (((vecAt s g).lanes f f.d.toNat fun l =>
      BitVec.ofInt 32 (at' ((vecAt s g).blockOf f (l / 32)).2.1 (l % 32) 0)).setS f.c.toNat
        (BitVec.ofNat 32 (packOffsets ((List.range 8).map fun i => ((vecAt s g).blockOf f i).1))))) := by
  have hrecord (st : Stats) : recordOperand s (vecAt s g) (f.imm.toNat / 16 % 4) st = s := by simp [recordOperand, hw]
  change execQblk g f s = _
  simp only [execQblk, done, hrecord, h.quantBlocks_eq, vecDo, vecNext, h.put_codes]
  rw [List.map_map]
  rfl

theorem exec_dqblk : exec (.dqblk g f) s = .next (vecNext s g ((vecAt s g).lanes f f.d.toNat fun l => f32OfDy
    ⟨((vecAt s g).lane f.a l).toInt, (Format.ofCode (f.imm.toNat % 8)).stepExp (((vecAt s g).sreg f.b.toNat).truncate 8).toInt
      (bits ((vecAt s g).sreg f.c.toNat).toNat (4 * (l / 32) + 3) (4 * (l / 32)))⟩ false)) :=
  congrArg done (vecDo_put h (by simp [h]) fun l hl => by simp [at', VecEngine.lane, h, hl])

theorem exec_pack : exec (.pack g f) s = .next (vecNext s g ((vecAt s g).lanes f f.d.toNat fun l =>
    BitVec.ofNat 32 ((vecAt s g).packedAt f l))) :=
  congrArg done (vecDo_put h (by simp [chunksOf_length]; omega) fun l _ => h.at'_packed l)

theorem exec_unpack : exec (.unpack g f) s = .next (vecNext s g ((vecAt s g).lanes f f.d.toNat fun l =>
    unpackedField f ((vecAt s g).lane f.a (l / (32 / packWidth f.imm.toNat))) (l % (32 / packWidth f.imm.toNat)))) := by
  have hk : 32 / packWidth f.imm.toNat * (256 / (32 / packWidth f.imm.toNat)) = 256 := by
    obtain hw | hw | hw := packWidth_cases f.imm.toNat <;> rw [hw]
  exact congrArg done (vecDo_put h (unpacked_length (h.vreg_length f.a) (packWidth_cases f.imm.toNat)).ge
    fun l hl => h.at'_unpacked hk hl)

theorem exec_ctr : exec (.ctr g f) s = .next (vecNext s g ((vecAt s g).lanes f f.d.toNat fun l =>
    ((vecAt s g).draw f l).w0)) :=
  congrArg (done <| vecNext s g ·) (h.putLanes_ctrLanes h f.d.toNat fun q => q.w0)

theorem exec_unif : exec (.unif g f) s = .next (vecNext s g ((vecAt s g).lanes f f.d.toNat fun l =>
    drawUnit ((vecAt s g).draw f l).w0)) :=
  congrArg (done <| vecNext s g ·) (h.putLanes_ctrLanes h f.d.toNat fun q => drawUnit q.w0)

theorem exec_ctr4 : exec (.ctr4 g f) s = .next (vecNext s g
    (((((vecAt s g).lanes f f.d.toNat fun l => ((vecAt s g).draw f l).w0).lanes f (f.d.toNat + 1) fun l =>
      ((vecAt s g).draw f l).w1).lanes f (f.d.toNat + 2) fun l => ((vecAt s g).draw f l).w2).lanes f (f.d.toNat + 3)
      fun l => ((vecAt s g).draw f l).w3)) := by
  change execCtr4 g f s = _
  simp only [execCtr4, done, vecDo, vecNext, h.putLanes_ctrLanes h, h.putLanes_ctrLanes h.lanes,
    h.putLanes_ctrLanes h.lanes.lanes, h.putLanes_ctrLanes h.lanes.lanes.lanes]

end

/-- Settles O56: blocks, fields and counters are read lane by lane, and each instruction writes what its lane's group gives. -/
theorem conversionAndCounterInstructions : Obligations.ConversionAndCounterInstructions := by
  intro s g f h
  exact ⟨exec_qblk h, exec_dqblk h, exec_pack h, exec_unpack h, exec_ctr h, exec_unif h, exec_ctr4 h⟩

end Sys2Proof.Machine
end

section
/-!
PROOFS. Window faults (R129): what a fault leaves alone, counts and records, and what LD, LDQ, ST and STQ do with a slot beyond
the window.
-/

namespace Sys2Proof.Machine

/-! ### The fault -/

section
variable {s : State} {g n : Nat}

@[simp] theorem windowFault_sched : (windowFault s g n).sched = s.sched := by
  unfold windowFault; split <;> simp

@[simp] theorem vecAt_windowFault (k : Nat) : vecAt (windowFault s g n) k = vecAt s k := by
  have hvec : (windowFault s g n).vec = s.vec := by unfold windowFault; split <;> simp
  rw [vecAt, hvec, vecAt]

theorem windowFault_tally (hn : n < 2 ^ 32) : (windowFault s g n).tally = s.tally.event
    ⟨0x0220, g, 2, s.time, 0, 0, (vecAt s g).program % 2 ^ 32, (vecAt s g).pc % 2 ^ 32, (vecAt s g).run % 2 ^ 32, n⟩ := by
  have hslot : n % 2 ^ 32 = n := Nat.mod_eq_of_lt hn
  unfold windowFault; split <;> simp only [tally, hslot, count_keeps]

theorem jobAt_count {k : Nat} {x : Job} {f : Counters → Counters} (hx : jobAt s k = some x) :
    jobAt (count s k f) k = some { x with counters := f x.counters } :=
  (jobAt_setJob (f := fun x => { x with counters := f x.counters }) fun _ => rfl).trans (by rw [hx]; rfl)

theorem windowFault_counts {r : Run} {x : Job} (hr : s.sched.run = some r) (hx : jobAt s r.adm.job = some x) :
    jobAt (windowFault s g n) r.adm.job =
      some { x with counters := { x.counters with vecFaults := x.counters.vecFaults + 1 } } := by
  have hcount : jobAt (windowFault s g n) r.adm.job =
      jobAt (count s r.adm.job fun c => { c with vecFaults := c.vecFaults + 1 }) r.adm.job := by
    simp only [jobAt, windowFault, hr, tally_keeps]
  rw [hcount, jobAt_count hx]

/-- An instruction that has faulted acts on the engine as it stood. -/
theorem vecDo_windowFault {k : VecEngine → VecEngine} {e : VecEngine} (hk : k (vecAt s g) = e) :
    vecDo (windowFault s g n) g k = vecNext (windowFault s g n) g e := by
  rw [vecDo, vecAt_windowFault, hk]; rfl

end

/-! ### Loads and stores beyond the window -/

theorem VecEngine.shaped.putLanes_zeroLanes {e : VecEngine} (h : e.shaped) {f : VFields} (i : Nat) :
    e.putLanes f i zeroLanes = e.lanes f i fun _ => 0 :=
  h.putLanes_eq_lanes List.length_replicate.ge fun _ => at'_replicate

section
variable {s : State} {g : Fin 128} {f : VFields}

theorem exec_vst_fault (hslot : slotAt (vecAt s g) (f.imm.toNat % 4) (slotOf (vecAt s g) f.b.toNat f) = none) :
    exec (.vst g f) s = .next (vecNext (windowFault s g (slotOf (vecAt s g) f.b.toNat f)) g (vecAt s g)) := by
  change execVst g f s = _
  simp only [execVst, hslot, done]
  rw [vecDo_windowFault rfl]; rfl

theorem exec_stq_fault (hslot : slotAt (vecAt s g) (f.imm.toNat % 4) (slotOf (vecAt s g) f.b.toNat f) = none) :
    exec (.stq g f) s = .next (vecNext (windowFault s g (slotOf (vecAt s g) f.b.toNat f)) g (vecAt s g)) := by
  change execStq g f s = _
  simp only [execStq, hslot, done]
  rw [vecDo_windowFault rfl]; rfl

variable (h : (vecAt s g).shaped)
  (hslot : slotAt (vecAt s g) (f.imm.toNat % 4) (slotOf (vecAt s g) f.a.toNat f) = none)
include h hslot

theorem exec_ldq_fault : exec (.ldq g f) s = .next (vecNext (windowFault s g (slotOf (vecAt s g) f.a.toNat f)) g
    ((vecAt s g).lanes f f.d.toNat fun _ => 0)) := by
  change execLdq g f s = _
  simp only [execLdq, hslot, done]
  rw [vecDo_windowFault (h.putLanes_zeroLanes f.d.toNat)]

/-- An LD of an int64 operand returns zeros in both of its registers. -/
theorem exec_vld_fault : exec (.vld g f) s = .next (vecNext (windowFault s g (slotOf (vecAt s g) f.a.toNat f)) g
    (if (at' (vecAt s g).windows (f.imm.toNat % 4) none).any fun w => w.format = .int64 then
      ((vecAt s g).lanes f f.d.toNat fun _ => 0).lanes f (f.d.toNat + 1) fun _ => 0
      else (vecAt s g).lanes f f.d.toNat fun _ => 0)) := by
  change execVld g f s = _
  simp only [execVld, hslot, done]
  refine congrArg _ (vecDo_windowFault ?_)
  rw [VecEngine.put, h.putLanes_zeroLanes, h.lanes.putLanes_zeroLanes]

end

/-- Settles O58: a fault changes the job's count and the Tally alone, and the instruction goes on with the engine as it stood. -/
theorem windowFaultsReadZerosAndWriteNothing : Obligations.WindowFaultsReadZerosAndWriteNothing := by
  intro s g f h
  refine ⟨fun hslot => ⟨exec_ldq_fault h hslot, exec_vld_fault h hslot⟩, fun hslot => ?stores,
    fun n hn => ⟨windowFault_sched, vecAt_windowFault g, windowFault_tally hn, fun r x hr hx => ⟨_, windowFault_counts hr hx, rfl⟩⟩⟩
  case stores =>
    simp only [List.forall_mem_cons]
    exact ⟨exec_vst_fault hslot, exec_stq_fault hslot, fun _ hc => absurd hc List.not_mem_nil⟩

end Sys2Proof.Machine
end

section
/-!
PROOFS. A vector instruction whose statistics go to a scale entry (R24) notes them in the running step too, among what the
micro-batch has added to that entry (R29), so the running step does not stay as it was.
-/

namespace Sys2Proof.Machine

/-- A BX8 object of one tile. -/
def oneTile : ObjEntry :=
  ⟨5, .bx8, 2, .activation, false, 0, false, false, false, false, false, 0, 0, [64, 128, 1, 1, 1]⟩

/-- A VEC of one run that reads object 5 as m0. -/
def readOneTile : Desc :=
  ⟨0x07, false, false, noLoop, 0, [], 0, 0xFFFF, [⟨5, 0, 0, 0⟩, ⟨noObject, 0, 0, 0⟩, ⟨noObject, 0, 0, 0⟩, ⟨noObject, 0, 0, 0⟩],
    [0, 0, 0, 0, 0, 0, 0, 0]⟩

/-- HDR with one run and a window of one tile for m0, and LDQ v1, s2, s4 of m0. -/
def ldqProgram : List DWord := [0x0000000100000100, 0x0000000020041072]

/-- A step of job 1 on context 0 with that VEC alone, past the context switch and the entry round. -/
def ldqStep : Run :=
  { adm := ⟨1, 0, 1, ⟨0, 1, 256, noLoop, 0, [oneTile], [{}], [readOneTile], [], [], [ldqProgram], []⟩, 1000, 1000, false, false,
      false, false, 0, 0, 0, 0, 0x1403, [0, 0, 0, 0, 0, 0], false, [], 0, 0, 0, 0, 0, []⟩
    started := 0
    switched := true
    entered := 1 }

/-- The device in SERVICE with that step running. The first element of object 5 holds the code −128, which the load path replaces
by −127 and counts (R19). -/
def ldqDevice : State :=
  { State.reset with
    dev := { State.reset.dev with state := .service, stage := 4 }
    ctxs := [{ number := 0, objects := [{ entry := oneTile, data := [(128, 0x80)] }], scales := [{}] }]
    jobs := [{ number := 1 }]
    sched := { State.reset.sched with run := some ldqStep } }

/-- Grove 0 at the start of the run. -/
def ldqRun : State := beginRun ldqDevice 0 ⟨0, 0, 0⟩ ldqStep readOneTile 0

/-- The state after the run's LDQ. -/
def ldqDone : State := Outcome.orKeep ldqRun (execLdq 0 (vfieldsOfWord 0x0000000020041072) ldqRun)

theorem execLdq_ldqRun : execLdq 0 (vfieldsOfWord 0x0000000020041072) ldqRun = .next ldqDone := rfl

theorem ldqRun_parts : ldqRun.sched.run.map (fun r => r.parts) = some [] := rfl

/-- The replaced code counts as one saturation of scale entry 0. -/
theorem ldqDone_parts : ldqDone.sched.run.map (fun r => r.parts) = some [(none, 0, { sat := 1 })] := by decide +kernel

/-- Refutes O59: an LDQ that meets a code −128 adds to the statistics that the running step keeps of its micro-batch, so the work
in hand does not stay as it is. -/
theorem not_vectorInstructionsLeaveTheRest : ¬ Obligations.VectorInstructionsLeaveTheRest := by
  intro h
  have hrest := h ldqRun ldqDone 0 0x72 execLdq (vfieldsOfWord 0x0000000020041072) rfl execLdq_ldqRun
  obtain ⟨-, -, -, -, -, -, -, -, -, -, -, -, -, -, -, hsched, -⟩ := hrest
  have hparts := ldqDone_parts
  rw [hsched, ldqRun_parts] at hparts
  cases hparts

end Sys2Proof.Machine
end

section
/-!
PROOFS. What the answer of a fabric message rests on: a device that is not off and not in HALT answers (R281, R305), a chunk is
taken for a joined job's step that is still open (R281), and a neighbour's tile is kept while its port's bytes stay within LEND
(R226, R248).
-/

namespace Sys2Proof.Machine

theorem fabricRuns_iff {s : State} : fabricRuns s = true ↔ s.dev.state ≠ .off ∧ s.dev.state ≠ .halt := by
  simp [fabricRuns]

/-! ### Chunks (R281) -/

/-- The state with one more chunk discarded. -/
def discardChunk (s : State) : State := { s with fabric := { s.fabric with discarded := s.fabric.discarded + 1 } }

/-- The state with a chunk of another name held too. -/
def holdChunk (s : State) (h : ChunkHeader) (data : ChunkData) : State :=
  { s with fabric := { s.fabric with chunks := s.fabric.chunks ++ [⟨h, data.info, data.bytes⟩] } }

theorem execChunkReceive_taken {s : State} {h : ChunkHeader} {j : Job} (data : ChunkData) (hrun : fabricRuns s = true)
    (hj : jobAt s h.job = some j) (hjoined : j.joined = true) (hopen : ∀ n, j.lastCompleted = some n → n < h.step) :
    execChunkReceive h data s = .next (notice
      (if s.fabric.chunks.any fun c => ChunkHeader.same c.h h then s else holdChunk s h data) h.source 3 h.chunk) := by
  cases hlast : j.lastCompleted with
  | none => simp [execChunkReceive, done, holdChunk, hrun, hj, hjoined, hlast]
  | some n => simp [execChunkReceive, done, holdChunk, hrun, hj, hjoined, hlast, hopen n hlast]

theorem execChunkReceive_discarded {s : State} {h : ChunkHeader} (data : ChunkData) (hrun : fabricRuns s = true)
    (hnot : ∀ j, jobAt s h.job = some j → j.joined = false ∨ ∃ n, j.lastCompleted = some n ∧ h.step ≤ n) :
    execChunkReceive h data s = .next (discardChunk s) := by
  cases hj : jobAt s h.job with
  | none => simp [execChunkReceive, done, discardChunk, hrun, hj]
  | some j =>
    obtain hjoined | ⟨n, hlast, hn⟩ := hnot j hj
    · simp [execChunkReceive, done, discardChunk, hrun, hj, hjoined]
    · simp [execChunkReceive, done, discardChunk, hrun, hj, hlast, hn]

/-! ### Queries (R197, R292, R305) -/

theorem execMemberQuery_alive {s : State} (job device : Nat) (hrun : fabricRuns s = true) :
    execMemberQuery job device s = .next (notice s device 4 0) := by
  simp [execMemberQuery, done, hrun]

/-- A payload that agrees with this device's marks no mismatch, so the answer is all that the query leaves. -/
theorem execJobStepQuery_agrees {s : State} {job : Nat} {j : Job} {box : JobBox} (device : Nat) (hhalt : s.dev.state ≠ .halt)
    (hj : jobAt s job = some j) (hbox : j.box = none ∨ j.box = some box) :
    execJobStepQuery job device box s = .next (notice s device 5 (j.lastCompleted.getD 0)) := by
  obtain hbox | hbox := hbox <;> simp [execJobStepQuery, done, hj, hhalt, hbox]

theorem execVersionConfirmRequest_known {s : State} {ctx n v : Nat} {o : Obj} (device mb : Nat) (ho : objAt s ctx n = some o)
    (hv : v = o.version ∨ v = o.prevVersion) :
    execVersionConfirmRequest device ctx mb n v s = .next (notice
      { s with fabric := { s.fabric with retained := (device, ctx, mb, n, v) :: s.fabric.retained } } device 1 n) := by
  simp [execVersionConfirmRequest, done, ho, hv]

theorem execVersionConfirmRequest_unknown {s : State} {ctx n v : Nat} {o : Obj} (device mb : Nat) (ho : objAt s ctx n = some o)
    (hv : v ≠ o.version) (hprev : v ≠ o.prevVersion) :
    execVersionConfirmRequest device ctx mb n v s = .next (notice s device 2 n) := by
  simp [execVersionConfirmRequest, done, ho, hv, hprev]

/-! ### Tier lending (R226, R245, R248) -/

/-- The lent tiles without the one of a port's tile name. -/
def lentOther (s : State) (p : Fin 7) (object tile : Nat) : List LentTile :=
  s.fabric.lent.filter fun x => !(x.port == (p : Nat) && x.object == object && x.tile == tile)

/-- The bytes that a port holds beside the tile of that name. -/
def lentOtherBytes (s : State) (p : Fin 7) (object tile : Nat) : Nat :=
  (((lentOther s p object tile).filter fun x => x.port == (p : Nat)).map fun x => x.data.length).sum

section
variable {s : State} {p : Fin 7} (hrun : fabricRuns s = true) (hup : (portAt s p).state = .up)
  (hquar : (portAt s p).quarantine = 0)
include hrun hup hquar

theorem execTierLending_learn (gib : Nat) : execTierLending p (.learn gib) s =
    .next { s with fabric := { s.fabric with lends := s.fabric.lends.set p gib } } := by
  simp [execTierLending, done, hrun, hup, hquar]

theorem execTierLending_store (object tile : Nat) (data : List Byte) : execTierLending p (.store object tile data) s =
    .next (if lentOtherBytes s p object tile + data.length ≤ bits (inForce s 3) 5 0 * 2 ^ 30 then
      { s with fabric := { s.fabric with lent := lentOther s p object tile ++ [⟨p, object, tile, data⟩] } } else s) := by
  simp only [execTierLending, done, hrun, hup, hquar]
  rfl

theorem execTierLending_free : execTierLending p .free s =
    .next { s with fabric := { s.fabric with lent := s.fabric.lent.filter fun x => x.port != (p : Nat) } } := by
  simp [execTierLending, done, hrun, hup, hquar]

end

/-- Settles O50: each message comes down to the one case of its rule that the hypotheses select on a device that answers. -/
theorem fabricMessagesAreAnswered : Obligations.FabricMessagesAreAnswered := by
  refine ⟨fun s hoff hhalt => ?messages, fun s p object tile gib data hoff hhalt hup hquar => ?lending⟩ <;>
    have hrun : fabricRuns s = true := fabricRuns_iff.2 ⟨hoff, hhalt⟩
  case messages =>
    refine ⟨fun h data j hj hjoined hopen => ⟨fun hnew => ?new, fun hheld => ?held⟩,
      fun h data hnot => execChunkReceive_discarded data hrun hnot, fun h => rfl,
      fun job device => execMemberQuery_alive job device hrun,
      fun job device box j hj hbox => execJobStepQuery_agrees device hhalt hj hbox,
      fun device ctx mb n v o ho => ⟨execVersionConfirmRequest_known device mb ho,
        execVersionConfirmRequest_unknown device mb ho⟩⟩
    case new =>
      have hany : (s.fabric.chunks.any fun c => ChunkHeader.same c.h h) = false := by simpa using hnew
      exact (execChunkReceive_taken data hrun hj hjoined hopen).trans (by rw [hany]; rfl)
    case held =>
      have hany : (s.fabric.chunks.any fun c => ChunkHeader.same c.h h) = true := List.any_eq_true.2 hheld
      exact (execChunkReceive_taken data hrun hj hjoined hopen).trans (by rw [hany]; rfl)
  case lending =>
    exact ⟨execTierLending_learn hrun hup hquar gib,
      fun hfits => (execTierLending_store hrun hup hquar object tile data).trans (congrArg _ (if_pos hfits)),
      fun hover => (execTierLending_store hrun hup hquar object tile data).trans (congrArg _ (if_neg (Nat.not_le.2 hover))),
      execTierLending_free hrun hup hquar⟩

end Sys2Proof.Machine
end

section
/-!
PROOFS. What keeps the byte memories that the host reaches in canonical form (O5). Nearly every operation has the frame
of Laws/Frame.lean, which holds these memories. `MemoryKept` is a statement under which the simplification lemmas of
that file still apply, so that what follows speaks only of the operations that have no frame: those that write a memory,
make the memories anew, or change the time, the device state, the size of a table or the executed instances.
-/

namespace Sys2Proof.Machine

variable {s t u : State}

/-! ### Memories and frames -/

/-- The canonical form rests on five parts of a state. -/
theorem memoryOk_congr (hd : t.mem.dram = s.mem.dram) (hb : t.mem.fwBuffer = s.mem.fwBuffer)
    (hp : t.mem.placements = s.mem.placements)
    (hi : t.flash.slots.map (fun x => x.image) = s.flash.slots.map (fun x => x.image))
    (hr : t.mbx.map (fun b => b.request) = s.mbx.map (fun b => b.request)) : t.memoryOk ↔ s.memoryOk := by
  have images (u : State) : (∀ x ∈ u.flash.slots, Mem.wf x.image = true) ↔
      ∀ m ∈ u.flash.slots.map fun x => x.image, Mem.wf m = true := by simp
  have requests (u : State) : (∀ b ∈ u.mbx, Mem.wf b.request = true) ↔
      ∀ m ∈ u.mbx.map fun b => b.request, Mem.wf m = true := by simp
  simp only [State.memoryOk, images, requests, hd, hb, hp, hi, hr]

theorem Frame.memoryOk_iff (f : Frame s t) : t.memoryOk ↔ s.memoryOk :=
  memoryOk_congr f.dram f.buffer f.placements f.images f.request

/-- When the memories of s are canonical, p holds of some state whose memories are canonical. With `Frame · t` for p
this says that t keeps the canonical form (`memoryKept_iff`). -/
def MemoryKept (s : State) (p : State → Prop) : Prop := s.memoryOk → ∃ z : State, z.memoryOk ∧ p z

theorem memoryKept_iff : MemoryKept s (Frame · t) ↔ (s.memoryOk → t.memoryOk) :=
  forall_congr' fun _ => ⟨fun ⟨_, hz, f⟩ => f.memoryOk_iff.2 hz, fun h => ⟨t, h, .refl t⟩⟩

@[simp] theorem MemoryKept.refl (s : State) : MemoryKept s (Frame · s) := memoryKept_iff.2 id

theorem MemoryKept.next (h : MemoryKept s (Frame · t)) (k : t.memoryOk → u.memoryOk) : MemoryKept s (Frame · u) :=
  memoryKept_iff.2 (k ∘ memoryKept_iff.1 h)

theorem MemoryKept.trans (h : MemoryKept s (Frame · t)) (k : MemoryKept t (Frame · u)) : MemoryKept s (Frame · u) :=
  h.next (memoryKept_iff.1 k)

@[simp] theorem memoryKept_ite {c : Prop} [Decidable c] {p q : State → Prop} :
    MemoryKept s (fun z => if c then p z else q z) ↔ if c then MemoryKept s p else MemoryKept s q := by
  split <;> rfl

theorem memoryKept_foldl {α : Type} {f : State → α → State} (hf : ∀ t x, MemoryKept t (Frame · (f t x)))
    (h : MemoryKept s (Frame · t)) (l : List α) : MemoryKept s (Frame · (l.foldl f t)) := by
  induction l generalizing t with
  | nil => exact h
  | cons x l ih => exact ih (h.trans (hf t x))

/-- A record update that leaves the memories alone. -/
@[simp] theorem memoryKept_mk {ti fr pe b d l rg mb c f ta g stk i me cx k j sc stm fa v}
    (hd : me.dram = t.mem.dram) (hb : me.fwBuffer = t.mem.fwBuffer) (hp : me.placements = t.mem.placements)
    (hi : f.slots.map (fun x => x.image) = t.flash.slots.map (fun x => x.image))
    (hr : mb.map (fun b => b.request) = t.mbx.map (fun b => b.request)) :
    MemoryKept s (Frame · ⟨ti, fr, pe, b, d, l, rg, mb, c, f, ta, g, stk, i, me, cx, k, j, sc, stm, fa, v, t.spdm⟩) ↔
      MemoryKept s (Frame · t) := by
  rw [memoryKept_iff, memoryKept_iff]
  exact imp_congr_right fun _ => memoryOk_congr hd hb hp hi hr

theorem mem_modify {α : Type} {f : α → α} {i : Nat} {l : List α} {y : α} (h : y ∈ l.modify i f) :
    y ∈ l ∨ ∃ x ∈ l, y = f x := by
  induction l generalizing i with
  | nil => simp at h
  | cons x l ih => cases i <;> simp at h <;> grind

section
variable (h : MemoryKept s (Frame · t))
include h

/-! ### Writes to a memory -/

theorem setMbx_memoryKept {m} {f : Mailbox → Mailbox}
    (hf : ∀ b, Mem.wf b.request = true → Mem.wf (f b).request = true) :
    MemoryKept s (Frame · (setMbx t m f)) := by
  refine h.next fun ⟨hdram, hbuffer, himages, hplaced, hrequests⟩ => ⟨hdram, hbuffer, himages, hplaced, fun b hb => ?_⟩
  obtain hb | ⟨c, hc, rfl⟩ := mem_modify hb
  · exact hrequests b hb
  · exact hf c (hrequests c hc)

theorem setSlot_memoryKept {k} {f : FwSlot → FwSlot} (hf : ∀ x, Mem.wf x.image = true → Mem.wf (f x).image = true) :
    MemoryKept s (Frame · (setSlot t k f)) := by
  refine h.next fun ⟨hdram, hbuffer, himages, hrest⟩ => ⟨hdram, hbuffer, fun x hx => ?_, hrest⟩
  obtain hx | ⟨y, hy, rfl⟩ := mem_modify hx
  · exact himages x hx
  · exact hf y (himages y hy)

/-- Other placement slots, canonical when those of t are. -/
theorem placements_memoryKept {l : List Placement}
    (hl : (∀ p ∈ t.mem.placements, Mem.wf p.data = true) → ∀ p ∈ l, Mem.wf p.data = true) :
    MemoryKept s (Frame · { t with mem := { t.mem with placements := l } }) :=
  h.next fun ⟨hdram, hbuffer, himages, hplaced, hrequests⟩ => ⟨hdram, hbuffer, himages, hl hplaced, hrequests⟩

omit h in
/-- The slots after a change of the first one that meets a test. -/
theorem modifyWhere_placements_wf {p : Placement → Bool} {f : Placement → Placement} {l : List Placement}
    (hf : ∀ q, Mem.wf q.data = true → Mem.wf (f q).data = true) (hl : ∀ q ∈ l, Mem.wf q.data = true) :
    ∀ q ∈ modifyWhere p f l, Mem.wf q.data = true := by
  intro q hq
  obtain hq | ⟨x, hx, rfl⟩ := mem_modifyWhere hq
  · exact hl q hq
  · exact hf x (hl x hx)

/-- A write to a pair of pages stores into two request pages (R338). -/
@[simp] theorem writePage_memoryKept {m a data} : MemoryKept s (Frame · (writePage t m a data)) :=
  setMbx_memoryKept (setMbx_memoryKept h fun _ => Mem.store_wf _ _) fun _ => Mem.store_wf _ _

/-- A byte of device memory belongs to the stacks, to an object, to a page or to a placement slot. -/
@[simp] theorem devWrite_memoryKept {a v} : MemoryKept s (Frame · (devWrite t a v)) := by
  unfold devWrite; split
  · exact h.next fun ⟨hdram, hrest⟩ => ⟨Mem.set_wf _ _ hdram, hrest⟩
  · simp [h]
  · simp [h]
  · exact placements_memoryKept h (modifyWhere_placements_wf fun _ => Mem.set_wf _ _)
  · exact h

@[simp] theorem placementDo_memoryKept {j o acc} : MemoryKept s (Frame · (placementDo t j o acc)) := by
  unfold placementDo; split
  · simp [h]
  · simp [h]
  · simp [h]
  · rename_i p data _
    have stored := placements_memoryKept h (modifyWhere_placements_wf (p := fun q => q.slot == j)
      (f := fun q => { q with data := Mem.store q.data o (data.take (p.bytes - o)) }) fun _ => Mem.store_wf _ _)
    simpa using stored

@[simp] theorem wipeStack_memoryKept {k} : MemoryKept s (Frame · (wipeStack t k)) :=
  h.next fun ⟨hdram, hbuffer, himages, hplaced, hrequests⟩ =>
    ⟨Mem.filter_wf _ hdram, hbuffer, himages,
      List.forall_mem_map.2 fun p hp => Mem.filter_wf _ (hplaced p hp), hrequests⟩

/-! ### Resets, fatal errors and start-up -/

/-- The complete reset makes all the memories anew but for the flash. -/
@[simp] theorem deviceReset_memoryKept : MemoryKept s (Frame · (deviceReset t)) := by
  refine h.next fun ⟨_, _, himages, _, _⟩ => ⟨rfl, rfl, himages, fun _ hp => absurd hp List.not_mem_nil, fun b hb => ?_⟩
  rw [List.eq_of_mem_replicate hb, Mem.wf_nil]

@[simp] theorem idle_memoryKept : MemoryKept s (Frame · (idle t)) := by simp [idle, h]

@[simp] theorem fatalWith_memoryKept {answer severity code source p0 p1 p2 p3} :
    MemoryKept s (Frame · (fatalWith answer severity t code source p0 p1 p2 p3)) := by
  unfold fatalWith; split
  · exact h
  · exact h
  · simp [h]

@[simp] theorem fatalAs_memoryKept {severity code source p0 p1 p2 p3} :
    MemoryKept s (Frame · (fatalAs severity t code source p0 p1 p2 p3)) := fatalWith_memoryKept h

@[simp] theorem fatal_memoryKept {code source p0 p1 p2 p3} :
    MemoryKept s (Frame · (fatal t code source p0 p1 p2 p3)) := fatalWith_memoryKept h

@[simp] theorem lossFatal_memoryKept {island} : MemoryKept s (Frame · (lossFatal t island)) := by simp [lossFatal, h]

@[simp] theorem loseSapling_memoryKept {die cause index} : MemoryKept s (Frame · (loseSapling t die cause index)) :=
  fatalAs_memoryKept h

@[simp] theorem beginStart_memoryKept : MemoryKept s (Frame · (beginStart t)) := by simp [beginStart, h]

@[simp] theorem powerDown_memoryKept : MemoryKept s (Frame · (powerDown t)) :=
  (deviceReset_memoryKept h).next (memoryOk_congr rfl rfl rfl rfl rfl).2

@[simp] theorem stageDown_memoryKept {cause mv} : MemoryKept s (Frame · (stageDown t cause mv)) := by
  simp [stageDown, h]

@[simp] theorem loseLink_memoryKept {cause} : MemoryKept s (Frame · (loseLink t cause)) := by simp [loseLink, h]

@[simp] theorem resetNow_memoryKept {cause} : MemoryKept s (Frame · (resetNow t cause)) := by simp [resetNow, h]

@[simp] theorem loadFlash_memoryKept : MemoryKept s (Frame · (loadFlash t)) := by
  unfold loadFlash; dsimp only
  split <;> simp [h]

@[simp] theorem enterMonitor_memoryKept : MemoryKept s (Frame · (enterMonitor t)) := by simp [enterMonitor, h]

/-- A boot from a slot empties the memories (R374). -/
@[simp] theorem bootDo_memoryKept {env} : MemoryKept s (Frame · (bootDo t env)) := by
  unfold bootDo; dsimp only; split
  · simp [h]
  · refine MemoryKept.next (t := loadFlash _) ?_ fun ⟨_, _, himages, _, hrequests⟩ =>
      ⟨rfl, rfl, himages, fun _ hp => absurd hp List.not_mem_nil, hrequests⟩
    simp [h]

@[simp] theorem enterDo_memoryKept : MemoryKept s (Frame · (enterDo t)) := by simp [enterDo, h]

@[simp] theorem changeState_memoryKept {m dst} : MemoryKept s (Frame · (changeState t m dst)) := by
  simp [changeState, h]

@[simp] theorem enterTarget_memoryKept {m w dst} : MemoryKept s (Frame · (enterTarget t m w dst)) := by
  simp [enterTarget, h]

/-! ### Faults of the hardware -/

@[simp] theorem readBursts_memoryKept {agent l wrong} : MemoryKept s (Frame · (readBursts t agent l wrong).1) := by
  induction l generalizing t wrong with
  | nil => exact h
  | cons e l ih =>
    unfold readBursts; split
    · exact h
    · split
      · exact ih h
      · split
        · exact ih (by simpa using h)
        · exact fatal_memoryKept h

@[simp] theorem meetFault_memoryKept {index f} : MemoryKept s (Frame · (meetFault index t f)) := by
  unfold meetFault; split
  · exact h
  · cases f <;> simp [h]

@[simp] theorem oneMismatch_memoryKept {g where_ row} : MemoryKept s (Frame · (oneMismatch t g where_ row)) := by
  simp [oneMismatch, h]

@[simp] theorem replayRow_memoryKept {g where_ row column last} :
    MemoryKept s (Frame · (replayRow t g where_ row column last)) := by simp [replayRow, h]

@[simp] theorem loseGrove_memoryKept {g cause} : MemoryKept s (Frame · (loseGrove t g cause)) := by
  unfold loseGrove; split <;> simp [h]

@[simp] theorem arrayCheck_memoryKept {g place row column trials} :
    MemoryKept s (Frame · (arrayCheck t g place row column trials)) := by
  have missed (n : Nat) : MemoryKept s (Frame · ((List.range n).foldl (fun u _ => oneMismatch u g place row) t)) :=
    memoryKept_foldl (fun u _ => oneMismatch_memoryKept (.refl u)) h _
  unfold arrayCheck; dsimp only
  repeat' split
  all_goals simp [missed, h]

@[simp] theorem failPort_memoryKept {p env} : MemoryKept s (Frame · (failPort t p env)) := by simp [failPort, h]

@[simp] theorem accessEffect_memoryKept {cause address tr} :
    MemoryKept s (Frame · (accessEffect t cause address tr)) := by
  unfold accessEffect; cases tr <;> dsimp only
  case sluice => split <;> simp [h]
  case transientTile => split <;> simp [h]
  case persistentTile => simp [h]
  case t3Write => simp [h]
  case spill => simp [h]
  case hostCopy => split <;> simp [h]
  case image => split <;> simp [h]

/-! ### Accesses of the host -/

@[simp] theorem answerRead_memoryKept {wrong bs} : MemoryKept s (Frame · (answerRead t wrong bs)) := by
  simp [answerRead, h]

@[simp] theorem deviceAccess_memoryKept {a acc errs} : MemoryKept s (Frame · (deviceAccess t a acc errs)) := by
  unfold deviceAccess; split
  · simp [h]
  · cases acc
    case read => simp [h]
    case write => simpa using memoryKept_foldl (fun u x => devWrite_memoryKept (.refl u)) h _

@[simp] theorem mappedAccess_memoryKept {i acc errs} : MemoryKept s (Frame · (mappedAccess t i acc errs)) := by
  unfold mappedAccess; dsimp only
  split <;> simp [h]

/-! ### Tests and shut-down -/

@[simp] theorem reinitialise_memoryKept {i} : MemoryKept s (Frame · (reinitialise t i)) := by simp [reinitialise, h]

@[simp] theorem testIsland_memoryKept {sigs source i} : MemoryKept s (Frame · (testIsland sigs source t i)) := by
  simp [testIsland, h]

@[simp] theorem shutTests_memoryKept {sigs} : MemoryKept s (Frame · (shutTests t sigs)) := by
  unfold shutTests; split
  · exact h
  · simpa using memoryKept_foldl (fun u i => testIsland_memoryKept (.refl u)) h _

@[simp] theorem shutDown_memoryKept {sigs ms} : MemoryKept s (Frame · (shutDown t sigs ms)) := by
  have tested : MemoryKept s (Frame · (shutTests (saveGroves (closeStreams (leaveAll t))) sigs)) := by simp [h]
  refine (deviceReset_memoryKept ?_).next (memoryOk_congr rfl rfl rfl rfl rfl).2
  split <;> simp [tested]

/-! ### The running step -/

@[simp] theorem setRun_memoryKept {f} : MemoryKept s (Frame · (setRun t f)) := by simp [setRun, h]

@[simp] theorem markExecuted_memoryKept {i} : MemoryKept s (Frame · (markExecuted t i)) := by simp [markExecuted, h]

theorem startInstance_memoryKept {r i d go} (hgo : ∀ r d (u : State), Frame u (go r d u)) :
    MemoryKept s (Frame · (startInstance t r i d go)) := by
  refine markExecuted_memoryKept ?_
  simp [Frame.iff (hgo _ d _), h]

@[simp] theorem onInstance_memoryKept {i op go} (hgo : ∀ r d (u : State), Frame u (go r d u)) :
    MemoryKept s (Frame · (onInstance t i op go)) := by
  unfold onInstance; split
  · exact h
  · split
    · exact h
    · split
      · exact startInstance_memoryKept h hgo
      · exact h

@[simp] theorem onCollective_memoryKept {i op send go} (hsend : ∀ r d (u : State), Frame u (send r d u))
    (hgo : ∀ r d u v, go r d u = some v → Frame u v) : MemoryKept s (Frame · (onCollective i op send go t)) := by
  have sent (r d) : MemoryKept s (Frame · (send r d t)) := by simp [Frame.iff (hsend r d t), h]
  unfold onCollective; split
  · exact h
  · split
    · exact h
    · split
      · exact h
      · dsimp only; split
        · exact sent _ _
        · refine onInstance_memoryKept (sent _ _) fun r d u => ?_
          cases hv : go r d u with
          | none => exact .refl u
          | some v => exact hgo r d u v hv

@[simp] theorem moveIn_memoryKept {r o x} : MemoryKept s (Frame · (moveIn t r o x)) := by
  unfold moveIn; dsimp only; split <;> simp [h]

@[simp] theorem derivedDo_memoryKept {kind n x r} : MemoryKept s (Frame · (derivedDo kind n x r t)) := by
  unfold derivedDo; dsimp only
  repeat' split
  all_goals simp [h]

@[simp] theorem finishStep_memoryKept {r} : MemoryKept s (Frame · (finishStep t r)) := by simp [finishStep, h]

/-! ### Commands of the mailboxes and of SPDM -/

/-- A command of a mailbox does nothing, refuses, or goes on. -/
theorem command_memoryKept {α : Type} {m op} {p : Pay α} {go : Work → α → State}
    (hgo : ∀ w x, MemoryKept s (Frame · (go w x))) : MemoryKept s (Frame · (command t m op p go)) := by
  unfold command; split
  · exact h
  · split
    · simpa using h
    · exact hgo _ _

@[simp] theorem onSession_memoryKept {tr} {go : State → State} (hgo : MemoryKept s (Frame · (go t))) :
    MemoryKept s (Frame · (onSession t tr go)) := by simp [onSession, h, hgo]

@[simp] theorem withKey_memoryKept {go : State → State} (hgo : MemoryKept s (Frame · (go t))) :
    MemoryKept s (Frame · (withKey t go)) := by simp [withKey, h, hgo]

@[simp] theorem withPresence_memoryKept {code} {go : State → State}
    (hgo : MemoryKept s (Frame · (go (countClassP t)))) : MemoryKept s (Frame · (withPresence t code go)) := by
  simp [withPresence, h, hgo]

end

end Sys2Proof.Machine
end

section
/-!
PROOFS. The commands and the step keep the memories canonical (O5), and the state right after reset meets the
invariants (O2).
-/

namespace Sys2Proof.Machine

variable {s : State}

/-! ### What a command answers -/

/-- The state that an answer leaves has canonical memories when s has. -/
def KeepsMemory (s : State) (o : Host.Outcome State Fault Refusal) : Prop :=
  ∀ t, o = .next t → MemoryKept s (Frame · t)

@[simp] theorem keepsMemory_next {t : State} : KeepsMemory s (.next t) ↔ MemoryKept s (Frame · t) :=
  ⟨fun h => h t rfl, fun h _ e => by cases e; exact h⟩

@[simp] theorem keepsMemory_done {t : State} : KeepsMemory s (done t) ↔ MemoryKept s (Frame · t) := keepsMemory_next

/-- A command of a mailbox whose fields lead to such a state. -/
theorem KeepsMemory.command {α : Type} {m op} {p : Pay α} {go : Work → α → State}
    (hgo : ∀ w x, MemoryKept s (Frame · (go w x))) : KeepsMemory s (done (command s m op p go)) :=
  keepsMemory_done.2 (command_memoryKept (.refl s) hgo)

/-- An instruction of the vector engine has the frame of the state, by its opcode. -/
theorem vecOp_keepsMemory {op f} (e : vecOp op = some f) (g : Fin 128) (v : VFields) : KeepsMemory s (f g v s) := by
  obtain ⟨t, ht, hf⟩ := exec_keep_vec e g v s
  rw [ht, keepsMemory_next, memoryKept_iff]
  exact hf.memoryOk_iff.2

/-! ### Commands that write a memory -/

@[simp] theorem execFwStage_keepsMemory {m p} : KeepsMemory s (execFwStage m p s) := by
  refine .command fun w x => ?_
  have staged : MemoryKept s (Frame · { s with mem := { s.mem with
      fwOwner := some m.val
      fwBuffer := Mem.store (if x.offset = 0 then [] else s.mem.fwBuffer) x.offset x.bytes } }) := by
    refine (MemoryKept.refl s).next fun ⟨hdram, hbuffer, hrest⟩ => ⟨hdram, Mem.store_wf _ _ ?_, hrest⟩
    split
    · rfl
    · exact hbuffer
  dsimp only
  split
  · simp
  · split
    · simp
    · simpa using staged

/-- The image installed is a slice of the staging buffer (R363). -/
@[simp] theorem execFwInstall_keepsMemory {m p} : KeepsMemory s (execFwInstall m p s) := by
  refine .command fun w k hs => ?_
  obtain ⟨-, hbuffer, -⟩ := id hs
  refine (?_ : MemoryKept s _) hs
  have installed := setSlot_memoryKept (k := k) (t := setSlot s k fun x => { x with state := .empty })
    (f := fun _ => ⟨.valid, Mem.slice s.mem.fwBuffer 0 (4096 + fwBody s.mem.fwBuffer) 0⟩) (s := s) (by simp)
    fun _ _ => Mem.slice_wf _ _ _ hbuffer
  dsimp only
  repeat' split
  · simp
  · simp
  · simp
  · simp
  · simpa using installed

/-- A slot is bound with no byte written. -/
@[simp] theorem execPlaceBind_keepsMemory {m p} : KeepsMemory s (execPlaceBind m p s) := by
  refine .command fun w x => ?_
  repeat' split
  · simp
  · simp
  · simp
  · rename_i u hroom
    have bound := placements_memoryKept (s := s) (t := u) (l := u.mem.placements ++ [⟨x.1, x.2, []⟩])
      (by simp [Frame.iff (room_frame hroom)]) fun hplaced => by simpa [or_imp, forall_and] using hplaced
    simpa using bound

@[simp] theorem execPlaceUnbind_keepsMemory {m p} : KeepsMemory s (execPlaceUnbind m p s) := by
  refine .command fun w j => ?_
  have unbound := placements_memoryKept (s := s) (t := (freshValue s 52).2)
    (l := (freshValue s 52).2.mem.placements.filter fun q => q.slot != j) (by simp)
    fun hplaced q hq => hplaced q (List.mem_of_mem_filter hq)
  dsimp only
  repeat' split
  · simp
  · simp
  · simpa using unbound

/-! ### Windows of the host and mailboxes -/

@[simp] theorem execMbxDoorbell_keepsMemory {m part} : KeepsMemory s (execMbxDoorbell m part s) := by
  unfold execMbxDoorbell
  repeat' split
  all_goals simp

@[simp] theorem execRegisterWrite_keepsMemory {offset data} : KeepsMemory s (execRegisterWrite offset data s) := by
  unfold execRegisterWrite
  repeat' split
  all_goals simp

@[simp] theorem execDoeDiscovery_keepsMemory {index} : KeepsMemory s (execDoeDiscovery index s) := by
  unfold execDoeDiscovery
  repeat' split
  all_goals simp

@[simp] theorem execPerstRelease_keepsMemory {part} : KeepsMemory s (execPerstRelease part s) := by
  unfold execPerstRelease
  repeat' split
  all_goals simp

@[simp] theorem execEnterState_keepsMemory {m p} : KeepsMemory s (execEnterState m p s) := by
  refine .command fun w x => ?_
  repeat' split
  all_goals simp

/-! ### Firmware and configuration sets -/

@[simp] theorem execFwActivate_keepsMemory {m p} : KeepsMemory s (execFwActivate m p s) := by
  have cleared (k : Nat) : Frame s (setSlot s k fun x => if x.state = .trial then { x with state := .valid } else x) :=
    (frame_setSlot fun x => by split <;> rfl).2 (.refl s)
  refine .command fun w k => ?_
  unfold execFwActivate.activate; dsimp only
  repeat' split
  all_goals simp [Frame.iff (cleared _)]

@[simp] theorem execConfigStage_keepsMemory {m p} : KeepsMemory s (execConfigStage m p s) := by
  unfold execConfigStage
  repeat' split
  all_goals simp

@[simp] theorem execConfigCommit_keepsMemory {m p} : KeepsMemory s (execConfigCommit m p s) := by
  have unstaged (i : Nat) := ((setStage_frame s s m i none).2 (.refl s)).request
  refine .command fun w i => ?_
  dsimp only
  repeat' split
  all_goals simp [unstaged]

/-! ### Regions, images and steps -/

@[simp] theorem execUnregisterHost_keepsMemory {m p} : KeepsMemory s (execUnregisterHost m p s) := by
  refine .command fun w x => ?_
  repeat' split
  all_goals simp

@[simp] theorem execAditMap_keepsMemory {m p} : KeepsMemory s (execAditMap m p s) := by
  refine .command fun w n => ?_
  repeat' split
  · simp
  · simp
  · simp
  · simp
  · simp [Frame.iff (bringBack_frame ‹_›)]

@[simp] theorem execT3Shortfall_keepsMemory {bytes lag index object} :
    KeepsMemory s (execT3Shortfall bytes lag index object s) := by
  unfold execT3Shortfall
  repeat' split
  all_goals simp

@[simp] theorem execScaleRead_keepsMemory {m p} : KeepsMemory s (execScaleRead m p s) := by
  refine .command fun w x => ?_
  repeat' split
  all_goals simp

@[simp] theorem execSpillRead_keepsMemory {m p} : KeepsMemory s (execSpillRead m p s) := by
  refine .command fun w x => ?_
  repeat' split
  all_goals simp

@[simp] theorem execLoadImage_keepsMemory {m fetch} : KeepsMemory s (execLoadImage m fetch s) := by
  unfold execLoadImage
  repeat' split
  all_goals simp

@[simp] theorem execSubmit_keepsMemory {m} : KeepsMemory s (execSubmit m s) := by
  unfold execSubmit
  repeat' split
  all_goals simp

@[simp] theorem execStepStatus_keepsMemory {m p} : KeepsMemory s (execStepStatus m p s) := by
  refine .command fun w x => ?_
  repeat' split
  all_goals simp

@[simp] theorem execUpdateParams_keepsMemory {m p} : KeepsMemory s (execUpdateParams m p s) := by
  refine .command fun w x => ?_
  repeat' split
  all_goals simp

@[simp] theorem execReadmission_keepsMemory : KeepsMemory s (execReadmission s) := by
  unfold execReadmission
  repeat' split
  all_goals simp

@[simp] theorem execStepStart_keepsMemory : KeepsMemory s (execStepStart s) := by
  unfold execStepStart
  repeat' split
  all_goals simp

@[simp] theorem execContextSwitch_keepsMemory : KeepsMemory s (execContextSwitch s) := by
  unfold execContextSwitch
  repeat' split
  all_goals simp

@[simp] theorem execInstanceComplete_keepsMemory {k} : KeepsMemory s (execInstanceComplete k s) := by
  have met := memoryKept_foldl (f := meetFault k.inst.index) (fun u _ => meetFault_memoryKept (.refl u)) (.refl s) k.met
  unfold execInstanceComplete; dsimp only
  repeat' split
  · simp
  · simp
  · simp [met]
  · simp [met]
  · simp [met]

@[simp] theorem execStepComplete_keepsMemory : KeepsMemory s (execStepComplete s) := by
  unfold execStepComplete
  repeat' split
  all_goals simp

/-! ### Instances of the running step -/

@[simp] theorem execConv_keepsMemory {k} : KeepsMemory s (execConv k s) := by
  unfold execConv
  repeat' split
  all_goals simp

@[simp] theorem execFilterLoad_keepsMemory {k} : KeepsMemory s (execFilterLoad k s) := by
  unfold execFilterLoad; dsimp only
  repeat' split
  all_goals simp

@[simp] theorem execKvAppend_keepsMemory {k} : KeepsMemory s (execKvAppend k s) := by
  unfold execKvAppend
  repeat' split
  all_goals simp

@[simp] theorem execVecRun_keepsMemory {g k q part} : KeepsMemory s (execVecRun g k q part s) := by
  unfold execVecRun
  repeat' split
  all_goals simp

@[simp] theorem execReduce_keepsMemory {i} : KeepsMemory s (execReduce i s) :=
  keepsMemory_done.2 (onCollective_memoryKept (.refl s) (fun _ _ _ => by simp) fun _ _ _ _ => reduceDo_frame)

@[simp] theorem execGather_keepsMemory {i} : KeepsMemory s (execGather i s) :=
  keepsMemory_done.2 (onCollective_memoryKept (.refl s) (fun _ _ _ => by simp) fun _ _ _ _ => gatherDo_frame)

@[simp] theorem execScaleSync_keepsMemory {k parts} : KeepsMemory s (execScaleSync k parts s) := by
  unfold execScaleSync; dsimp only
  repeat' split
  all_goals simp

@[simp] theorem execBarrier_keepsMemory {k} : KeepsMemory s (execBarrier k s) := by
  unfold execBarrier
  repeat' split
  all_goals simp

@[simp] theorem execNormCollective_keepsMemory {others} : KeepsMemory s (execNormCollective others s) := by
  unfold execNormCollective
  repeat' split
  all_goals simp

@[simp] theorem execVersionConfirm_keepsMemory {mb answers} : KeepsMemory s (execVersionConfirm mb answers s) := by
  unfold execVersionConfirm
  repeat' split
  all_goals simp

@[simp] theorem execDerivedMove_keepsMemory {kind object arrival} :
    KeepsMemory s (execDerivedMove kind object arrival s) := by
  unfold execDerivedMove
  repeat' split
  all_goals simp

@[simp] theorem execSluiceTake_keepsMemory {k} : KeepsMemory s (execSluiceTake k s) := by
  unfold execSluiceTake
  repeat' split
  all_goals simp

@[simp] theorem execRecompute_keepsMemory {k} : KeepsMemory s (execRecompute k s) := by
  unfold execRecompute
  repeat' split
  all_goals simp

/-! ### Streams -/

@[simp] theorem execSluiceOpen_keepsMemory {m} : KeepsMemory s (execSluiceOpen m s) := by
  unfold execSluiceOpen; dsimp only
  repeat' split
  all_goals simp
  simp [Frame.iff (room_frame ‹_›)]

@[simp] theorem execSubstitute_keepsMemory {m p sample} : KeepsMemory s (execSubstitute m p sample s) := by
  refine .command fun w x => ?_
  dsimp only
  repeat' split
  all_goals simp
  simp [Frame.iff (room_frame ‹_›)]

@[simp] theorem execSampleStart_keepsMemory {st unit entry sample} :
    KeepsMemory s (execSampleStart st unit entry sample s) := by
  unfold execSampleStart; dsimp only
  repeat' split
  all_goals simp

@[simp] theorem execSampleStaged_keepsMemory {st unit sample} : KeepsMemory s (execSampleStaged st unit sample s) := by
  unfold execSampleStaged; dsimp only
  repeat' split
  all_goals simp

@[simp] theorem execSampleOverrun_keepsMemory {st unit} : KeepsMemory s (execSampleOverrun st unit s) := by
  unfold execSampleOverrun
  repeat' split
  all_goals simp

@[simp] theorem execSampleLate_keepsMemory {st position} : KeepsMemory s (execSampleLate st position s) := by
  unfold execSampleLate; dsimp only
  repeat' split
  all_goals simp

/-! ### Jobs, shoring and the fabric -/

@[simp] theorem execJoin_keepsMemory {m p peers} : KeepsMemory s (execJoin m p peers s) := by
  refine .command fun w x => ?_
  repeat' split
  all_goals simp

@[simp] theorem execLeave_keepsMemory {m p} : KeepsMemory s (execLeave m p s) := by
  refine .command fun w x => ?_
  repeat' split
  all_goals simp

@[simp] theorem execJobOpenCompare_keepsMemory {device box shoring} :
    KeepsMemory s (execJobOpenCompare device box shoring s) := by
  unfold execJobOpenCompare
  repeat' split
  all_goals simp

@[simp] theorem execJobStepQuery_keepsMemory {job device box} : KeepsMemory s (execJobStepQuery job device box s) := by
  unfold execJobStepQuery
  repeat' split
  all_goals simp

@[simp] theorem execEntryRoundMessage_keepsMemory {job step parts waitNs} :
    KeepsMemory s (execEntryRoundMessage job step parts waitNs s) := by
  unfold execEntryRoundMessage; dsimp only
  repeat' split
  all_goals simp

@[simp] theorem execVersionConfirmRequest_keepsMemory {device ctx mb object version} :
    KeepsMemory s (execVersionConfirmRequest device ctx mb object version s) := by
  unfold execVersionConfirmRequest
  repeat' split
  all_goals simp

@[simp] theorem execConfigure_keepsMemory {m agree} : KeepsMemory s (execConfigure m agree s) := by
  unfold execConfigure
  repeat' split
  all_goals simp

@[simp] theorem execRestore_keepsMemory {m p copy} : KeepsMemory s (execRestore m p copy s) := by
  refine .command fun w x => ?_
  repeat' split
  all_goals simp

@[simp] theorem execShoringStatus_keepsMemory {m p} : KeepsMemory s (execShoringStatus m p s) := by
  refine .command fun w x => ?_
  repeat' split
  all_goals simp

@[simp] theorem execSecuringAnnounce_keepsMemory {job step} : KeepsMemory s (execSecuringAnnounce job step s) := by
  unfold execSecuringAnnounce
  repeat' split
  all_goals simp

@[simp] theorem execReencodingAnnounce_keepsMemory {job step} : KeepsMemory s (execReencodingAnnounce job step s) := by
  unfold execReencodingAnnounce
  repeat' split
  all_goals simp

@[simp] theorem execSecuring_keepsMemory {job arrival hostOk} : KeepsMemory s (execSecuring job arrival hostOk s) := by
  unfold execSecuring
  repeat' split
  all_goals simp

@[simp] theorem execFailureAnnounce_keepsMemory {job device fetched us} :
    KeepsMemory s (execFailureAnnounce job device fetched us s) := by
  unfold execFailureAnnounce; dsimp only
  repeat' split
  all_goals simp

@[simp] theorem execManifestReceive_keepsMemory {port far lendGib} :
    KeepsMemory s (execManifestReceive port far lendGib s) := by
  unfold execManifestReceive; dsimp only
  repeat' split
  all_goals simp

@[simp] theorem execDrillPortDownEnd_keepsMemory {port} : KeepsMemory s (execDrillPortDownEnd port s) := by
  unfold execDrillPortDownEnd
  repeat' split
  all_goals simp

@[simp] theorem execTierLending_keepsMemory {port op} : KeepsMemory s (execTierLending port op s) := by
  unfold execTierLending
  repeat' split
  all_goals simp

/-! ### Service, tests and the module -/

@[simp] theorem execArrayMismatch_keepsMemory {g where_ row error} :
    KeepsMemory s (execArrayMismatch g where_ row error s) := by
  unfold execArrayMismatch
  repeat' split
  all_goals simp

@[simp] theorem execSaplingMismatch_keepsMemory {die position group index error} :
    KeepsMemory s (execSaplingMismatch die position group index error s) := by
  unfold execSaplingMismatch
  repeat' split
  all_goals simp

@[simp] theorem execMargin_keepsMemory {m p windows} : KeepsMemory s (execMargin m p windows s) := by
  refine .command fun w x => ?_
  repeat' split
  all_goals simp

@[simp] theorem execBistRun_keepsMemory {m p sigs} : KeepsMemory s (execBistRun m p sigs s) := by
  refine .command fun w l => ?_
  repeat' split
  · simp
  · simp
  · simpa using memoryKept_foldl (fun u i => testIsland_memoryKept (.refl u)) (.refl s) l

@[simp] theorem execShdnReq_keepsMemory {asserted} : KeepsMemory s (execShdnReq asserted s) := by
  unfold execShdnReq; dsimp only
  repeat' split
  all_goals simp

@[simp] theorem execPresenceWindowExpiry_keepsMemory : KeepsMemory s (execPresenceWindowExpiry s) := by
  unfold execPresenceWindowExpiry
  repeat' split
  all_goals simp

@[simp] theorem execThermalTrip_keepsMemory {sensor celsius} : KeepsMemory s (execThermalTrip sensor celsius s) := by
  unfold execThermalTrip
  repeat' split
  all_goals simp

@[simp] theorem execGetCsr_keepsMemory {tr} : KeepsMemory s (execGetCsr tr s) :=
  keepsMemory_done.2 (onSession_memoryKept (.refl s)
    (withPresence_memoryKept (.refl s) (withKey_memoryKept (by simp) (by simp))))

@[simp] theorem execSetCertificate_keepsMemory {tr slot chain} : KeepsMemory s (execSetCertificate tr slot chain s) :=
  keepsMemory_done.2 (onSession_memoryKept (.refl s) (withPresence_memoryKept (.refl s) (by simp)))

/-! ### Vector instructions that branch, or that fill a register -/

@[simp] theorem execVendloop_keepsMemory {g v} : KeepsMemory s (execVendloop g v s) :=
  vecOp_keepsMemory (op := 0x02) rfl g v

@[simp] theorem execMovi_keepsMemory {g v} : KeepsMemory s (execMovi g v s) :=
  vecOp_keepsMemory (op := 0x1C) rfl g v

@[simp] theorem execMovs_keepsMemory {g v} : KeepsMemory s (execMovs g v s) :=
  vecOp_keepsMemory (op := 0x1D) rfl g v

@[simp] theorem execVld_keepsMemory {g v} : KeepsMemory s (execVld g v s) :=
  vecOp_keepsMemory (op := 0x70) rfl g v

@[simp] theorem execVst_keepsMemory {g v} : KeepsMemory s (execVst g v s) :=
  vecOp_keepsMemory (op := 0x71) rfl g v

@[simp] theorem execLdq_keepsMemory {g v} : KeepsMemory s (execLdq g v s) :=
  vecOp_keepsMemory (op := 0x72) rfl g v

@[simp] theorem execStq_keepsMemory {g v} : KeepsMemory s (execStq g v s) :=
  vecOp_keepsMemory (op := 0x73) rfl g v

/-! ### The step -/

/-- Every command keeps the memories canonical: by its own lemma when it has one above; each of the other commands, and
of the other vector instructions, is a call of operations that keep them. -/
theorem exec_keepsMemory (c : Instr) (s : State) : KeepsMemory s (exec c s) := by
  cases c
  all_goals simp only [exec]
  all_goals simp [
    execTimeLoRead, execSluicePiWrite, execAditAccess, execFullMapAccess, execPlacementAccess, execConfigRequest,
    execUnsupportedRequest, execD3hotEntry, execD0Return, execBusMasterDisable, execMsixHeldRelease,
    execFunctionLevelReset, execHotReset, execLinkDisable, execResetAssert, execFwTrialTimeout, execDlDown, execDlUp,
    execHoldOffExpiry, execLinkRetrained, execHostAccessError, execIdentify, execGroveStatus, execStackStatus,
    execFwQuery, execRegisterHost, execAditUnmap, execT3Probe, execKvClose, execKvPin, execKvUnpin, execContextCreate,
    execContextRelease, execUnloadImage, execJobCounters, execJobOpen, execPortStatus, execDrillStart, execDrillStop,
    execSluiceClose, execStats, execPowerStatus, execBistResult, execRetire, execUnretire, execRepairEdit,
    execTallyRead, execTallyClear, execConfigRead, execConfigDiscard, execGetVersion, execGetCapabilities,
    execNegotiateAlgorithms, execGetDigests, execGetCertificate, execChallenge, execGetMeasurements,
    execPresenceButtonPress, execServiceLChange, execShutdownBegin, execShutdownAfterSteps, execPowerApplied,
    execVinPresentLost, execInputOutOfRange, execInputInRange, execPowerStageShutdown, execFaultLatchClear,
    execPowerLimit, execThermalWarning, execThermalLimit, execMatmul, execAttnScore, execAttnApply, execKvSelect,
    execVec, execUpdate, execMove, execIslandSleep, execIslandWake, execSpareWarm, execPatrolScrubSlice,
    execPortLinkUp, execFlitSend, execFlitReceive, execRetryRequest, execPortSilence, execPortFailed,
    execChunkReceive, execChunkAck, execStagePlanPublish, execMemberFailed, execPresenceButtonRelease,
    execForemanFatal, execLeaveNotice, execMemberQuery, execFailoverExchange, execDynamicAddressAssignment,
    execHdr, execVloop, execVnop, execIadd, execIsub, execImul, execImin, execImax, execVand, execVor, execVxor,
    execShl, execShr, execSra, execIaddi, execLaneid, execVmov, execSmovi, execSadd, execSaddi, execSsub, execSmul,
    execSshli, execSshri, execSand, execSor, execFadd, execFsub, execFmul, execFma, execFmin, execFmax, execFabs,
    execFneg, execFsqrt, execFrcp, execFrsqrt, execFmuli, execFexp, execFexp2, execFlog, execFlog2, execFsin,
    execFcos, execFtanh, execFsig, execFerf, execFcmp, execIcmp, execUcmp, execSel, execPand, execPor, execPnot,
    execPlt, execPcnt, execCvtif, execCvtfi, execVscale, execCvtfh, execCvthf, execQblk, execDqblk, execPack,
    execUnpack, execLds, execSts, execLdx, execStx, execRsum, execRmax, execRiadd, execRimax, execScan, execShuf,
    execRot, execLane, execVins, execCtr, execCtr4, execUnif]

theorem step_keepsMemory (s : State) : KeepsMemory s (step s) := by
  unfold step; split
  · simp
  · exact fun t ht => MemoryKept.trans (by simp) (exec_keepsMemory _ _ t ht)

/-- Settles O5: what a step answers has canonical memories when the state it starts from has. -/
theorem stepKeepsMemoryCanonical : Obligations.StepKeepsMemoryCanonical :=
  fun s t hs h => memoryKept_iff.1 (step_keepsMemory s t h) hs

/-! ### The state right after reset -/

/-- The image of manufacture is laid out from its bytes, the zeros left out. -/
theorem FwSlot.factory_wf : Mem.wf FwSlot.factory = true := by
  obtain ⟨hrise, hbytes⟩ := Mem.laid_wf 0 Config.factoryImage
  exact Mem.wf_iff.2 ⟨hrise, fun c hc => (hbytes c hc).2⟩

theorem reset_memoryOk : State.reset.memoryOk := by
  refine ⟨Mem.wf_nil, Mem.wf_nil, List.forall_mem_cons.2 ⟨FwSlot.factory_wf, List.forall_mem_singleton.2 Mem.wf_nil⟩,
    fun _ hp => absurd hp List.not_mem_nil, fun b hb => ?_⟩
  rw [List.eq_of_mem_replicate hb, Mem.wf_nil]

theorem reset_shaped : State.reset.shaped := by
  have groves : Grove.resetAll.length = 128 := by simp [Grove.resetAll, -List.reduceReplicate]
  have maps : ({} : Flash).groves.length = 128 := by simp [-List.reduceReplicate]
  exact ⟨List.length_replicate, rfl, groves, List.length_replicate, List.length_replicate, List.length_replicate,
    List.length_replicate, List.length_replicate, rfl, maps⟩

/-- Settles O2: the tables have their sizes, no engine runs, and each set is in force as committed, at generation 0. -/
theorem resetHoldsInvariants : Obligations.ResetHoldsInvariants := by
  refine ⟨rfl, reset_shaped, reset_memoryOk, fun _ hx => absurd hx List.not_mem_nil, fun c hc => ?_⟩
  obtain ⟨v, -, rfl⟩ := List.mem_map.1 hc
  exact Nat.le_refl 0

end Sys2Proof.Machine
end

section
/-!
PROOFS. Contexts, images and step parameters come and go (R195, R246, R247, R348): CONTEXT_CREATE, CONTEXT_RELEASE,
UNLOAD_IMAGE and UPDATE_PARAMS make their change and answer, or are refused in the state as it stands.
-/

namespace Sys2Proof.Machine

/-! ### Changes of the context list -/

/-- Two changes of the same entry are one, where the first leaves the entry findable. -/
theorem modifyWhere_modifyWhere {α : Type} {p : α → Bool} {f g : α → α} (hf : ∀ x, p x = true → p (f x) = true) (l : List α) :
    modifyWhere p g (modifyWhere p f l) = modifyWhere p (fun x => g (f x)) l := by
  induction l with
  | nil => rfl
  | cons x l ih => cases h : p x <;> simp [modifyWhere, h, hf, ih]

theorem setCtx_setCtx {s : State} {k : Nat} {f g : Context → Context} (hf : ∀ c, (f c).number = c.number) :
    setCtx (setCtx s k f) k g = setCtx s k fun c => g (f c) := by
  simp only [setCtx, modifyWhere_modifyWhere (p := fun x : Context => x.number == k) (f := f) (by simp [hf])]

theorem filter_ne_eq_ite (o : Option Nat) (k : Nat) : (o.filter fun c => c != k) = if o == some k then none else o := by
  cases o with
  | none => rfl
  | some c => by_cases h : c = k <;> simp [Option.filter, h]

/-- What R247 leaves of the device when context `k` goes. -/
def withoutContext (s : State) (k : Nat) : State :=
  { s with
    ctxs := s.ctxs.filter fun c => c.number != k
    kv := { s.kv with
      pages := s.kv.pages.filter fun p => p.ctx != k
      booked := s.kv.booked.filter fun b => b.1 != k
      spills := s.kv.spills.filter fun x => x.ctx != k }
    mem := { s.mem with adit := s.mem.adit.filter fun x => x.1 != k }
    sched := { s.sched with current := s.sched.current.filter fun c => c != k } }

/-! ### Commands that answer in a changed state -/

section
variable {s t : State} {m op : Nat} {w : Work} (h : workOf s m op = some w) (ht : t.mbx = s.mbx)
include h ht

/-- A change that keeps the mailboxes keeps the command in progress, so the answer ends it there. -/
theorem respond_of_mbx_eq (status : Nat) (p : Resp) (d e : Nat) : respond t m status p d e = finished t m w status p d e :=
  respond_eq (by rw [mbxAt, ht]; exact (workOf_some h).1) status p d e

theorem command_changes {α : Type} {x : α} {go : Work → α → State} {status : Nat} {p : Resp} {d e : Nat}
    (hgo : go w x = respond t m status p d e) :
    done (command s m op (.fields x) go) = .next (finished t m w status p d e) := by
  rw [done, command_fields h, hgo, respond_of_mbx_eq h ht]

theorem commandBare_changes (hl : w.length = 0) {go : Work → State} {status : Nat} {p : Resp} {d e : Nat}
    (hgo : go w = respond t m status p d e) :
    done (commandBare s m op go) = .next (finished t m w status p d e) := by
  rw [done, commandBare_go h hl, hgo, respond_of_mbx_eq h ht]

end

/-- A command of the right length that its own checks refuse. -/
theorem commandBare_refused {s : State} {m op : Nat} {w : Work} (h : workOf s m op = some w) (hop : op ≠ 0x0503)
    (hl : w.length = 0) {go : Work → State} {status d : Nat} (hgo : go w = refuse s m status d) :
    done (commandBare s m op go) = .next (finished s m w status [] d 0) := by
  rw [done, commandBare_go h hl, hgo, refuse_of_workOf h hop]

/-! ### CONTEXT_CREATE and CONTEXT_RELEASE -/

section
variable {m : Fin 64} {s : State} {w : Work} (hl : w.length = 0)
include hl

theorem exec_contextCreate_makes (h : workOf s m 0x0401 = some w) (hnone : ctxAt s w.ctx = none) :
    exec (.contextCreate m) s =
      .next (finished { s with ctxs := s.ctxs ++ [{ number := w.ctx }] } m w St.ok [] 0 0) :=
  commandBare_changes h (by rfl) hl (if_neg (by simp [hnone]))

theorem exec_contextCreate_exists (h : workOf s m 0x0401 = some w) (hctx : ctxAt s w.ctx ≠ none) :
    exec (.contextCreate m) s = .next (finished s m w St.contextExists [] 0 0) :=
  commandBare_refused h (by decide) hl (if_pos (Option.isSome_iff_ne_none.2 hctx))

variable (h : workOf s m 0x0402 = some w)
include h

theorem exec_contextRelease_noContext (hnone : ctxAt s w.ctx = none) :
    exec (.contextRelease m) s = .next (finished s m w St.noContext [] 0 0) :=
  commandBare_refused h (by decide) hl (if_pos (by simp [hnone]))

theorem exec_contextRelease_busy (hctx : ctxAt s w.ctx ≠ none) (hbusy : ctxBusy s w.ctx = true) :
    exec (.contextRelease m) s = .next (finished s m w St.contextBusy [] 0 0) :=
  commandBare_refused h (by decide) hl ((if_neg (by simpa using hctx)).trans (if_pos hbusy))

theorem exec_contextRelease_releases (hctx : ctxAt s w.ctx ≠ none) (hfree : ctxBusy s w.ctx = false) :
    exec (.contextRelease m) s = .next (finished (withoutContext s w.ctx) m w St.ok [] 0 0) := by
  refine commandBare_changes h (by rfl) hl ((if_neg (by simpa using hctx)).trans ((if_neg (by simp [hfree])).trans ?_))
  refine congrArg (respond · m St.ok [] 0 0) ?_
  rw [withoutContext, filter_ne_eq_ite]
  rcases hadit : s.mem.adit with _ | ⟨c, n⟩
  · simp [closeContext, hadit]
  · by_cases hc : c = w.ctx <;> simp [closeContext, hadit, hc, Option.filter]

end

/-! ### UNLOAD_IMAGE and UPDATE_PARAMS -/

section
variable {m : Fin 64} {s : State} {w : Work} {job : Nat} (hctx : ctxAt s w.ctx ≠ none)
include hctx

theorem exec_unloadImage_busy (h : workOf s m 0x0502 = some w) (himg : (imageOf s w.ctx job).isSome)
    (hhand : ∃ a ∈ inHand s, a.ctx = w.ctx ∧ a.job = job) :
    exec (.unloadImage m (.fields job)) s = .next (finished s m w St.contextBusy [] 0 0) := by
  refine command_refuses h (by decide) ?_
  rw [if_neg (by simpa using hctx), if_neg (by simpa [Option.isSome_iff_ne_none] using himg), if_pos (by simpa using hhand)]

theorem exec_unloadImage_unloads (h : workOf s m 0x0502 = some w) (himg : (imageOf s w.ctx job).isSome)
    (hhand : ∀ a ∈ inHand s, a.ctx ≠ w.ctx ∨ a.job ≠ job) :
    exec (.unloadImage m (.fields job)) s = .next (finished
      (setCtx s w.ctx fun c => { c with images := c.images.filter fun i => i.job != job,
                                        cache := c.cache.filter fun x => x.1 != job }) m w St.ok [] 0 0) := by
  refine command_changes h (by rfl) ?_
  rw [if_neg (by simpa using hctx), if_neg (by simpa [Option.isSome_iff_ne_none] using himg),
    if_neg (by simpa [imp_iff_not_or] using hhand)]
  refine congrArg (respond · m St.ok [] 0 0) (setCtx_setCtx ?_)
  exact fun _ => rfl

variable {img : Image} {es : List ParamEntry} (h : workOf s m 0x0505 = some w) (himg : imageOf s w.ctx job = some img)
include h himg

theorem exec_updateParams_replaces (hlen : es.length ≤ 100) (hok : ∀ e ∈ es, paramEntryOk img e = true) :
    exec (.updateParams m (.fields (job, es))) s = .next (finished
      (setCtx s w.ctx fun c =>
        { c with images := modifyWhere (fun i => i.job == job) (fun i => replaceAll i es) c.images }) m w St.ok [] 0 0) := by
  refine command_changes h (by rfl) ?_
  simp only [himg]
  rw [if_neg (by simpa using hctx), if_neg (by simpa [hlen] using hok)]

/-- One entry that does not fit, or one too many, refuses them all. -/
theorem exec_updateParams_refused (hbad : 100 < es.length ∨ ∃ e ∈ es, paramEntryOk img e = false) :
    exec (.updateParams m (.fields (job, es))) s =
      .next (finished s m w St.invalidField [] (Config.payloadByte 0x0505 1) 0) := by
  refine command_refuses h (by decide) ?_
  simp only [himg]
  rw [if_neg (by simpa using hctx), if_pos (by simpa using hbad)]

end

/-- Settles O14: each command's hypotheses select one branch of its checks, a refusal or one change of the contexts. -/
theorem contextsAndImagesComeAndGo : Obligations.ContextsAndImagesComeAndGo :=
  ⟨fun _ _ _ hl =>
    ⟨fun h => ⟨exec_contextCreate_makes hl h, exec_contextCreate_exists hl h⟩,
      fun h => ⟨exec_contextRelease_noContext hl h, exec_contextRelease_busy hl h, exec_contextRelease_releases hl h⟩⟩,
    fun _ _ _ _ hctx =>
      ⟨fun h => ⟨exec_unloadImage_unloads hctx h, exec_unloadImage_busy hctx h⟩,
        fun h _ _ himg => ⟨exec_updateParams_replaces hctx h himg, exec_updateParams_refused hctx h himg⟩⟩⟩

end Sys2Proof.Machine
end

section
/-!
PROOFS. The streams of the Sluice (R250 to R263, R267): OPEN, CLOSE and SUBSTITUTE open, close and feed a stream or are
refused, and a sample of an open stream starts, is staged, is replaced or is late.
-/

namespace Sys2Proof.Machine

/-! ### An open stream and its changes -/

section
variable {s : State} {k : Nat}

theorem streamAt_eq_some {y : Stream} : streamAt s k = some y ↔ ∃ x, s.streams[k]? = some x ∧ x.stream = some y := by
  cases h : s.streams[k]? <;> simp [streamAt, at', h]

@[simp] theorem streamAt_setStream_same (f : Stream → Stream) :
    streamAt (setStream s k f) k = (streamAt s k).map f := by
  cases h : s.streams[k]? <;> simp [streamAt, setStream, at', h]

theorem setStream_setStream (f g : Stream → Stream) :
    setStream (setStream s k f) k g = setStream s k fun y => g (f y) := by
  simp [setStream, List.modify_modify_eq, Function.comp_def]

/-- A change of an open stream is known by what it makes of that stream. -/
theorem setStream_congr {y : Stream} {f g : Stream → Stream} (hy : streamAt s k = some y) (hfg : f y = g y) :
    setStream s k f = setStream s k g := by
  obtain ⟨x, hx, hxy⟩ := streamAt_eq_some.1 hy
  simp [setStream, List.modify_eq_set_getElem?, hx, hxy, hfg]

@[simp] theorem streamAt_tally (c o v a b d e : Nat) : streamAt (tally s c o v a b d e) k = streamAt s k := rfl

@[simp] theorem streamAt_count (j : Nat) (f : Counters → Counters) : streamAt (count s j f) k = streamAt s k := by
  simp [streamAt]

end

/-! ### OPEN (R250, R251) -/

theorem find?_openChecks_eq_none {page : Mem} {c : StreamCfg} (hchecks : ∀ x ∈ openChecks page c, x.2 = false) :
    (openChecks page c).find? (fun x => x.2) = none := by simpa using hchecks

section
variable {m : Fin 64} {s : State} {w : Work} (h : workOf s m 0x0801 = some w) (hl : w.length = 256)
  (hchecks : ∀ x ∈ openChecks w.page (streamCfg w.page), x.2 = false) (haug : augmentBad w.page (streamCfg w.page) = false)
  (hring : insideRegions s (streamCfg w.page).ringAddr (32 * ringSize (streamCfg w.page)) = true)
include h hl hchecks haug hring

theorem exec_sluiceOpen_opens {u : State} (hclosed : streamAt s (Mem.le w.page 64 1 % 16) = none)
    (hunits : ∀ x ∈ s.streams, ∀ y, x.stream = some y → y.cfg.units &&& (streamCfg w.page).units = 0)
    (hroom : room s (stagingBytes (streamCfg w.page)) = some u) :
    exec (.sluiceOpen m) s = .next (finished
      { u with streams :=
          u.streams.set (Mem.le w.page 64 1 % 16) { pi := 0, err := 0, stream := some { cfg := streamCfg w.page } } }
      m w St.ok [] 0 0) := by
  change execSluiceOpen m s = _
  simp only [execSluiceOpen, h, find?_openChecks_eq_none hchecks, haug, hring, hclosed, hroom, done]
  rw [if_neg (by simpa using hl), if_neg (by simp), if_neg (by simp), if_neg (by simp), if_neg ?_]
  · exact congrArg _ (respond_of_mbx_eq (t := { u with streams := u.streams.set _ _ }) h (room_still hroom).mbx ..)
  · simp only [List.any_eq_true, not_exists, not_and]
    intro x hx
    split
    · next y hxy => simp [hunits x hx y hxy]
    · simp

theorem exec_sluiceOpen_busy (hopen : streamAt s (Mem.le w.page 64 1 % 16) ≠ none) :
    exec (.sluiceOpen m) s = .next (finished s m w St.streamBusy [] 0 0) := by
  change execSluiceOpen m s = _
  simp [execSluiceOpen, h, hl, find?_openChecks_eq_none hchecks, haug, hring, Option.isSome_iff_ne_none.2 hopen, done,
    refuse_of_workOf h]

end

/-! ### CLOSE (R252) -/

section
variable {m : Fin 64} {s : State} {w : Work} {k : Nat} (h : workOf s m 0x0802 = some w) (hk : k < 16)
include h hk

theorem exec_sluiceClose_closes (hopen : streamAt s k ≠ none) (htaken : streamTaken s k = false) :
    exec (.sluiceClose m (.fields k)) s = .next (finished
      { s with streams := s.streams.modify k fun x => { x with stream := none } } m w St.ok [] 0 0) := by
  refine command_changes h (by rfl) ?_
  rw [if_neg (by omega), if_neg (by simpa using hopen), if_neg (by simp [htaken])]

theorem exec_sluiceClose_busy (hopen : streamAt s k ≠ none) (htaken : streamTaken s k = true) :
    exec (.sluiceClose m (.fields k)) s = .next (finished s m w St.streamBusy [] 0 0) := by
  refine command_refuses h (by decide) ?_
  rw [if_neg (by omega), if_neg (by simpa using hopen), if_pos htaken]

theorem exec_sluiceClose_closed (hclosed : streamAt s k = none) :
    exec (.sluiceClose m (.fields k)) s = .next (finished s m w St.streamClosed [] 0 0) := by
  refine command_refuses h (by decide) ?_
  rw [if_neg (by omega), if_pos (by simp [hclosed])]

end

/-! ### SUBSTITUTE (R263) -/

theorem exec_substitute_joins {m : Fin 64} {s u : State} {w : Work} {k : Nat} {e : RingEntry} {x : Sample} {y : Stream}
    {d : Decoded} (h : workOf s m 0x0803 = some w) (hk : k < 16) (hy : streamAt s k = some y) (htaken : streamTaken s k = false)
    (hfetch : unfetchable s e = false) (hhead : headerReason s y.cfg e (fetched s e x) = none)
    (hbody : bodyReason y.cfg (fetched s e x) = none) (hmany : y.substitutes.length < 256)
    (hd : d = decodeSample y.cfg (fetched s e x).content)
    (hroom : room s (planeBytes y.cfg d.x d.y (d.z * d.c)) = some u) :
    exec (.substitute m (.fields (k, e)) x) s = .next (finished
      (setStream u k fun y => { y with substitutes := y.substitutes ++ [d] }) m w St.ok [] 0 0) := by
  subst hd
  refine command_changes h (t := setStream u k _) (room_still hroom).mbx ?_
  simp only [hy, hhead, hbody, hroom]
  rw [if_neg (by omega), if_neg (by simp [htaken]), if_neg (by simp [hfetch]), if_neg (by simp), if_neg (by omega)]

/-- Settles O21: each command's hypotheses select one branch of its checks. -/
theorem streamsOpenAndClose : Obligations.StreamsOpenAndClose :=
  fun _ _ _ =>
    ⟨fun h hl hchecks haug hring =>
      ⟨fun hclosed hunits _ => exec_sluiceOpen_opens h hl hchecks haug hring hclosed hunits,
        exec_sluiceOpen_busy h hl hchecks haug hring⟩,
    fun _ h hk => ⟨exec_sluiceClose_closes h hk, exec_sluiceClose_busy h hk, exec_sluiceClose_closed h hk⟩,
    fun _ _ _ _ h hk hy htaken hfetch hhead hbody hmany _ _ =>
      exec_substitute_joins h hk hy htaken hfetch hhead hbody hmany⟩

/-! ### The replacement of a sample (R263) -/

section
variable {s : State} {st : Nat} {y : Stream} (hy : streamAt s st = some y) (u position cause : Nat)
include hy

theorem streamAt_replaceSample_pads (hnone : y.substitutes = []) :
    streamAt (replaceSample s st u position cause) st =
      some { y with staged := y.staged ++ [⟨position, 0, 0, [], 0⟩], nPadded := y.nPadded + 1 } := by
  simp [replaceSample, hy, hnone]

theorem streamAt_replaceSample_substitutes (hsome : y.substitutes ≠ []) :
    ∃ v, streamAt (replaceSample s st u position cause) st =
      some { y with staged := y.staged ++ [v], nSubstituted := y.nSubstituted + 1 } := by
  obtain ⟨x, xs, hx⟩ := List.exists_cons_of_ne_nil hsome
  refine ⟨augmented y.cfg (y.cfg.startIndex + position) position 2
    (at' (x :: xs) ((y.cfg.startIndex + position) % (xs.length + 1)) x), ?_⟩
  simp only [replaceSample, hy, hx, streamAt_setStream_same, Option.map_some]

end

/-! ### What a sample's checks do not read -/

section
variable {s : State} {k : Nat} {f : Stream → Stream}

@[simp] theorem unfetchable_setStream (e : RingEntry) : unfetchable (setStream s k f) e = unfetchable s e := rfl

@[simp] theorem fetched_setStream (e : RingEntry) (x : Sample) : fetched (setStream s k f) e x = fetched s e x := rfl

@[simp] theorem headerReason_setStream (c : StreamCfg) (e : RingEntry) (x : Sample) :
    headerReason (setStream s k f) c e x = headerReason s c e x := rfl

end

theorem sluiceRuns_of_ne {s : State} (hoff : s.dev.state ≠ .off) (hhalt : s.dev.state ≠ .halt) : sluiceRuns s = true := by
  simp [sluiceRuns, hoff, hhalt]

/-! ### SAMPLE_START (R257, R260) -/

section
variable {s : State} {st : Fin 16} {y : Stream} {u : Nat} {x : Sample} {e : RingEntry} (hrun : sluiceRuns s = true)
  (hy : streamAt s st = some y) (hfree : freeUnitOf y = some u) (hpi : y.next < (at' s.streams st {}).pi)
  (hahead : y.next < (y.taken + y.cfg.ahead) * y.cfg.batch) (hlink : e.source = 0 → s.link.up = true)
  (hfetch : unfetchable s e = false)
include hrun hy hfree hpi hahead hlink hfetch

theorem exec_sampleStart_decodes (hhead : headerReason s y.cfg e (fetched s e x) = none) :
    exec (.sampleStart st u e x) s = .next (setStream s st fun y =>
      { y with next := y.next + 1, ci := y.next + 1, busy := y.busy ++ [⟨u, y.next, e, s.time⟩] }) := by
  change execSampleStart st u e x s = _
  simp only [execSampleStart, hy, unfetchable_setStream, fetched_setStream, headerReason_setStream, hhead, done]
  rw [if_neg (by simpa [hrun, hfree, hahead] using ⟨hpi, hlink⟩), if_neg (by simp [hfetch]), setStream_setStream]
  exact congrArg _ (setStream_congr hy rfl)

theorem exec_sampleStart_rejects {k : Nat} (hhead : headerReason s y.cfg e (fetched s e x) = some k) :
    exec (.sampleStart st u e x) s = .next (rejectSample
      (setStream s st fun z => { z with next := y.next + 1, ci := y.next + 1 }) st u y.next k e.tag) := by
  change execSampleStart st u e x s = _
  simp only [execSampleStart, hy, unfetchable_setStream, fetched_setStream, headerReason_setStream, hhead, done]
  rw [if_neg (by simpa [hrun, hfree, hahead] using ⟨hpi, hlink⟩), if_neg (by simp [hfetch])]

end

/-! ### SAMPLE_STAGED and SAMPLE_OVERRUN (R261 to R263) -/

section
variable {s : State} {st : Fin 16} {y : Stream} {u : Nat} {b : OnUnit} (hy : streamAt s st = some y)
  (hb : onUnit s st u = some b)
include hy hb

theorem exec_sampleOverrun_early (htime : s.time < b.since + budgetNs y.cfg) : exec (.sampleOverrun st u) s = .next s := by
  change execSampleOverrun st u s = _
  simp [execSampleOverrun, hy, hb, htime, done]

variable (hrun : sluiceRuns s = true)
include hrun

theorem exec_sampleStaged_stages {x : Sample} (htime : s.time ≤ b.since + budgetNs y.cfg)
    (hbody : bodyReason y.cfg (fetched s b.entry x) = none) :
    exec (.sampleStaged st u x) s = .next (setStream s st fun y =>
      { y with busy := y.busy.filter fun b => b.unit != u,
               staged := y.staged ++ [augmented y.cfg (y.cfg.startIndex + b.position) b.position 1
                 (decodeSample y.cfg (fetched s b.entry x).content)],
               nStaged := y.nStaged + 1 }) := by
  change execSampleStaged st u x s = _
  simp only [execSampleStaged, hy, hb, fetched_setStream, hbody, done]
  rw [if_neg (by simp [hrun, htime]), setStream_setStream]
  rfl

theorem exec_sampleStaged_rejects {x : Sample} {k : Nat} (htime : s.time ≤ b.since + budgetNs y.cfg)
    (hbody : bodyReason y.cfg (fetched s b.entry x) = some k) :
    exec (.sampleStaged st u x) s = .next (rejectSample
      (setStream s st fun y => freeUnit y u) st u b.position k b.entry.tag) := by
  change execSampleStaged st u x s = _
  simp only [execSampleStaged, hy, hb, fetched_setStream, hbody, done]
  rw [if_neg (by simp [hrun, htime])]

/-- A sample whose budget is spent leaves its unit, is recorded and is replaced. -/
theorem exec_sampleOverrun_replaces (htime : b.since + budgetNs y.cfg ≤ s.time) :
    exec (.sampleOverrun st u) s = .next (replaceSample
      (tally (setStream s st fun y => { freeUnit y u with nOverrun := y.nOverrun + 1 }) 0x0280 (unitIsland u) 2 st
        (lo32 (y.cfg.startIndex + b.position)) (lo32 b.entry.tag.toNat) (y.cfg.meanCost * y.cfg.budgetMult))
      st u b.position 1) := by
  change execSampleOverrun st u s = _
  simp only [execSampleOverrun, hy, hb, done]
  rw [if_neg (by simp [hrun, htime])]

theorem exec_sampleOverrun_counts (htime : b.since + budgetNs y.cfg ≤ s.time) :
    ∃ t z, exec (.sampleOverrun st u) s = .next t ∧ streamAt t st = some z ∧ z.nOverrun = y.nOverrun + 1 ∧
      z.busy = y.busy.filter (fun b => b.unit != u) ∧ z.staged.length = y.staged.length + 1 ∧
      (y.substitutes = [] → z.nPadded = y.nPadded + 1 ∧ z.nSubstituted = y.nSubstituted) ∧
      (y.substitutes ≠ [] → z.nSubstituted = y.nSubstituted + 1 ∧ z.nPadded = y.nPadded) := by
  rw [exec_sampleOverrun_replaces hy hb hrun htime]
  have hfreed : streamAt (setStream s st fun y => { freeUnit y u with nOverrun := y.nOverrun + 1 }) st =
      some { freeUnit y u with nOverrun := y.nOverrun + 1 } := by simp [hy]
  rw [← streamAt_tally] at hfreed
  by_cases hsub : y.substitutes = []
  · exact ⟨_, _, rfl, streamAt_replaceSample_pads hfreed _ _ _ hsub, rfl, rfl, by simp [freeUnit],
      fun _ => ⟨rfl, rfl⟩, (absurd hsub ·)⟩
  · obtain ⟨v, hv⟩ := streamAt_replaceSample_substitutes hfreed _ _ _ hsub
    exact ⟨_, _, rfl, hv, rfl, rfl, by simp [freeUnit], (absurd · hsub), fun _ => ⟨rfl, rfl⟩⟩

end

/-! ### SAMPLE_LATE (R257) -/

section
variable {s : State} {st : Fin 16} {y : Stream} {a : Admitted} (hy : streamAt s st = some y)
  (howner : takeOwner s st (y.next / y.cfg.batch) = some a)
include hy howner

theorem exec_sampleLate_early (hdue : takeDue s a st (y.next / y.cfg.batch) = false) :
    exec (.sampleLate st y.next) s = .next s := by
  change execSampleLate st y.next s = _
  simp [execSampleLate, hy, howner, hdue, done]

/-- A late position is skipped, counted for its stream and its take's job, and recorded. -/
theorem exec_sampleLate_skips (hrun : sluiceRuns s = true) (hpi : (at' s.streams st {}).pi ≤ y.next)
    (hdue : takeDue s a st (y.next / y.cfg.batch) = true) :
    exec (.sampleLate st y.next) s = .next (tally
      (count (setStream s st fun z => { z with next := y.next + 1, late := z.late ++ [y.next], nLate := z.nLate + 1 }) a.job
        fun c => { c with late := c.late + 1 })
      0x0282 islandSluice 2 st (lo32 (y.cfg.startIndex + y.next)) (hi32 (y.cfg.startIndex + y.next))
      (lo32 (y.next / y.cfg.batch))) := by
  change execSampleLate st y.next s = _
  simp only [execSampleLate, hy, howner, done]
  rw [if_neg (by simpa [hrun, hdue] using hpi)]

end

/-- Settles O47: each event's hypotheses select one branch of its checks; a replaced sample is counted where it is staged. -/
theorem samplesStageOrAreReplaced : Obligations.SamplesStageOrAreReplaced := by
  intro s st u x y hoff hhalt hy
  have hrun := sluiceRuns_of_ne hoff hhalt
  refine ⟨fun e hfree hpi hahead hlink hfetch => ⟨?_, fun k => ?_⟩, fun b hb htime => ⟨?_, fun k => ?_⟩,
    fun b hb => ⟨?_, ?_⟩, fun p a howner hp hpi => ?_⟩
  · exact exec_sampleStart_decodes hrun hy hfree hpi hahead hlink hfetch
  · exact exec_sampleStart_rejects hrun hy hfree hpi hahead hlink hfetch
  · exact exec_sampleStaged_stages hy hb hrun htime
  · exact exec_sampleStaged_rejects hy hb hrun htime
  · exact exec_sampleOverrun_counts hy hb hrun
  · exact exec_sampleOverrun_early hy hb
  · subst hp
    refine ⟨exec_sampleLate_early hy howner, fun hdue =>
      ⟨_, { y with next := y.next + 1, late := y.late ++ [y.next], nLate := y.nLate + 1 },
        exec_sampleLate_skips hy howner hrun hpi hdue, ?_, rfl, rfl, rfl, rfl⟩⟩
    rw [streamAt_tally, streamAt_count, streamAt_setStream_same, hy, Option.map_some]

end Sys2Proof.Machine
end

section
/-!
PROOFS. Ports and their flits (R274 to R276, R291): a change of a port is known by what it makes of that port, outside a drill
a flit joins the wire once, and a request for a retry leaves what a port has received as it was.
-/

namespace Sys2Proof.Machine

/-! ### A port and its changes -/

section
variable {s : State} {p : Nat} {x : Port}

theorem portAt_of_getElem? (hx : s.fabric.ports[p]? = some x) : portAt s p = x := by simp [portAt, at', hx]

@[simp] theorem getElem?_ports_setPort_same (f : Port → Port) :
    (setPort s p f).fabric.ports[p]? = (s.fabric.ports[p]?).map f := by
  simp [setPort]

theorem getElem?_ports_setPort (f : Port → Port) (hx : s.fabric.ports[p]? = some x) :
    (setPort s p f).fabric.ports[p]? = some (f x) := by
  rw [getElem?_ports_setPort_same, hx, Option.map_some]

theorem setPort_setPort (f g : Port → Port) : setPort (setPort s p f) p g = setPort s p fun x => g (f x) := by
  simp [setPort, List.modify_modify_eq, Function.comp_def]

/-- A change of a port is known by what it makes of that port. -/
theorem setPort_congr {f g : Port → Port} (hx : s.fabric.ports[p]? = some x) (hfg : f x = g x) :
    setPort s p f = setPort s p g := by
  simp [setPort, List.modify_eq_set_getElem?, hx, hfg]

theorem setPort_eq_self {f : Port → Port} (hx : s.fabric.ports[p]? = some x) (hf : f x = x) : setPort s p f = s := by
  rw [setPort_congr hx (g := id) hf, setPort, List.modify_id]

end

/-! ### What a flit returns (R276) -/

section
variable {x : Port}

theorem creditReturn_of_no_unit (h : ∀ c < 8, at' x.freed c 0 < 8) : creditReturn x = (0, 0) := by
  have hnone : (List.range 8).find? (fun c => decide (8 ≤ at' x.freed c 0)) = none := by simpa using h
  rw [creditReturn, hnone]

theorem creditReturn_of_first {c : Nat} (hc : c < 8) (hbelow : ∀ b < c, at' x.freed b 0 < 8) (hunit : 8 ≤ at' x.freed c 0)
    (hfew : at' x.freed c 0 < 65536) : creditReturn x = (c, at' x.freed c 0 / 8) := by
  have hfirst : (List.range 8).find? (fun c => decide (8 ≤ at' x.freed c 0)) = some c := by
    simpa [List.find?_range_eq_some, hc, hunit] using hbelow
  rw [creditReturn, hfirst]
  exact congrArg (Prod.mk c) (Nat.min_eq_left (by omega))

theorem makeFlit_crc (x : Port) (kind cls : Nat) (last : Bool) (payload : List Byte) :
    (makeFlit x kind cls last payload).crc = flitCrc (makeFlit x kind cls last payload) := rfl

theorem makeFlit_payload (x : Port) (kind cls : Nat) (last : Bool) {payload : List Byte} (h : payload.length = 240) :
    (makeFlit x kind cls last payload).payload = payload :=
  List.take_left' h

end

/-! ### Flits on the wire outside a drill (R275) -/

theorem keepLast_of_length_le {α : Type} {n : Nat} {l : List α} (h : l.length ≤ n) : keepLast n l = l := by
  rw [keepLast, Nat.sub_eq_zero_of_le h, List.drop_zero]

theorem releaseReordered_of_held_nil {x : Port} (h : x.held = []) : releaseReordered x = x := by
  cases x
  subst h
  simp [releaseReordered]

/-- A port with the flits of `l` on its wire too, uncorrupted. -/
def Port.putOnWire (x : Port) (l : List Flit) : Port := { x with wire := x.wire ++ l.map fun f => (f, 0) }

theorem Port.putOnWire_nil (x : Port) : x.putOnWire [] = x := by simp [putOnWire]

theorem Port.putOnWire_putOnWire (x : Port) (l m : List Flit) : (x.putOnWire l).putOnWire m = x.putOnWire (l ++ m) := by
  simp [putOnWire]

section
variable {s : State} {p : Nat} {x : Port} (hquiet : s.fabric.drill = false) (hx : s.fabric.ports[p]? = some x)
  (hheld : x.held = [])
include hquiet hx hheld

theorem transmit_outside_drill (f : Flit) (hroom : x.wire.length < 1024) :
    transmit s p f = setPort s p (·.putOnWire [f]) := by
  have hact (cls n : Nat) : drillActs s p cls n = none := by simp [drillActs, hquiet]
  have hwire : (x.wire ++ [(f, 0)]).length ≤ 1024 := by simpa using hroom
  simp only [transmit, hact, hquiet]
  refine setPort_congr hx ?_
  simp only [releaseReordered_of_held_nil (x := { x with wire := x.wire ++ [(f, 0)] }) hheld, keepLast_of_length_le hwire]
  rfl

theorem foldl_transmit_outside_drill (l : List Flit) (hroom : x.wire.length + l.length ≤ 1024) :
    l.foldl (fun s f => transmit s p f) s = setPort s p (·.putOnWire l) := by
  induction l generalizing s x with
  | nil => exact (setPort_eq_self hx (Port.putOnWire_nil x)).symm
  | cons f l ih =>
    rw [List.length_cons] at hroom
    have hrest : (x.putOnWire [f]).wire.length + l.length ≤ 1024 := by
      simp only [Port.putOnWire, List.length_append, List.length_map, List.length_singleton]; omega
    rw [List.foldl_cons, transmit_outside_drill hquiet hx hheld f (by omega),
      ih (s := setPort s p (·.putOnWire [f])) hquiet (getElem?_ports_setPort _ hx) hheld hrest, setPort_setPort]
    exact congrArg (setPort s p) (funext fun y => Port.putOnWire_putOnWire y [f] l)

theorem sendFlit_outside_drill (f : Flit) (hroom : x.wire.length < 1024) :
    sendFlit s p f = setPort s p fun x =>
      { x with txSeq := (x.txSeq + 1) % 4096, unacked := x.unacked ++ [f], wire := x.wire ++ [(f, 0)],
               freed := x.freed.modify f.creditClass (· - 8 * f.credits) } := by
  refine (transmit_outside_drill ?_ (getElem?_ports_setPort _ hx) hheld f hroom).trans (setPort_setPort ..)
  exact hquiet

end

/-! ### What a port has received (R275) -/

/-- What only a flit taken, or a discarded one, changes of a port. -/
def Port.received (x : Port) : Nat × List Flit × Nat := (x.rxSeq, x.delivered, x.retries)

/-- What port `p` has received. -/
def receivedAt (s : State) (p : Nat) : Option (Nat × List Flit × Nat) := (s.fabric.ports[p]?).map Port.received

section
variable {s : State} {p : Nat}

theorem receivedAt_setPort {f : Port → Port} (hf : ∀ x, (f x).received = x.received) :
    receivedAt (setPort s p f) p = receivedAt s p := by
  simp [receivedAt, Function.comp_def, hf]

theorem receivedAt_portDown (cause : Nat) : receivedAt (portDown s p cause) p = receivedAt s p :=
  receivedAt_setPort fun x => by split <;> rfl

theorem receivedAt_transmit (f : Flit) : receivedAt (transmit s p f) p = receivedAt s p := by
  have hcount : receivedAt (if s.fabric.drill then
      setPort s p fun x => { x with drillCount := x.drillCount.modify f.cls (· + 1) } else s) p = receivedAt s p := by
    split
    · exact receivedAt_setPort fun _ => rfl
    · rfl
  have hput (f : Flit) (symbols : Nat) (x : Port) :
      (let y := releaseReordered { x with wire := x.wire ++ [(f, symbols)] }
       { y with wire := keepLast 1024 y.wire }).received = x.received := rfl
  unfold transmit
  dsimp only
  split
  · exact (receivedAt_setPort (hput f 0)).trans hcount
  · -- the actions of a drill's entry: drop, corrupt, flip a bit, reorder, take the port down (R294)
    split
    · exact hcount
    · exact (receivedAt_setPort (hput f _)).trans hcount
    · exact (receivedAt_setPort (hput _ 0)).trans hcount
    · refine (receivedAt_setPort ?_).trans hcount
      exact fun _ => rfl
    · refine (receivedAt_setPort ?_).trans ((receivedAt_portDown 2).trans hcount)
      exact fun _ => rfl

theorem receivedAt_sendFlit (f : Flit) : receivedAt (sendFlit s p f) p = receivedAt s p :=
  (receivedAt_transmit f).trans (receivedAt_setPort fun _ => rfl)

/-- A discarded flit counts one more retry and delivers nothing. -/
theorem receivedAt_requestRetry {x : Port} (hx : s.fabric.ports[p]? = some x) :
    receivedAt (requestRetry s p) p = some (x.rxSeq, x.delivered, x.retries + 1) := by
  have hsent (u : State) (c : Prop) [Decidable c] (f : Flit) :
      receivedAt (if c then sendFlit u p f else u) p = receivedAt u p := by
    split
    · exact receivedAt_sendFlit f
    · rfl
  have hdown (u : State) (c : Prop) [Decidable c] : receivedAt (if c then portDown u p 1 else u) p = receivedAt u p := by
    split
    · exact receivedAt_portDown 1
    · rfl
  simp only [requestRetry, hdown, hsent]
  simp [receivedAt, hx, Port.received]

end

/-! ### FLIT_SEND, FLIT_RECEIVE and RETRY_REQUEST -/

section
variable {s : State} {p : Fin 20} {x : Port} (hrun : fabricRuns s = true) (hx : s.fabric.ports[(p : Nat)]? = some x)
include hx

theorem exec_flitSend_no_credit {cls : Nat} (hcredit : at' x.credits cls 0 = 0) (last : Bool) (payload : List Byte) :
    exec (.flitSend p cls last payload) s = .next s := by
  change execFlitSend p cls last payload s = _
  simp [execFlitSend, portAt_of_getElem? hx, hcredit, done]

variable (hup : x.state = .up)
include hrun hup

theorem exec_flitSend_sends {cls : Nat} (last : Bool) {payload : List Byte} (hquiet : s.fabric.drill = false)
    (hheld : x.held = []) (hquar : x.quarantine = 0) (hlen : payload.length = 240) (hcredit : 0 < at' x.credits cls 0)
    (hunacked : x.unacked.length < 1024) (hroom : x.wire.length < 1024) :
    let f := makeFlit x (if cls = 4 then 3 else 1) cls last payload
    exec (.flitSend p cls last payload) s = .next (setPort s p fun x =>
      { x with txSeq := (x.txSeq + 1) % 4096, unacked := x.unacked ++ [f], credits := x.credits.modify cls (· - 1),
               wire := x.wire ++ [(f, 0)], freed := x.freed.modify f.creditClass (· - 8 * f.credits) }) := by
  intro f
  change execFlitSend p cls last payload s = _
  simp only [execFlitSend, portAt_of_getElem? hx, done]
  rw [if_pos (by simp [hup, hrun, hcredit, hunacked, hlen, hquar])]
  refine congrArg _ ((sendFlit_outside_drill ?_ (getElem?_ports_setPort _ hx) hheld f hroom).trans (setPort_setPort ..))
  exact hquiet

theorem exec_flitReceive_corrupted {f : Flit} {ok : Bool} (hbad : ok = false ∨ flitCrc f ≠ f.crc) :
    exec (.flitReceive p f ok) s = .next (requestRetry s p) := by
  change execFlitReceive p f ok s = _
  simp only [execFlitReceive, portAt_of_getElem? hx, done]
  rw [if_neg (by simp [hup, hrun]), if_pos (by simpa using hbad)]

theorem exec_retryRequest_resends {seq : Nat} (hquiet : s.fabric.drill = false) (hheld : x.held = [])
    (hroom : x.wire.length + (acknowledge x seq).unacked.length ≤ 1024) :
    exec (.retryRequest p seq) s = .next (setPort s p fun x =>
      { acknowledge x seq with wire := x.wire ++ (acknowledge x seq).unacked.map fun f => (f, 0) }) := by
  change execRetryRequest p seq s = _
  simp only [execRetryRequest, portAt_of_getElem? hx, done]
  rw [if_neg (by simp [hup, hrun])]
  refine congrArg _ ((foldl_transmit_outside_drill ?_ (getElem?_ports_setPort _ hx) hheld _ hroom).trans ?_)
  · exact hquiet
  · exact (setPort_setPort ..).trans (setPort_congr hx rfl)

variable {f : Flit} (hcrc : flitCrc f = f.crc)
include hcrc

theorem exec_flitReceive_out_of_sequence (hseq : f.seq ≠ x.rxSeq ∨ 3 < f.kind) (hkind : f.kind ≠ 0) :
    exec (.flitReceive p f true) s = .next (requestRetry s p) := by
  change execFlitReceive p f true s = _
  simp only [execFlitReceive, portAt_of_getElem? hx, done]
  rw [if_neg (by simp [hup, hrun]), if_neg (by simp [hcrc]), if_neg hkind, if_pos (by simpa using hseq)]

/-- The next flit in sequence is taken, under the next expected SEQ, and its message is held or ends. -/
theorem exec_flitReceive_delivers (hseq : f.seq = x.rxSeq) (hkind : f.kind ≠ 0) (hknown : f.kind ≤ 3) :
    exec (.flitReceive p f true) s = .next (setPort s p fun x =>
      { takeFlit s x f with
        rxSeq := (x.rxSeq + 1) % 4096, retryRow := 0,
        delivered := if f.last then x.delivered.filter fun g => g.cls != f.cls else x.delivered ++ [f],
        freed := if f.last then x.freed.modify f.cls (· + 1 + x.delivered.countP fun g => g.cls == f.cls) else x.freed }) := by
  change execFlitReceive p f true s = _
  simp only [execFlitReceive, portAt_of_getElem? hx, done]
  rw [if_neg (by simp [hup, hrun]), if_neg (by simp [hcrc]), if_neg hkind, if_neg (by simp [hseq, hknown])]

end

/-- Settles O49: each event's hypotheses select one branch of its checks; what a retry request leaves of what the port has
received is said once, for every action of a drill. -/
theorem flitsArriveInSequence : Obligations.FlitsArriveInSequence := by
  intro s p x hoff hhalt hx hup
  have hrun : fabricRuns s = true := fabricRuns_iff.2 ⟨hoff, hhalt⟩
  refine ⟨fun cls last payload hquiet hheld hquar hlen hcredit hunacked hroom => ?sends,
    fun cls last payload hcredit => exec_flitSend_no_credit hx hcredit last payload,
    fun f hcrc hseq hlow hhigh => exec_flitReceive_delivers hrun hx hup hcrc hseq (Nat.ne_of_gt hlow) hhigh,
    fun f ok hbad => exec_flitReceive_corrupted hrun hx hup hbad, fun f hcrc hseq hkind => ?discards,
    fun seq hquiet hheld hroom => exec_retryRequest_resends hrun hx hup hquiet hheld hroom⟩
  case sends =>
    refine ⟨_, makeFlit x (if cls = 4 then 3 else 1) cls last payload,
      exec_flitSend_sends hrun hx hup last hquiet hheld hquar hlen hcredit hunacked hroom, rfl, rfl,
      makeFlit_payload x _ cls last hlen, rfl, rfl, makeFlit_crc .., fun hnone => ?_, fun c hc hbelow hunit hfew => ?_, rfl⟩
    · exact congrArg Prod.snd (creditReturn_of_no_unit hnone)
    · have hreturn := creditReturn_of_first hc hbelow hunit hfew
      exact ⟨congrArg Prod.fst hreturn, congrArg Prod.snd hreturn⟩
  case discards =>
    obtain ⟨y, hy, hreceived⟩ := Option.map_eq_some_iff.1 (receivedAt_requestRetry hx)
    obtain ⟨hrx, hdelivered, hretries⟩ : y.rxSeq = x.rxSeq ∧ y.delivered = x.delivered ∧ y.retries = x.retries + 1 := by
      simpa [Port.received] using hreceived
    exact ⟨_, y, exec_flitReceive_out_of_sequence hrun hx hup hcrc hseq hkind, hy, hrx, hdelivered, hretries⟩

end Sys2Proof.Machine
end

section
/-!
PROOFS. The ports of the fabric (R271, R276 to R279, R291, R292, R294, R410): a port trains, compares manifests and falls silent,
and a port that fails is taken over by the standby, is retired, or ends the step that uses it. A failure comes from the port's
own timer or from the far end's notice; both come down to `failPort` on a state that differs in its records alone.
-/

namespace Sys2Proof.Machine

/-! ### A port that comes up (R276, R277, R292) -/

/-- A port as the link layer brings it up at time `now` with the far end's credits; after its first training or a failure its
sequence numbers start at zero. -/
def Port.broughtUp (x : Port) (credits : DWord) (now : Nat) : Port :=
  let fresh := x.downCause == 0 || x.state == .failed
  { x with state := .up, credits := (List.range 8).map (fun c => 8 * bits credits.toNat (8 * c + 7) (8 * c)), far := none,
           quarantine := 0, downCause := 0, retryRow := 0, heard := now, freed := List.replicate 8 0,
           txSeq := if fresh then 0 else x.txSeq, rxSeq := if fresh then 0 else x.rxSeq,
           unacked := if fresh then [] else x.unacked }

theorem Port.broughtUp_fresh {x : Port} (credits : DWord) (now : Nat) (h : x.downCause = 0 ∨ x.state = .failed) :
    (x.broughtUp credits now).txSeq = 0 ∧ (x.broughtUp credits now).rxSeq = 0 ∧ (x.broughtUp credits now).unacked = [] := by
  simp [broughtUp, h]

theorem Port.broughtUp_retrained {x : Port} (credits : DWord) (now : Nat) (hcause : x.downCause ≠ 0) (hdown : x.state = .down) :
    (x.broughtUp credits now).txSeq = x.txSeq ∧ (x.broughtUp credits now).rxSeq = x.rxSeq ∧
      (x.broughtUp credits now).unacked = x.unacked := by
  simp [broughtUp, hcause, hdown]

/-- A port trains again until 1 ms after it went down, and later only once it has failed (R277). -/
theorem Port.not_late {x : Port} {now : Nat} (h : x.downCause ≠ 0 → now ≤ x.downAt + 1000000 ∨ x.state = .failed) :
    (x.downCause != 0 && decide (x.downAt + 1000000 < now) && x.state == .down) = false := by
  by_cases hcause : x.downCause = 0
  · simp [hcause]
  · obtain hsoon | hfailed := h hcause
    · simp [Nat.not_lt.2 hsoon]
    · simp [hfailed]

theorem releaseStandby_ports (s : State) : (releaseStandby s).fabric.ports = s.fabric.ports := by
  unfold releaseStandby
  split
  · split <;> rfl
  · rfl

/-! ### What a near neighbour lends (R248) -/

/-- The state that has learnt what a near neighbour lends. -/
def learnLending (s : State) (p : Fin 20) (gib : Nat) : State :=
  { s with fabric := { s.fabric with lends := if p.val < 7 then s.fabric.lends.set p gib else s.fabric.lends } }

theorem manifest_learnLending (s : State) (p : Fin 20) (gib : Nat) : manifest (learnLending s p gib) = manifest s := rfl

/-! ### Link up, manifests, silence and the end of a drill's outage (R276, R277, R291, R292, R294) -/

section
variable {s : State} {p : Fin 20} {x : Port} (hx : s.fabric.ports[(p : Nat)]? = some x)
include hx

theorem exec_portLinkUp_of_up (hup : x.state = .up) (credits : DWord) : exec (.portLinkUp p credits) s = .next s := by
  change execPortLinkUp p credits s = _
  simp [execPortLinkUp, portAt_of_getElem? hx, hup, done]

theorem exec_portLinkUp_brings_up (hrun : fabricRuns s = true) (credits : DWord) (hdown : x.state = .down ∨ x.state = .failed)
    (hdrill : x.drillUntil = none) (hused : portUnused s p = false) (hstandby : p ≠ 19)
    (hsoon : x.downCause ≠ 0 → s.time ≤ x.downAt + 1000000 ∨ x.state = .failed) :
    ∃ t, exec (.portLinkUp p credits) s = .next t ∧
      t.fabric.ports[(p : Nat)]? = some (x.broughtUp credits s.time) := by
  have hstate : x.state ≠ .up ∧ x.state ≠ .retired := by
    obtain h | h := hdown <;> simp [h]
  have hport : p.val ≠ 19 := fun h => hstandby (Fin.ext h)
  have hrecord (c : Prop) [Decidable c] (k q : Nat) :
      (if c then tally s 0x0291 k 2 q 0 0 0 else s).fabric.ports[(p : Nat)]? = some x ∧
      (if c then tally s 0x0291 k 2 q 0 0 0 else s).time = s.time := by
    split <;> exact ⟨hx, rfl⟩
  change ∃ t, execPortLinkUp p credits s = .next t ∧ _
  simp only [execPortLinkUp, portAt_of_getElem? hx, Port.not_late hsoon, done]
  rw [if_neg (by simp [hrun, hstate, hdrill, hused, hport])]
  refine ⟨_, rfl, ?_⟩
  rw [apply_ite (fun t : State => t.fabric.ports), releaseStandby_ports, ite_self, getElem?_ports_setPort _ (hrecord _ _ _).1,
    (hrecord _ _ _).2]
  rfl

/-- A manifest is compared with this device's, and the port keeps the outcome as its quarantine. -/
theorem exec_manifestReceive (hrun : fabricRuns s = true) (hup : x.state = .up) {d : Nat} (hd : farDevice s p = some d)
    (far : FarEnd) (gib : Nat) :
    ∃ u, u.fabric = (learnLending s p gib).fabric ∧ exec (.manifestReceive p far gib) s = .next (setPort u p fun x =>
      { x with far := some far, quarantine := if far.device ≠ d then St.portMiswired
                 else if far.manifest ≠ manifest s then St.manifestMismatch else 0 }) := by
  have hlearn : (if p.val < 7 then { s with fabric := { s.fabric with lends := s.fabric.lends.set p gib } } else s) =
      learnLending s p gib := by
    unfold learnLending
    split <;> rfl
  change ∃ u, _ ∧ execManifestReceive p far gib s = _
  simp only [execManifestReceive, portAt_of_getElem? hx, hd, hlearn, done]
  rw [if_neg (by simp [hup, hrun]), manifest_learnLending]
  split_ifs with hdevice hman
  all_goals exact ⟨_, by rfl, rfl⟩

theorem exec_portSilence_takes_down (hrun : fabricRuns s = true) (hup : x.state = .up) (hsilent : x.heard + 4000 ≤ s.time) :
    exec (.portSilence p) s = .next (setPort s p fun x =>
      { x with state := .down, downAt := s.time, downCause := 2, retryRow := 0 }) := by
  change execPortSilence p s = _
  simp only [execPortSilence, portAt_of_getElem? hx, done]
  rw [if_pos (by simp [hrun, hsilent])]
  exact congrArg _ (setPort_congr hx (if_pos hup))

theorem exec_portSilence_early (hheard : s.time < x.heard + 4000) : exec (.portSilence p) s = .next s := by
  change execPortSilence p s = _
  simp only [execPortSilence, portAt_of_getElem? hx, done]
  rw [if_neg (by simp [hheard])]

variable {until_ : Nat} (huntil : x.drillUntil = some until_)
include huntil

theorem exec_drillPortDownEnd_ends (hpast : until_ ≤ s.time) :
    exec (.drillPortDownEnd p) s = .next (setPort s p fun x => { x with drillUntil := none }) := by
  change execDrillPortDownEnd p s = _
  simp only [execDrillPortDownEnd, portAt_of_getElem? hx, huntil, done, if_pos hpast]

theorem exec_drillPortDownEnd_early (hearly : s.time < until_) : exec (.drillPortDownEnd p) s = .next s := by
  change execDrillPortDownEnd p s = _
  simp only [execDrillPortDownEnd, portAt_of_getElem? hx, huntil, done, if_neg (Nat.not_le.2 hearly)]

end

/-! ### A failed port (R278, R279, R410) -/

/-- A failure that the port's own timer or the far end's notice brings. -/
def portFails (s : State) (p : Fin 20) (x : Port) (env : FailoverEnv) (c : Instr) : Prop :=
  (c = .portFailed p env ∧ x.state = .down ∧ x.downCause ≠ 0 ∧ x.downAt + 1000000 ≤ s.time) ∨
    ∃ d, c = .failoverExchange p d env ∧ (x.state = .up ∨ x.state = .down) ∧ farDevice s p = some d

/-- Whichever event brings the failure, `failPort` acts; the timer's is recorded first. -/
theorem exec_of_portFails {s : State} {p : Fin 20} {x : Port} {env : FailoverEnv} {c : Instr} (hrun : fabricRuns s = true)
    (hx : s.fabric.ports[(p : Nat)]? = some x) (hc : portFails s p x env c) :
    ∃ ta fl, exec c s = .next (failPort { s with tally := ta, flash := fl } p env) := by
  obtain ⟨rfl, hdown, hcause, htime⟩ | ⟨d, rfl, hstate, hfar⟩ := hc
  · let u := tally s 0x0291 (islandPort p) 2 x.downCause 1 0 0
    refine ⟨u.tally, u.flash, ?_⟩
    change execPortFailed p env s = _
    simp only [execPortFailed, portAt_of_getElem? hx, done]
    rw [if_pos (by simp [hdown, hcause, htime, hrun])]
    rfl
  · refine ⟨s.tally, s.flash, ?_⟩
    change execFailoverExchange p d env s = _
    simp only [execFailoverExchange, portAt_of_getElem? hx, done]
    rw [if_pos (by simp [hstate, hfar, hrun])]

/-- `s` after the crosspoint has been asked for a free standby; a conflict there is recorded (R410). -/
def askStandby (s : State) (p : Nat) (env : FailoverEnv) : State :=
  let taken := s.fabric.standby.isSome || p == 19
  let u := if taken then s else
    { s with board := { s.board with target := if env.conflict then 0xFF else failoverTarget s p, joined := env.joined,
                                     conflict := env.conflict } }
  if env.conflict && !taken then tally u 0x02F6 islandModule 2 p (failoverTarget s p) 0 0 else u

theorem askStandby_dev_fabric (s : State) (p : Nat) (env : FailoverEnv) :
    (askStandby s p env).dev = s.dev ∧ (askStandby s p env).fabric = s.fabric := by
  unfold askStandby
  dsimp only
  split <;> split <;> exact ⟨rfl, rfl⟩

/-- `s` with the standby in the place of port `p`, joined by its crosspoint; a running step that used the port has its reserve
spent (R278). -/
def standbyTakesOver (s : State) (p : Nat) : State :=
  let u := setPort s p fun x => { x with state := .failed, unacked := [] }
  let u := { u with fabric := { u.fabric with standby := some p },
                    board := { u.board with target := failoverTarget s p, joined := true, conflict := false } }
  if stepUsesPort s p then setRun u fun r => { r with reserveSpent := true } else u

section
variable {s : State} {p : Nat}

theorem standbyTakesOver_leaves : (standbyTakesOver s p).fabric.standby = some p ∧
    (standbyTakesOver s p).board.target = failoverTarget s p ∧ (standbyTakesOver s p).dev = s.dev := by
  unfold standbyTakesOver
  dsimp only
  split <;> exact ⟨rfl, rfl, rfl⟩

theorem standbyTakesOver_port {x : Port} (hx : s.fabric.ports[p]? = some x) :
    (standbyTakesOver s p).fabric.ports[p]? = some { x with state := .failed, unacked := [] } := by
  unfold standbyTakesOver
  dsimp only
  split <;> exact getElem?_ports_setPort _ hx

theorem standbyTakesOver_run {r : Run} (hr : s.sched.run = some r) (huse : stepUsesPort s p = true) :
    (standbyTakesOver s p).sched.run = some { r with reserveSpent := true } := by
  simp [standbyTakesOver, huse, setRun, setPort, hr]

end

section
variable {s : State} {p : Nat} {env : FailoverEnv}

/-- A free standby that joins takes the place of a port that the running step does not use, or whose loss its reserve covers;
the reserve is then spent. -/
theorem failPort_joins (hfree : s.fabric.standby = none) (hp : p ≠ 19) (hjoined : env.joined = true)
    (hconflict : env.conflict = false)
    (hreserve : ∀ r, s.sched.run = some r → stepUsesPort s p = true → r.reserveSpent = false ∧ 2200000 ≤ r.adm.dFail) :
    ∃ far step, failPort s p env = tally (standbyTakesOver s p) 0x0292 (islandPort p) 2 p far env.resent step := by
  have hport : (p == 19) = false := by simpa using hp
  simp only [failPort, hfree, hport, hjoined, hconflict, Option.isSome_none, Bool.or_self, Bool.false_eq_true, if_false,
    Bool.not_true, Bool.false_and, Bool.false_or]
  rw [if_neg ?covered]
  · exact ⟨_, _, rfl⟩
  case covered =>
    rw [Bool.and_eq_true]
    rintro ⟨huse, hspent⟩
    cases hr : s.sched.run with
    | none => simp [hr] at hspent
    | some r =>
      obtain ⟨hunspent, hfail⟩ := hreserve r hr huse
      simp [hr, hunspent, Nat.not_lt.2 hfail] at hspent

variable (hnone : s.fabric.standby ≠ none ∨ env.joined = false)
include hnone

/-- Without a standby, a port of the running step is fatal. -/
theorem failPort_fatal (huse : stepUsesPort s p = true) :
    ∃ cause step, failPort s p env =
      fatalAs 3 (setPort (askStandby s p env) p fun x => { x with state := .failed }) 0x0293 (islandPort p) p cause step 0 := by
  unfold failPort
  dsimp only
  rw [if_pos ?fatal]
  · exact ⟨_, _, rfl⟩
  case fatal =>
    obtain h | h := hnone
    · simp [huse, Option.isSome_iff_ne_none.2 h]
    · simp [huse, h]

/-- Without a standby, a port that the running step does not use is retired. -/
theorem failPort_retires (huse : stepUsesPort s p = false) :
    ∃ step, failPort s p env = tally (retirePort (askStandby s p env) p) 0x0293 (islandPort p) 3 p 1 step 0 := by
  unfold failPort
  dsimp only
  rw [if_neg (by simp [huse]), if_pos ?retired]
  · exact ⟨_, rfl⟩
  case retired =>
    obtain h | h := hnone
    · simp [Option.isSome_iff_ne_none.2 h]
    · simp [h]

end

/-- Settles O48: training, comparing and silence are read off their events; a failure's event comes down to `failPort`, and the
standby and the running step decide which of its three ends it takes. -/
theorem portsTrainFailAndCompare : Obligations.PortsTrainFailAndCompare := by
  refine ⟨fun s p x hoff hhalt hx => ⟨fun credits hdown hdrill hused hp hsoon => ?up, exec_portLinkUp_of_up hx,
      fun far gib d hup hd => ?manifest⟩,
    fun s p x env hoff hhalt hx => ⟨?silence, exec_portSilence_early hx,
      fun c hc => ⟨?joins, fun hnone => ⟨?retires, ?fatal⟩⟩,
      fun t ht => ⟨exec_drillPortDownEnd_ends hx ht, exec_drillPortDownEnd_early hx ht⟩⟩⟩ <;>
    have hrun : fabricRuns s = true := fabricRuns_iff.2 ⟨hoff, hhalt⟩
  case up =>
    obtain ⟨t, ht, hports⟩ := exec_portLinkUp_brings_up hx hrun credits hdown hdrill hused hp hsoon
    exact ⟨t, _, ht, hports, rfl, rfl, rfl, rfl, rfl, Port.broughtUp_fresh credits s.time,
      Port.broughtUp_retrained credits s.time⟩
  case manifest =>
    obtain ⟨u, hu, ht⟩ := exec_manifestReceive hx hrun hup hd far gib
    exact ⟨_, _, ht, getElem?_ports_setPort _ (by rw [hu]; exact hx), rfl, rfl, congrArg Fabric.lends hu⟩
  case silence => exact exec_portSilence_takes_down hx hrun
  all_goals obtain ⟨ta, fl, ht⟩ := exec_of_portFails hrun hx hc
  all_goals let u : State := { s with tally := ta, flash := fl }
  case joins =>
    intro hfree hp hjoined hconflict hreserve
    obtain ⟨far, step, hfail⟩ := failPort_joins (s := u) hfree (fun h => hp (Fin.ext h)) hjoined hconflict hreserve
    obtain ⟨hstandby, htarget, hdev⟩ := standbyTakesOver_leaves (s := u) (p := p)
    exact ⟨_, _, ht.trans (congrArg _ hfail), hstandby, standbyTakesOver_port (s := u) hx, rfl, htarget, hdev,
      fun r hr huse => ⟨_, standbyTakesOver_run (s := u) hr huse, rfl⟩⟩
  case retires =>
    intro huse
    obtain ⟨step, hfail⟩ := failPort_retires (s := u) hnone huse
    obtain ⟨hdev, hfabric⟩ := askStandby_dev_fabric u p env
    exact ⟨_, _, ht.trans (congrArg _ hfail), getElem?_ports_setPort _ ((congrArg (·.ports[(p : Nat)]?) hfabric).trans hx), rfl,
      List.mem_cons_self .., hdev⟩
  case fatal =>
    intro huse
    obtain ⟨cause, step, hfail⟩ := failPort_fatal (s := u) hnone huse
    obtain ⟨hdev, -⟩ := askStandby_dev_fabric u p env
    have hstate := congrArg Device.state hdev
    obtain ⟨hhalted, hlast, -, -⟩ := fatalWith_halts (answer := true) (severity := 3)
      (s := setPort (askStandby u p env) p fun x => { x with state := .failed }) (code := 0x0293) (source := islandPort p)
      (p := p) (q := cause) (u := step) (v := 0) (hstate ▸ hoff) (hstate ▸ hhalt)
    exact ⟨_, ht.trans (congrArg _ hfail), hhalted, hlast⟩

end Sys2Proof.Machine
end

section
/-!
PROOFS. The drill commands (R86, R293): what an event that voids steps leaves alone and what it makes of the steps in hand, and so
what DRILL_START and DRILL_STOP leave.
-/

namespace Sys2Proof.Machine

/-! ### What an event that voids steps leaves alone -/

/-- The fields that say which commands are in progress and which ports a step uses. -/
structure SameSetting (s t : State) : Prop where
  mbx : t.mbx = s.mbx
  board : t.board = s.board
  cfg : t.cfg = s.cfg
  jobs : t.jobs = s.jobs
  fabric : t.fabric = s.fabric

theorem SameSetting.trans {s t u : State} (h : SameSetting s t) (h' : SameSetting t u) : SameSetting s u :=
  ⟨h'.mbx.trans h.mbx, h'.board.trans h.board, h'.cfg.trans h.cfg, h'.jobs.trans h.jobs, h'.fabric.trans h.fabric⟩

theorem voidRecords_leaves (s : State) (cause : Nat) (l : List Admitted) (seen : List Nat) :
    SameSetting s (voidRecords s cause l seen) ∧ (voidRecords s cause l seen).sched = s.sched := by
  induction l generalizing s seen with
  | nil => exact ⟨⟨rfl, rfl, rfl, rfl, rfl⟩, rfl⟩
  | cons a l ih =>
    unfold voidRecords
    split
    · exact ih s seen
    · obtain ⟨hsetting, hsched⟩ := ih (tally s 0x0201 islandForeman 3 cause a.job (lo32 a.step)
        ((a :: l).countP fun b => b.job == a.job)) (a.job :: seen)
      refine ⟨.trans ?_ hsetting, hsched⟩
      exact ⟨rfl, rfl, rfl, rfl, rfl⟩

theorem deviceEvent_leaves (s : State) (b : Nat) : SameSetting s (deviceEvent s b) ∧ (deviceEvent s b).sched = s.sched := by
  refine ⟨⟨?_, ?_, ?_, ?_, ?_⟩, ?_⟩ <;> simp

theorem inHand_congr {s t : State} (h : t.sched = s.sched) : inHand t = inHand s := by simp only [inHand, h]

/-- The records of steps are no part of the queue and the running step. -/
theorem foldl_setRecord_leaves {α : Type} (job step : α → Nat) (f : StepRec → StepRec) (s : State) (l : List α) :
    SameSetting s (l.foldl (fun t x => setRecord t (job x) (step x) f) s) ∧
      inHand (l.foldl (fun t x => setRecord t (job x) (step x) f) s) = inHand s := by
  have h := foldl_keeps (f := fun t x => setRecord t (job x) (step x) f)
    (fun t => (t.mbx, t.board, t.cfg, t.jobs, t.fabric, inHand t)) (fun _ _ => rfl) s l
  simp only [Prod.mk.injEq] at h
  obtain ⟨hmbx, hboard, hcfg, hjobs, hfabric, hhand⟩ := h
  exact ⟨⟨hmbx, hboard, hcfg, hjobs, hfabric⟩, hhand⟩

/-! ### The steps in hand after an event that voids some (R86, R87) -/

/-- A step in hand after an event that voids `vs`. -/
def markVoid (vs : List (Admitted × Bool)) (a : Admitted) : Admitted :=
  match vs.find? fun v => v.1.job == a.job && v.1.step == a.step with
  | some v => { a with void := true, voidedBehind := !v.2 }
  | none => a

theorem markVoid_image_drill (vs : List (Admitted × Bool)) (a : Admitted) :
    (markVoid vs a).image = a.image ∧ (markVoid vs a).drill = a.drill := by
  unfold markVoid
  split <;> exact ⟨rfl, rfl⟩

theorem markVoid_of_void {vs : List (Admitted × Bool)} {a : Admitted} (h : a.void = true) : (markVoid vs a).void = true := by
  unfold markVoid
  split
  · rfl
  · exact h

theorem markVoid_of_mem {vs : List (Admitted × Bool)} {a : Admitted} {direct : Bool} (h : (a, direct) ∈ vs) :
    (markVoid vs a).void = true := by
  unfold markVoid
  split
  · rfl
  · next hnone => simpa using List.find?_eq_none.1 hnone _ h

theorem mem_voided {hit : Admitted → Bool} {l : List Admitted} {a : Admitted} {behind : Bool} (hmem : a ∈ l)
    (hhit : hit a = true) (hdrill : a.drill = false) (hvoid : a.void = false) : (a, true) ∈ voided hit l behind := by
  induction l generalizing behind with
  | nil => cases hmem
  | cons b l ih =>
    unfold voided
    obtain rfl | hmem := List.mem_cons.1 hmem
    · simp [hdrill, hvoid, hhit]
    · split_ifs <;> simp [ih hmem]

/-- `s` with every step in hand changed by `f`. -/
def markHand (s : State) (f : Admitted → Admitted) : State :=
  { s with sched := { s.sched with queue := s.sched.queue.map f, run := s.sched.run.map fun r => { r with adm := f r.adm } } }

theorem markHand_setting (s : State) (f : Admitted → Admitted) : SameSetting s (markHand s f) := ⟨rfl, rfl, rfl, rfl, rfl⟩

theorem inHand_markHand (s : State) (f : Admitted → Admitted) : inHand (markHand s f) = (inHand s).map f := by
  cases h : s.sched.run <;> simp [inHand, markHand, h]

/-- An event that voids steps reaches the steps in hand, their records, the Tally and the host's notice. -/
theorem voidSteps_leaves (s : State) (cause : Nat) (hit : Admitted → Bool) :
    SameSetting s (voidSteps s cause hit) ∧
      inHand (voidSteps s cause hit) = (inHand s).map (markVoid (voided hit (inHand s) false)) := by
  generalize hvs : voided hit (inHand s) false = vs
  simp only [voidSteps, hvs]
  split
  · next hempty =>
    have hnone : markVoid [] = id := rfl
    rw [List.isEmpty_iff.1 hempty, hnone, List.map_id]
    exact ⟨⟨rfl, rfl, rfl, rfl, rfl⟩, rfl⟩
  · obtain ⟨hevent, heventSched⟩ := deviceEvent_leaves (voidRecords _ cause (vs.map fun v => v.1) []) 0
    obtain ⟨hrecords, hrecordsSched⟩ := voidRecords_leaves (vs.foldl _ _) cause (vs.map fun v => v.1) []
    obtain ⟨hstatus, hstatusHand⟩ := foldl_setRecord_leaves (fun v : Admitted × Bool => v.1.job) (fun v => v.1.step)
      (fun r => { r with state := 3, status := St.promiseVoid }) (markHand s _) vs
    refine ⟨.trans (.trans (.trans (markHand_setting s _) hstatus) hrecords) hevent,
      (inHand_congr (heventSched.trans hrecordsSched)).trans (hstatusHand.trans ((inHand_markHand s _).trans ?_))⟩
    refine List.map_congr_left fun a _ => ?_
    rw [markVoid]
    cases vs.find? fun v => v.1.job == a.job && v.1.step == a.step <;> rfl

/-- An event that voids the steps of some images leaves none of them standing but a drill's. -/
theorem void_of_mem_voidSteps {s : State} {cause : Nat} {hits : Image → Bool} {b : Admitted}
    (hb : b ∈ inHand (voidSteps s cause fun a => hits a.image)) (hhit : hits b.image = true) (hdrill : b.drill = false) :
    b.void = true := by
  rw [(voidSteps_leaves ..).2] at hb
  obtain ⟨a, ha, rfl⟩ := List.mem_map.1 hb
  obtain ⟨himage, hsame⟩ := markVoid_image_drill (voided (fun a => hits a.image) (inHand s) false) a
  cases hvoid : a.void with
  | true => exact markVoid_of_void hvoid
  | false => exact markVoid_of_mem (mem_voided ha (himage ▸ hhit) (hsame ▸ hdrill) hvoid)

/-! ### DRILL_START and DRILL_STOP -/

/-- Which ports a step uses, and which a drill acts on, rests on these fields. -/
theorem SameSetting.drillHits {s t : State} (h : SameSetting s t) (img : Image) : drillHits t img = drillHits s img := by
  have hreads : Machine.drillHits t img =
      Machine.drillHits { s with board := t.board, cfg := t.cfg, jobs := t.jobs, fabric := t.fabric } img := rfl
  rw [hreads, h.board, h.cfg, h.jobs, h.fabric]

/-- The state in which the drill plan acts, with its start on record. -/
def drillStarted (s : State) : State :=
  let u := { s with fabric := { s.fabric with drill := true, ports := s.fabric.ports.map fun p =>
    { p with drillCount := List.replicate 8 0 } } }
  tally u 0x0297 islandCollective 1 1 ((List.range 8).countP fun e => bits (drillEntry u e) 19 0 != 0) 0 0

section
variable {m : Fin 64} {s : State} {w : Work} (hl : w.length = 0)
include hl

theorem exec_drillStart (h : workOf s m 0x0605 = some w) :
    exec (.drillStart m) s = .next (finished
      (voidSteps (drillStarted s) 4 fun a => drillHits (drillStarted s) a.image) m w St.ok [] 0 0) :=
  commandBare_changes h (voidSteps_leaves (drillStarted s) 4 _).1.mbx hl rfl

theorem exec_drillStop (h : workOf s m 0x0606 = some w) :
    exec (.drillStop m) s = .next (finished
      (tally { s with fabric := { s.fabric with drill := false } } 0x0297 islandCollective 1 2
        ((List.range 8).countP fun e => bits (drillEntry s e) 19 0 != 0) 0 0) m w St.ok [] 0 0) :=
  commandBare_changes h (by rfl) hl rfl

end

/-- Settles O20: the steps that the started plan hits are the ones that the voiding reaches. -/
theorem drillsStartAndStop : Obligations.DrillsStartAndStop := by
  refine fun m s w hl => ⟨fun h => ?_, exec_drillStop hl⟩
  obtain ⟨hsetting, -⟩ := voidSteps_leaves (drillStarted s) 4 fun a => drillHits (drillStarted s) a.image
  have hm : (m : Nat) < s.mbx.length := work_lt (workOf_some h).1
  refine ⟨_, exec_drillStart hl h, (mbxAt_finished (hsetting.mbx.symm ▸ hm)).1, congrArg Fabric.drill hsetting.fabric,
    fun p hp => ?_, ?_, fun a ha hhit hdrill => ?_⟩
  · have hp' := congrArg Fabric.ports hsetting.fabric ▸ hp
    obtain ⟨q, -, rfl⟩ := List.mem_map.1 hp'
    rfl
  · exact (congrArg (List.length ∘ Fabric.ports) hsetting.fabric).trans (List.length_map ..)
  · refine void_of_mem_voidSteps (s := drillStarted s) (hits := drillHits (drillStarted s)) ha ?_ hdrill
    exact (hsetting.drillHits a.image).symm.trans hhit

end Sys2Proof.Machine
end

section
/-!
PROOFS. Jobs and their shoring (R282, R292, R301, R308, R311, R348): JOB_OPEN, JOIN, LEAVE, CONFIGURE and RESTORE make their
change of the job and answer, or are refused. A RESTORE rests on what a survivor carries once it has adopted a lost member's
copy.
-/

namespace Sys2Proof.Machine

/-! ### A job and its changes -/

/-- A change of the first entry that meets a test is known by what it makes of that entry. -/
theorem modifyWhere_congr {α : Type} {q : α → Bool} {f g : α → α} {l : List α} {x : α} (hx : l.find? q = some x)
    (hfg : f x = g x) : modifyWhere q f l = modifyWhere q g l := by
  induction l with
  | nil => rfl
  | cons y l ih =>
    cases hy : q y with
    | true =>
      obtain rfl : y = x := by simpa [hy] using hx
      simp [modifyWhere, hy, hfg]
    | false =>
      have hrest : l.find? q = some x := by simpa [hy] using hx
      simp [modifyWhere, hy, ih hrest]

theorem setJob_of_jobAt {s : State} {k : Nat} {j : Job} (hj : jobAt s k = some j) (f : Job → Job) :
    setJob s k f = { s with jobs := modifyWhere (fun x => x.number == k) f s.jobs } := by
  simp only [setJob, hj]

theorem setJob_congr {s : State} {k : Nat} {j : Job} {f g : Job → Job} (hj : jobAt s k = some j) (hfg : f j = g j) :
    setJob s k f = setJob s k g := by
  rw [setJob_of_jobAt hj, setJob_of_jobAt hj, modifyWhere_congr hj hfg]

theorem jobAt_setJob_of_jobAt {s : State} {k : Nat} {j : Job} {f : Job → Job} (hj : jobAt s k = some j)
    (hf : ∀ j, (f j).number = j.number) : jobAt (setJob s k f) k = some (f j) := by
  rw [jobAt_setJob hf, hj, Option.getD_some]

theorem setJob_mbx (s : State) (k : Nat) (f : Job → Job) : (setJob s k f).mbx = s.mbx := by simp

/-! ### A refusal in a changed state -/

section
variable {s t : State} {m op : Nat} {w : Work} (h : workOf s m op = some w) (ht : t.mbx = s.mbx) (hop : op ≠ 0x0503)
include h ht hop

theorem refuse_of_mbx_eq (status d : Nat) : refuse t m status d = finished t m w status [] d 0 := by
  obtain ⟨hw, hopcode, -⟩ := workOf_some h
  rw [refuse_eq (by rw [mbxAt, ht]; exact hw), refusalPayload, if_neg (hopcode ▸ hop)]

end

/-! ### JOB_OPEN (R282) -/

section
variable {m : Fin 64} {s : State} {w : Work} {b : JobBox} (hshut : s.dev.shutStep = 0) (h : workOf s m 0x0601 = some w)
include hshut h

theorem exec_jobOpen_opens (hbox : boxOk s b = true) :
    exec (.jobOpen m (.fields b)) s = .next (finished
      (setJob s b.job fun j =>
        { j with box := some b, mismatch := false, degraded := false, failed := [], since := [], agreed := [] })
      m w St.ok [] 0 0) :=
  command_changes h (setJob_mbx ..) ((if_neg (not_not.2 hshut)).trans (if_neg (by simp [hbox])))

theorem exec_jobOpen_refused (hbox : boxOk s b = false) :
    exec (.jobOpen m (.fields b)) s = .next (finished s m w St.invalidField [] (Config.payloadByte 0x0601 0) 0) :=
  command_refuses h (by decide) ((if_neg (not_not.2 hshut)).trans (if_pos (by simp [hbox])))

end

/-! ### JOIN (R292) -/

section
variable {m : Fin 64} {s : State} {w : Work} {job : Nat} {j : Job} {peers : JoinAnswer} (hshut : s.dev.shutStep = 0)
  (h : workOf s m 0x0602 = some w) (hj : jobAt s job = some j) (hbox : j.box ≠ none) (hseat : (partyOf s job 1).box ≠ none)
  (hnode : nodeOf s < torusNodes (inForce s 4))
include hshut h hj hbox hseat hnode

/-- A device with its seat in the job's box joins by its manifests, its peers' payloads and its own step. -/
theorem exec_join_seated : exec (.join m (.fields job) peers) s = done (
    if s.fabric.ports.any fun x => x.quarantine != 0 then refuse s m St.manifestMismatch 0
    else if !peers.agree then refuse (setJob s job fun j => { j with mismatch := true }) m St.jobMismatch 0
    else if j.lastCompleted.getD 0 ≠ peers.step then respond s m St.jobLagging [(64, peers.step)] 0 0
    else respond (setJob s job fun j => { j with joined := true }) m St.ok [(64, peers.step)] 0 0) := by
  have hinside : ¬ (extents (inForce s 4)).1 * (extents (inForce s 4)).2.1 * (extents (inForce s 4)).2.2 ≤ nodeOf s :=
    Nat.not_le.2 hnode
  change execJoin m (.fields job) peers s = _
  rw [execJoin, command_fields h, if_neg (not_not.2 hshut)]
  simp only [hj]
  rw [if_neg (by simp [hbox, hseat, hinside])]

theorem exec_join_quarantined (hquar : ∃ p ∈ s.fabric.ports, p.quarantine ≠ 0) :
    exec (.join m (.fields job) peers) s = .next (finished s m w St.manifestMismatch [] 0 0) := by
  rw [exec_join_seated hshut h hj hbox hseat hnode, if_pos (by simpa using hquar), refuse_of_workOf h (by decide), done]

variable (hquiet : ∀ p ∈ s.fabric.ports, p.quarantine = 0)
include hquiet

theorem exec_join_joins (hagree : peers.agree = true) (hstep : j.lastCompleted.getD 0 = peers.step) :
    exec (.join m (.fields job) peers) s = .next (finished
      (setJob s job fun j => { j with joined := true }) m w St.ok [(64, peers.step)] 0 0) := by
  rw [exec_join_seated hshut h hj hbox hseat hnode, if_neg (by simpa using hquiet), if_neg (by simp [hagree]),
    if_neg (not_not.2 hstep), respond_of_mbx_eq h (setJob_mbx ..), done]

theorem exec_join_lags (hagree : peers.agree = true) (hstep : j.lastCompleted.getD 0 ≠ peers.step) :
    exec (.join m (.fields job) peers) s = .next (finished s m w St.jobLagging [(64, peers.step)] 0 0) := by
  rw [exec_join_seated hshut h hj hbox hseat hnode, if_neg (by simpa using hquiet), if_neg (by simp [hagree]), if_pos hstep,
    respond_of_workOf h, done]

theorem exec_join_mismatch (hagree : peers.agree = false) :
    exec (.join m (.fields job) peers) s = .next (finished
      (setJob s job fun j => { j with mismatch := true }) m w St.jobMismatch [] 0 0) := by
  rw [exec_join_seated hshut h hj hbox hseat hnode, if_neg (by simpa using hquiet), if_pos (by simp [hagree]),
    refuse_of_mbx_eq h (setJob_mbx ..) (by decide), done]

end

/-! ### LEAVE (R348) -/

/-- A device that leaves closes its box of the job; the notices to its peers reach no job. -/
theorem leaveJob_mbx_jobs {s : State} {job : Nat} {j : Job} (hj : jobAt s job = some j) :
    (leaveJob s job).mbx = s.mbx ∧ (leaveJob s job).jobs =
      modifyWhere (fun x => x.number == job) (fun x => { x with joined := false, box := none }) s.jobs := by
  obtain ⟨hmbx, hjobs⟩ := Prod.mk.inj (foldl_keeps (f := fun s d => notice s d 6 job) (fun t => (t.mbx, t.jobs))
    (fun _ _ => rfl) s ((participants s job).filter fun d => d != deviceNumber s))
  rw [leaveJob, setJob_of_jobAt (j := j) (by rw [jobAt, hjobs]; exact hj)]
  exact ⟨hmbx, congrArg _ hjobs⟩

section
variable {m : Fin 64} {s : State} {w : Work} {job : Nat} {j : Job} (h : workOf s m 0x0603 = some w)
  (hj : jobAt s job = some j)
include h hj

theorem exec_leave_leaves (hjoined : j.joined = true) :
    exec (.leave m (.fields job)) s = .next (finished (leaveJob s job) m w St.ok [] 0 0) := by
  refine command_changes h (leaveJob_mbx_jobs hj).1 ?_
  simp only [hj, if_pos hjoined]

theorem exec_leave_refused (hout : j.joined = false) :
    exec (.leave m (.fields job)) s = .next (finished s m w St.invalidField [] (Config.payloadByte 0x0603 0) 0) := by
  refine command_refuses h (by decide) ?_
  simp only [hj, hout]
  rfl

end

/-! ### CONFIGURE (R301) -/

theorem announceNext_mbx (s : State) (k : Nat) : (announceNext s k).mbx = s.mbx := by
  unfold announceNext
  split
  · rfl
  · dsimp only
    split <;> simp

/-- The announcement of a securing step reaches nothing else of the job. -/
theorem jobAt_announceNext_eq {s : State} {k : Nat} {j : Job} (hj : jobAt s k = some j) :
    ∃ announced reencode, jobAt (announceNext s k) k = some { j with announced, reencode } := by
  simp only [announceNext, hj]
  split
  · exact ⟨_, _, hj⟩
  · exact ⟨_, _, jobAt_setJob_of_jobAt hj fun _ => rfl⟩

/-- The state with a job's shoring as the payload gives it (R300 to R302). -/
def configured (s : State) (c : ShoringCfg) : State :=
  let u := setJob s c.job fun j =>
    { j with shoring := some c, lambda := lambdaInit c.lambdaInit (partyOf s c.job 1).count, lambdaAt := s.time, failures := 0 }
  announceNext (setJob u c.job fun j => { j with areaBytes := areasBytes u c.job }) c.job

theorem configured_leaves (s : State) (c : ShoringCfg) : (configured s c).mbx = s.mbx ∧ (configured s c).sched = s.sched ∧
    (configured s c).ctxs = s.ctxs := by
  obtain ⟨hsched, hctxs, -⟩ := announceNext_keeps (s := setJob (setJob s c.job _) c.job _) (k := c.job)
  refine ⟨(announceNext_mbx ..).trans ?_, hsched.trans ?_, hctxs.trans ?_⟩ <;> simp

theorem jobAt_configured (s : State) (c : ShoringCfg) : ∃ j, jobAt (configured s c) c.job = some j ∧ j.shoring = some c ∧
    j.failures = 0 ∧ j.lambdaAt = s.time := by
  obtain ⟨_, _, hj⟩ := jobAt_announceNext_eq (jobAt_setJob_of_jobAt
    (jobAt_setJob (s := s) (k := c.job) (f := fun j => { j with
      shoring := some c, lambda := lambdaInit c.lambdaInit (partyOf s c.job 1).count, lambdaAt := s.time, failures := 0 })
      fun _ => rfl) (f := fun j => { j with areaBytes := areasBytes _ c.job }) fun _ => rfl)
  exact ⟨_, hj, rfl, rfl, rfl⟩

section
variable {m : Fin 64} {s : State} {w : Work} (h : workOf s m 0x0701 = some w)
include h

theorem exec_configure_configures (hbad : configureBad s w = none) :
    exec (.configure m true) s = .next (finished (configured s (shoringOf w.page)) m w St.ok [] 0 0) := by
  change execConfigure m true s = _
  simp only [execConfigure, h, hbad, done]
  exact congrArg _ (respond_of_mbx_eq h (configured_leaves s (shoringOf w.page)).1 ..)

theorem exec_configure_mismatch (hbad : configureBad s w = none) :
    exec (.configure m false) s = .next (finished
      (setJob s (shoringOf w.page).job fun j => { j with mismatch := true }) m w St.jobMismatch [] 0 0) := by
  change execConfigure m false s = _
  simp only [execConfigure, h, hbad, done]
  exact congrArg _ (refuse_of_mbx_eq h (setJob_mbx ..) (by decide) ..)

theorem exec_configure_refused (agree : Bool) {o : Nat} (hbad : configureBad s w = some o) :
    exec (.configure m agree) s = .next (finished s m w St.invalidField [] o 0) := by
  change execConfigure m agree s = _
  simp only [execConfigure, h, hbad, done, refuse_of_workOf h (by decide)]

end

/-! ### What a survivor adopts (R308, R311) -/

/-- Every tile that this device's context has of the objects of a copy. -/
def wholeTiles (s : State) (x : Secured) : List (Nat × List Nat) :=
  x.objects.map fun o => (o.object, match objAt s x.ctx o.object with | some y => List.range y.entry.tiles | none => [])

/-- The shard of a member as this device carries it, or an empty one. -/
def carriedShard (s : State) (j : Job) (device ctx : Nat) (first : Bool) : Shadow :=
  (j.shadows.find? fun h => h.device == device).getD (emptyShadow s device ctx first)

theorem carriedShard_device (s : State) (j : Job) (device ctx : Nat) (first : Bool) :
    (carriedShard s j device ctx first).device = device := by
  unfold carriedShard
  cases h : j.shadows.find? fun h => h.device == device with
  | none => rfl
  | some g => simpa using List.find?_some h

/-- An installed object of the copy stands with the copy's VERSION in both slots. -/
theorem install_versions {h : Shadow} {x : Secured} {tiles : List (Nat × List Nat)} {o : Obj} {y : SecuredObj}
    (ho : o ∈ (h.install x tiles).ctx.objects) (hy : (x.objects.find? fun z => z.object == o.entry.object) = some y) :
    o.version = y.version ∧ o.prevVersion = y.version := by
  obtain ⟨o', -, rfl⟩ := List.mem_map.1 ho
  cases hz : x.objects.find? fun z => z.object == o'.entry.object with
  | none => simp [hz] at hy
  | some z =>
    simp only [hz, Option.some.injEq] at hy ⊢
    simp [hy]

section
variable {s : State} {job device : Nat} {j : Job} (x : Secured) (tiles : List (Nat × List Nat)) (first : Bool)

theorem jobAt_adopt (hj : jobAt s job = some j) : jobAt (adopt s job device x tiles first) job = some { j with
    adopted := (j.adopted.filter fun y => y.1 != device) ++ [(device, x)],
    shadows := (j.shadows.filter fun h => h.device != device) ++ [(carriedShard s j device x.ctx first).install x tiles] } :=
  jobAt_setJob_of_jobAt hj fun _ => rfl

theorem adopt_leaves : (adopt s job device x tiles first).mbx = s.mbx ∧ (adopt s job device x tiles first).ctxs = s.ctxs ∧
    (adopt s job device x tiles first).sched = s.sched := by
  simp [adopt]

end

/-! ### RESTORE (R311) -/

/-- The members of a job that have been restored, with `device` among them. -/
def withRestored (j : Job) (device : Nat) : List Nat :=
  if j.restored.contains device then j.restored else j.restored ++ [device]

section
variable {m : Fin 64} {s : State} {w : Work} {q : RestoreReq} {j : Job} (x : Secured) (h : workOf s m 0x0702 = some w)
  (hj : jobAt s q.job = some j)
include h hj

theorem exec_restore_adopts (hlost : j.lost = 2) (hmember : q.member ∈ j.since)
    (hregion : ∃ r ∈ s.mem.regions, r.number = q.region) :
    exec (.restore m (.fields q) (some x)) s = .next (finished
      (setJob (adopt s q.job q.member x (wholeTiles s x) true) q.job fun j' =>
        { j' with restored := withRestored j q.member,
                  lost := if j'.since.all (withRestored j q.member).contains then 0 else 2 }) m w St.ok [] 0 0) := by
  refine command_changes h ((setJob_mbx ..).trans (adopt_leaves x _ true).1) ?_
  simp only [hj]
  rw [if_neg (not_not.2 hlost), if_neg (by simpa using hmember), if_neg (by simpa using hregion)]
  refine congrArg (respond · m St.ok [] 0 0) (setJob_congr (jobAt_adopt x _ true hj) ?_)
  rfl

theorem exec_restore_wrongState (hlost : j.lost ≠ 2) :
    exec (.restore m (.fields q) (some x)) s = .next (finished s m w St.wrongState [] 0 0) := by
  refine command_refuses h (by decide) ?_
  simp only [hj, if_pos hlost]

end

/-- Settles O19: each command's hypotheses select one branch of its checks; what a RESTORE leaves of the job is read off the
shard that the survivor has adopted. -/
theorem jobsAndShoringAct : Obligations.JobsAndShoringAct := by
  refine ⟨fun m s w hshut => ⟨fun b h => ⟨exec_jobOpen_opens hshut h, exec_jobOpen_refused hshut h⟩,
      fun job j peers h hj hbox hseat hnode => ⟨exec_join_quarantined hshut h hj hbox hseat hnode,
        fun hquiet => ⟨exec_join_joins hshut h hj hbox hseat hnode hquiet,
          exec_join_lags hshut h hj hbox hseat hnode hquiet, exec_join_mismatch hshut h hj hbox hseat hnode hquiet⟩⟩,
      fun job j h hj => ⟨fun hjoined => ?leave, exec_leave_refused h hj⟩⟩,
    fun m s w h =>
      ⟨fun hbad => ⟨?configure, exec_configure_mismatch h hbad⟩, fun agree o => exec_configure_refused h agree⟩,
    fun m s w q x j h hj => ⟨fun hlost hmember hregion => ?restore, exec_restore_wrongState x h hj⟩⟩
  case leave =>
    obtain ⟨hmbx, hjobs⟩ := leaveJob_mbx_jobs hj
    exact ⟨_, exec_leave_leaves h hj hjoined, (mbxAt_finished (hmbx.symm ▸ work_lt (workOf_some h).1)).1, hjobs⟩
  case configure =>
    obtain ⟨hmbx, hsched, hctxs⟩ := configured_leaves s (shoringOf w.page)
    obtain ⟨j, hj, hshoring, hfailures, hlambda⟩ := jobAt_configured s (shoringOf w.page)
    exact ⟨_, j, exec_configure_configures h hbad, (mbxAt_finished (hmbx.symm ▸ work_lt (workOf_some h).1)).1, hj, hshoring,
      hfailures, hlambda, hsched, hctxs⟩
  case restore =>
    intro tiles u restored
    refine ⟨exec_restore_adopts x h hj hlost hmember hregion, _, (carriedShard s j q.member x.ctx true).install x tiles,
      jobAt_adopt x tiles true hj, by simp, carriedShard_device .., by simp, fun g hg hdevice => ?_, ?_⟩
    · obtain hg | hg := List.mem_append.1 hg
      · simp [hdevice] at hg
      · exact List.mem_singleton.1 hg
    · obtain ⟨-, hctxs, hsched⟩ := adopt_leaves (s := s) (job := q.job) (device := q.member) x tiles true
      exact ⟨hctxs, hsched, fun o ho y hy => install_versions ho hy⟩

end Sys2Proof.Machine
end

section
/-!
PROOFS. What keeps the queue of waiting commands, and every set's generation in force behind its committed one (O3, O6). Most
operations are `Still` (Laws/Still.lean), and so leave both. `Steady` is a statement under which the simplification lemmas of that
file still apply, so that what follows speaks only of the operations that are not still, and proves something only of
those that change a configuration set (R352 to R354).
-/

namespace Sys2Proof.Machine

variable {s t u : State}

/-! ### Queues and generations -/

/-- No set's generation in force is ahead of its committed one (R353). -/
def State.forceBehind (s : State) : Prop := ∀ c ∈ s.cfg, c.forceGen ≤ c.gen

/-- p holds of some state with the queue of s whose generations in force are behind when those of s are. With `Still · t` for p
this says that t is such a state (`steady_iff`). -/
def Steady (s : State) (p : State → Prop) : Prop :=
  ∃ z : State, z.pending = s.pending ∧ (s.forceBehind → z.forceBehind) ∧ p z

theorem forceBehind_congr (h : t.cfg = s.cfg) : t.forceBehind ↔ s.forceBehind := by simp only [State.forceBehind, h]

theorem steady_iff : Steady s (Still · t) ↔ t.pending = s.pending ∧ (s.forceBehind → t.forceBehind) :=
  ⟨fun ⟨_, hz, hb, f⟩ => ⟨f.pending.trans hz, fun h => (forceBehind_congr f.cfg).2 (hb h)⟩,
    fun ⟨hp, hb⟩ => ⟨t, hp, hb, .refl t⟩⟩

@[simp] theorem Steady.refl (s : State) : Steady s (Still · s) := steady_iff.2 ⟨rfl, id⟩

theorem Steady.trans (h : Steady s (Still · t)) (k : Steady t (Still · u)) : Steady s (Still · u) := by
  obtain ⟨hp, hb⟩ := steady_iff.1 h
  obtain ⟨kp, kb⟩ := steady_iff.1 k
  exact steady_iff.2 ⟨kp.trans hp, kb ∘ hb⟩

/-- Which state keeps queue and generations rests on its queue and its sets alone. -/
theorem steady_congr (hp : u.pending = t.pending) (hc : u.cfg = t.cfg) : Steady s (Still · u) ↔ Steady s (Still · t) := by
  rw [steady_iff, steady_iff, hp, forceBehind_congr hc]

theorem Still.steady_iff (h : Still t u) : Steady s (Still · u) ↔ Steady s (Still · t) := steady_congr h.pending h.cfg

@[simp] theorem steady_ite {c : Prop} [Decidable c] {p q : State → Prop} :
    Steady s (fun z => if c then p z else q z) ↔ if c then Steady s p else Steady s q := by
  split <;> rfl

/-- A record update that leaves the queue and the sets alone. -/
@[simp] theorem steady_mk {ti fr b d l rg mb c f ta g stk i me cx k j sc stm fa v sp} (hc : c = t.cfg) :
    Steady s (Still · ⟨ti, fr, t.pending, b, d, l, rg, mb, c, f, ta, g, stk, i, me, cx, k, j, sc, stm, fa, v, sp⟩) ↔
      Steady s (Still · t) := steady_congr rfl hc

/-- A fold of an operation that asks nothing but a steady state. -/
@[simp] theorem steady_foldl {α : Type} {f : State → α → State}
    (hf : ∀ s t x, Steady s (Still · (f t x)) ↔ Steady s (Still · t)) (l : List α) :
    Steady s (Still · (l.foldl f t)) ↔ Steady s (Still · t) := by
  induction l generalizing t with
  | nil => rfl
  | cons x l ih => exact ih.trans (hf s t x)

/-! ### Messages, answers and the Tally -/

@[simp] theorem setMbx_steady {m f} : Steady s (Still · (setMbx t m f)) ↔ Steady s (Still · t) := by simp [setMbx]

@[simp] theorem setStage_steady {m i x} : Steady s (Still · (setStage t m i x)) ↔ Steady s (Still · t) := by simp [setStage]

@[simp] theorem setSlot_steady {k f} : Steady s (Still · (setSlot t k f)) ↔ Steady s (Still · t) := by simp [setSlot]

@[simp] theorem setRun_steady {f} : Steady s (Still · (setRun t f)) ↔ Steady s (Still · t) := by simp [setRun]

@[simp] theorem signal_steady {v} : Steady s (Still · (signal t v)) ↔ Steady s (Still · t) := by simp [signal]

@[simp] theorem releaseHeld_steady : Steady s (Still · (releaseHeld t)) ↔ Steady s (Still · t) := by simp [releaseHeld]

@[simp] theorem deviceEvent_steady {b} : Steady s (Still · (deviceEvent t b)) ↔ Steady s (Still · t) := by simp [deviceEvent]

@[simp] theorem presenceEvent_steady : Steady s (Still · (presenceEvent t)) ↔ Steady s (Still · t) := by simp [presenceEvent]

@[simp] theorem reply_steady {c} : Steady s (Still · (reply t c)) ↔ Steady s (Still · t) := by simp [reply]

@[simp] theorem unsupported_steady : Steady s (Still · (unsupported t)) ↔ Steady s (Still · t) := by simp [unsupported]

@[simp] theorem hostDiscard_steady {k n o} : Steady s (Still · (hostDiscard t k n o)) ↔ Steady s (Still · t) := by
  simp [hostDiscard]

@[simp] theorem respond_steady {m status p d e} :
    Steady s (Still · (respond t m status p d e)) ↔ Steady s (Still · t) := by
  unfold respond; split <;> simp

@[simp] theorem refuse_steady {m status d} : Steady s (Still · (refuse t m status d)) ↔ Steady s (Still · t) := by
  simp [refuse]

@[simp] theorem presenceRefused_steady {m w} : Steady s (Still · (presenceRefused t m w)) ↔ Steady s (Still · t) := by
  simp [presenceRefused]

@[simp] theorem countClassP_steady : Steady s (Still · (countClassP t)) ↔ Steady s (Still · t) := by simp [countClassP]

@[simp] theorem commitRefused_steady {m i c} : Steady s (Still · (commitRefused t m i c)) ↔ Steady s (Still · t) := by
  simp [commitRefused]

/-! ### Mailboxes and configuration space -/

@[simp] theorem ringMailbox_steady {m} : Steady s (Still · (ringMailbox t m)) ↔ Steady s (Still · t) := by
  simp [ringMailbox]

@[simp] theorem answerOnly_steady {m q op st d} : Steady s (Still · (answerOnly t m q op st d)) ↔ Steady s (Still · t) := by
  simp [answerOnly]

@[simp] theorem replay_steady {m q c} : Steady s (Still · (replay t m q c)) ↔ Steady s (Still · t) := by
  unfold replay; split <;> simp

@[simp] theorem beginWork_steady {m w} : Steady s (Still · (beginWork t m w)) ↔ Steady s (Still · t) := by simp [beginWork]

@[simp] theorem checkWork_steady {m w} : Steady s (Still · (checkWork t m w)) ↔ Steady s (Still · t) := by
  unfold checkWork; split <;> simp

@[simp] theorem takeRequest_steady {m} : Steady s (Still · (takeRequest t m)) ↔ Steady s (Still · t) := by
  unfold takeRequest; dsimp only; split
  · simp
  · split <;> simp

@[simp] theorem writeReg_steady {o d} : Steady s (Still · (writeReg t o d)) ↔ Steady s (Still · t) := by simp [writeReg]

@[simp] theorem writePage_steady {m a d} : Steady s (Still · (writePage t m a d)) ↔ Steady s (Still · t) := by
  simp [writePage]

@[simp] theorem configDo_steady {q} : Steady s (Still · (configDo t q)) ↔ Steady s (Still · t) := by
  cases q <;> simp [configDo]

@[simp] theorem endHold_steady {e} : Steady s (Still · (endHold t e)) ↔ Steady s (Still · t) := by
  cases e <;> simp [endHold]

/-! ### Steps -/

@[simp] theorem voidSteps_steady {c hit} : Steady s (Still · (voidSteps t c hit)) ↔ Steady s (Still · t) := by
  unfold voidSteps; dsimp only; split <;> simp

@[simp] theorem haltCommands_steady : Steady s (Still · (haltCommands t)) ↔ Steady s (Still · t) := by simp [haltCommands]

@[simp] theorem setQueued_steady {a f} : Steady s (Still · (setQueued t a f)) ↔ Steady s (Still · t) := by simp [setQueued]

@[simp] theorem releaseTakes_steady {a} : Steady s (Still · (releaseTakes t a)) ↔ Steady s (Still · t) := by
  simp [releaseTakes]

@[simp] theorem removeQueued_steady {a} : Steady s (Still · (removeQueued t a)) ↔ Steady s (Still · t) := by
  simp [removeQueued]

@[simp] theorem extendPromises_steady {n} : Steady s (Still · (extendPromises t n)) ↔ Steady s (Still · t) := by
  unfold extendPromises; split <;> simp

@[simp] theorem enqueue_steady {a} : Steady s (Still · (enqueue t a)) ↔ Steady s (Still · t) := by simp [enqueue]

@[simp] theorem refuseSubmit_steady {m st d j k} :
    Steady s (Still · (refuseSubmit t m st d j k)) ↔ Steady s (Still · t) := by simp [refuseSubmit]

@[simp] theorem readmitOne_steady {a l} : Steady s (Still · (readmitOne t a l)) ↔ Steady s (Still · t) := by
  unfold readmitOne; dsimp only; split
  · simp
  · rename_i hseek
    split <;> simp [(seek_still hseek).steady_iff]

@[simp] theorem submitSchedule_steady {m w q img} :
    Steady s (Still · (submitSchedule t m w q img)) ↔ Steady s (Still · t) := by
  unfold submitSchedule; split
  · simp
  · rename_i hseek
    dsimp only
    repeat' split
    all_goals simp [(seek_still hseek).steady_iff]

@[simp] theorem submitDo_steady {m w} : Steady s (Still · (submitDo t m w)) ↔ Steady s (Still · t) := by
  unfold submitDo; dsimp only
  repeat' split
  all_goals simp

@[simp] theorem keepFetched_steady {m w b c} : Steady s (Still · (keepFetched t m w b c)) ↔ Steady s (Still · t) := by
  unfold keepFetched; dsimp only
  repeat' split
  · simp
  · simp
  · simp [(room_still ‹_›).steady_iff]

/-! ### The boundary of a step -/

@[simp] theorem takeOver_steady {g p k} : Steady s (Still · (takeOver t g p k)) ↔ Steady s (Still · t) := by
  simp [takeOver]

@[simp] theorem settleGrove_steady {k g} : Steady s (Still · (settleGrove k t g)) ↔ Steady s (Still · t) := by
  unfold settleGrove
  repeat' split
  all_goals simp

@[simp] theorem answerRetire_steady {x} : Steady s (Still · (answerRetire t x)) ↔ Steady s (Still · t) := by
  simp [answerRetire]

@[simp] theorem groveBoundary_steady {k} : Steady s (Still · (groveBoundary t k)) ↔ Steady s (Still · t) := by
  simp [groveBoundary]

@[simp] theorem retireOthers_steady : Steady s (Still · (retireOthers t)) ↔ Steady s (Still · t) := by
  simp [retireOthers]

@[simp] theorem kvBoundary_steady : Steady s (Still · (kvBoundary t)) ↔ Steady s (Still · t) := by
  refine (steady_foldl (fun s t x => ?_) _).trans (by simp)
  split <;> simp

@[simp] theorem releaseStandby_steady : Steady s (Still · (releaseStandby t)) ↔ Steady s (Still · t) := by
  unfold releaseStandby
  repeat' split
  all_goals simp

end Sys2Proof.Machine
end

section
/-!
PROOFS. Fatal errors, resets, start-up, hardware faults, accesses of the host and instances keep the queue and the generations
(O3, O6); so do the three operations that change a set: a commit (R352), the boundary that puts sets into force (R353), and
start-up, which loads them from the flash (R354).
-/

namespace Sys2Proof.Machine

variable {s t u : State}

/-! ### Sets that change -/

/-- Sets that are behind when those of t are. -/
theorem cfg_steady {cfg : List ConfigSet} (h : Steady s (Still · t))
    (hc : t.forceBehind → ∀ c ∈ cfg, c.forceGen ≤ c.gen) : Steady s (Still · { t with cfg }) :=
  h.trans (steady_iff.2 ⟨rfl, hc⟩)

theorem modify_forceBehind {k : Nat} {f : ConfigSet → ConfigSet}
    (hf : ∀ c, t.cfg[k]? = some c → c.forceGen ≤ c.gen → (f c).forceGen ≤ (f c).gen) (h : t.forceBehind) :
    ∀ c ∈ t.cfg.modify k f, c.forceGen ≤ c.gen := by
  intro c hc
  obtain ⟨i, hi⟩ := List.mem_iff_getElem?.1 hc
  rw [List.getElem?_modify, Option.map_eq_map, Option.map_eq_some_iff] at hi
  obtain ⟨x, hx, rfl⟩ := hi
  have hbehind := h x (List.mem_of_getElem? hx)
  split
  · subst i; exact hf x hx hbehind
  · exact hbehind

/-- A set put into force has the committed generation in force (R353). -/
@[simp] theorem configBoundary_steady (h : Steady s (Still · t)) : Steady s (Still · (configBoundary t)) := by
  refine List.foldlRecOn (motive := fun u => Steady s (Still · u)) _ _ h fun u hu k _ => ?_
  have forced : Steady s (Still · { u with cfg := u.cfg.modify k fun c => { c with force := c.value, forceGen := c.gen } }) :=
    cfg_steady hu (modify_forceBehind fun c _ _ => Nat.le_refl c.gen)
  dsimp only
  split
  · split
    · exact forced.trans (steady_iff.2 ⟨rfl, id⟩)
    · exact forced
  · exact hu

@[simp] theorem boundary_steady {k} (h : Steady s (Still · t)) : Steady s (Still · (boundary t k)) := by
  simp [boundary, h]

@[simp] theorem finishStep_steady {r} (h : Steady s (Still · t)) : Steady s (Still · (finishStep t r)) := by
  simp [finishStep, h]

/-! ### Fatal errors and resets -/

@[simp] theorem fatalWith_steady {answer severity code source p q r o} :
    Steady s (Still · (fatalWith answer severity t code source p q r o)) ↔ Steady s (Still · t) := by
  unfold fatalWith; split
  · rfl
  · rfl
  · simp

@[simp] theorem fatalAs_steady {severity code source p q r o} :
    Steady s (Still · (fatalAs severity t code source p q r o)) ↔ Steady s (Still · t) := fatalWith_steady

@[simp] theorem fatal_steady {code source p q r o} :
    Steady s (Still · (fatal t code source p q r o)) ↔ Steady s (Still · t) := fatalWith_steady

@[simp] theorem lossFatal_steady {i} : Steady s (Still · (lossFatal t i)) ↔ Steady s (Still · t) := by simp [lossFatal]

@[simp] theorem loseSapling_steady {d c i} : Steady s (Still · (loseSapling t d c i)) ↔ Steady s (Still · t) := fatalAs_steady

@[simp] theorem deviceReset_cfg (s : State) : (deviceReset s).cfg = s.cfg := rfl

@[simp] theorem deviceReset_steady : Steady s (Still · (deviceReset t)) ↔ Steady s (Still · t) := steady_congr rfl rfl

@[simp] theorem beginStart_steady : Steady s (Still · (beginStart t)) ↔ Steady s (Still · t) := by simp [beginStart]

@[simp] theorem powerDown_steady : Steady s (Still · (powerDown t)) ↔ Steady s (Still · t) := steady_congr rfl rfl

@[simp] theorem stageDown_steady {c mv} : Steady s (Still · (stageDown t c mv)) ↔ Steady s (Still · t) := steady_congr rfl rfl

@[simp] theorem loseLink_steady {c} : Steady s (Still · (loseLink t c)) ↔ Steady s (Still · t) := by simp [loseLink]

@[simp] theorem resetNow_steady {c} : Steady s (Still · (resetNow t c)) ↔ Steady s (Still · t) := by simp [resetNow]

@[simp] theorem setPin_steady {p v} : Steady s (Still · (setPin t p v)) ↔ Steady s (Still · t) := by
  cases p <;> simp [setPin]

@[simp] theorem retrained_steady {v w} : Steady s (Still · (retrained t v w)) ↔ Steady s (Still · t) := by simp [retrained]

@[simp] theorem idle_steady : Steady s (Still · (idle t)) ↔ Steady s (Still · t) := by simp [idle]

/-! ### Start-up -/

@[simp] theorem failTrial_steady {k n} : Steady s (Still · (failTrial t k n)) ↔ Steady s (Still · t) := by simp [failTrial]

@[simp] theorem promote_steady : Steady s (Still · (promote t)) ↔ Steady s (Still · t) := by simp [promote]

@[simp] theorem bootSlot_steady : Steady s (Still · (bootSlot t).1) ↔ Steady s (Still · t) := by
  unfold bootSlot; dsimp only
  repeat' split
  all_goals simp

@[simp] theorem bootTrust_steady {env} : Steady s (Still · (bootTrust t env)) ↔ Steady s (Still · t) := by simp [bootTrust]

/-- A set as start-up loads it from the flash, from its number less one: the generation and the value of its last commit, or
its reset value under generation 0, committed and in force (R354). -/
def loadedSet (f : Flash) (x : ConfigSet × Nat) : ConfigSet :=
  match at' f.configs x.2 none with
  | some (g, v) => { x.1 with value := v, gen := g, force := v, forceGen := g }
  | none =>
    { x.1 with value := at' ConfigSet.resetValues x.2 0, gen := 0, force := at' ConfigSet.resetValues x.2 0, forceGen := 0 }

theorem loadFlash_cfg (s : State) : (loadFlash s).cfg = s.cfg.zipIdx.map (loadedSet s.flash) := by
  unfold loadFlash; dsimp only
  repeat' split
  all_goals rfl

theorem loadedSet_forceGen (f : Flash) (x : ConfigSet × Nat) : (loadedSet f x).forceGen = (loadedSet f x).gen := by
  unfold loadedSet; split <;> rfl

theorem loadFlash_pending (s : State) : (loadFlash s).pending = s.pending := by
  unfold loadFlash; dsimp only
  repeat' split
  all_goals rfl

@[simp] theorem loadFlash_steady (h : Steady s (Still · t)) : Steady s (Still · (loadFlash t)) := by
  refine h.trans (steady_iff.2 ⟨loadFlash_pending t, fun _ c hc => ?_⟩)
  rw [loadFlash_cfg] at hc
  obtain ⟨x, -, rfl⟩ := List.mem_map.1 hc
  exact (loadedSet_forceGen t.flash x).le

@[simp] theorem enterMonitor_steady : Steady s (Still · (enterMonitor t)) ↔ Steady s (Still · t) := by simp [enterMonitor]

@[simp] theorem bootDo_steady {env} (h : Steady s (Still · t)) : Steady s (Still · (bootDo t env)) := by
  unfold bootDo; dsimp only; split <;> simp [h]

@[simp] theorem readyDo_steady : Steady s (Still · (readyDo t)) ↔ Steady s (Still · t) := by simp [readyDo]

@[simp] theorem answerEnter_steady : Steady s (Still · (answerEnter t)) ↔ Steady s (Still · t) := by
  refine steady_foldl (fun s t m => ?_) _
  split <;> simp

@[simp] theorem enterDo_steady : Steady s (Still · (enterDo t)) ↔ Steady s (Still · t) := by simp [enterDo]

@[simp] theorem askShutdown_steady {b} : Steady s (Still · (askShutdown t b)) ↔ Steady s (Still · t) := by simp [askShutdown]

@[simp] theorem changeState_steady {m d} : Steady s (Still · (changeState t m d)) ↔ Steady s (Still · t) := by
  simp [changeState]

@[simp] theorem enterTarget_steady {m w d} : Steady s (Still · (enterTarget t m w d)) ↔ Steady s (Still · t) := by
  simp [enterTarget]

/-! ### Faults of the hardware -/

@[simp] theorem countPosition_steady {k c f p} : Steady s (Still · (countPosition t k c f p)) ↔ Steady s (Still · t) := by
  unfold countPosition; dsimp only; split
  · rfl
  · split
    · simp
    · split <;> simp

@[simp] theorem correctBurst_steady {e l} : Steady s (Still · (correctBurst t e l)) ↔ Steady s (Still · t) := by
  simp [correctBurst]

@[simp] theorem patrolBurst_steady {k e} : Steady s (Still · (patrolBurst k t e)) ↔ Steady s (Still · t) := by
  unfold patrolBurst
  repeat' split
  all_goals simp

@[simp] theorem readBursts_steady {a l w} : Steady s (Still · (readBursts t a l w).1) ↔ Steady s (Still · t) := by
  induction l generalizing t w with
  | nil => rfl
  | cons e l ih =>
    unfold readBursts
    repeat' split
    all_goals simp [ih]

@[simp] theorem meetFault_steady {i f} : Steady s (Still · (meetFault i t f)) ↔ Steady s (Still · t) := by
  unfold meetFault; split
  · rfl
  · cases f <;> simp

@[simp] theorem oneMismatch_steady {g w r} : Steady s (Still · (oneMismatch t g w r)) ↔ Steady s (Still · t) := by
  simp [oneMismatch]

@[simp] theorem replayRow_steady {g w r c l} : Steady s (Still · (replayRow t g w r c l)) ↔ Steady s (Still · t) := by
  simp [replayRow]

@[simp] theorem loseGrove_steady {g c} : Steady s (Still · (loseGrove t g c)) ↔ Steady s (Still · t) := by
  unfold loseGrove; split <;> simp

@[simp] theorem arrayCheck_steady {g p r c l} : Steady s (Still · (arrayCheck t g p r c l)) ↔ Steady s (Still · t) := by
  unfold arrayCheck; dsimp only
  repeat' split
  all_goals simp

@[simp] theorem failPort_steady {p e} : Steady s (Still · (failPort t p e)) ↔ Steady s (Still · t) := by simp [failPort]

@[simp] theorem accessEffect_steady {c a tr} : Steady s (Still · (accessEffect t c a tr)) ↔ Steady s (Still · t) := by
  unfold accessEffect; dsimp only
  repeat' split
  all_goals simp

/-! ### Accesses of the host -/

@[simp] theorem answerRead_steady {w l} : Steady s (Still · (answerRead t w l)) ↔ Steady s (Still · t) := by
  simp [answerRead]

@[simp] theorem devWrite_steady {a v} : Steady s (Still · (devWrite t a v)) ↔ Steady s (Still · t) := by
  unfold devWrite; split <;> simp

@[simp] theorem deviceAccess_steady {a c l} : Steady s (Still · (deviceAccess t a c l)) ↔ Steady s (Still · t) := by
  unfold deviceAccess; split
  · simp
  · cases c <;> simp

@[simp] theorem mappedAccess_steady {i c l} : Steady s (Still · (mappedAccess t i c l)) ↔ Steady s (Still · t) := by
  unfold mappedAccess; dsimp only
  repeat' split
  all_goals simp

@[simp] theorem placementDo_steady {j o c} : Steady s (Still · (placementDo t j o c)) ↔ Steady s (Still · t) := by
  unfold placementDo
  repeat' split
  all_goals simp

/-! ### Tests and shut-down -/

@[simp] theorem wipeStack_steady {k} : Steady s (Still · (wipeStack t k)) ↔ Steady s (Still · t) := by simp [wipeStack]

@[simp] theorem reinitialise_steady {i} : Steady s (Still · (reinitialise t i)) ↔ Steady s (Still · t) := by
  simp [reinitialise]

@[simp] theorem testIsland_steady {l k i} : Steady s (Still · (testIsland l k t i)) ↔ Steady s (Still · t) := by
  simp [testIsland]

@[simp] theorem shutTests_steady {l} : Steady s (Still · (shutTests t l)) ↔ Steady s (Still · t) := by simp [shutTests]

@[simp] theorem shutRefuse_steady : Steady s (Still · (shutRefuse t)) ↔ Steady s (Still · t) := by
  refine steady_foldl (fun s t m => ?_) _
  split <;> simp

@[simp] theorem shutDown_steady {l n} : Steady s (Still · (shutDown t l n)) ↔ Steady s (Still · t) := by
  unfold shutDown; dsimp only
  split <;> simp

@[simp] theorem setSensor_steady {x c} : Steady s (Still · (setSensor t x c)) ↔ Steady s (Still · t) := by
  cases x <;> simp [setSensor]

/-! ### The running step -/

@[simp] theorem markExecuted_steady {i} : Steady s (Still · (markExecuted t i)) ↔ Steady s (Still · t) := by
  simp [markExecuted]

@[simp] theorem onInstance_steady {i op go} (hgo : ∀ r d (u : State), Still u (go r d u)) :
    Steady s (Still · (onInstance t i op go)) ↔ Steady s (Still · t) := by
  unfold onInstance; split
  · rfl
  · split
    · rfl
    · split
      · simp [startInstance, (hgo _ _ _).steady_iff]
      · rfl

@[simp] theorem onCollective_steady {i op send go} (hsend : ∀ r d (u : State), Still u (send r d u))
    (hgo : ∀ r d u v, go r d u = some v → Still u v) :
    Steady s (Still · (onCollective i op send go t)) ↔ Steady s (Still · t) := by
  unfold onCollective; split
  · rfl
  · split
    · rfl
    · split
      · rfl
      · dsimp only; split
        · exact (hsend ..).steady_iff
        · refine (onInstance_steady fun r d u => ?_).trans (hsend ..).steady_iff
          cases hv : go r d u with
          | none => exact .refl u
          | some v => exact hgo r d u v hv

@[simp] theorem moveIn_steady {r o x} : Steady s (Still · (moveIn t r o x)) ↔ Steady s (Still · t) := by
  unfold moveIn; dsimp only; split <;> simp

@[simp] theorem derivedDo_steady {k n x r} : Steady s (Still · (derivedDo k n x r t)) ↔ Steady s (Still · t) := by
  unfold derivedDo; dsimp only
  repeat' split
  all_goals simp

@[simp] theorem takeBack_steady {j x} : Steady s (Still · (takeBack t j x)) ↔ Steady s (Still · t) := by
  unfold takeBack; dsimp only
  split
  · rfl
  · simp
    refine steady_foldl (fun s t m => ?_) _
    split <;> simp

@[simp] theorem groupLost_steady {j g} : Steady s (Still · (groupLost t j g)) ↔ Steady s (Still · t) := by
  unfold groupLost; dsimp only
  repeat' split
  all_goals simp

/-! ### Commands of the mailboxes and of SPDM -/

/-- A command of a mailbox does nothing, refuses, or goes on. -/
@[simp] theorem command_steady {α : Type} {m op} {p : Pay α} {go : Work → α → State} (h : Steady s (Still · t))
    (hgo : ∀ w x, Steady s (Still · (go w x))) : Steady s (Still · (command t m op p go)) := by
  unfold command; split
  · exact h
  · split
    · simpa using h
    · exact hgo _ _

@[simp] theorem commandBare_steady {m op} {go : Work → State} (h : Steady s (Still · t))
    (hgo : ∀ w, Steady s (Still · (go w))) : Steady s (Still · (commandBare t m op go)) := by
  unfold commandBare; split
  · exact h
  · simp [h, hgo]

@[simp] theorem kvCommand_steady {m op p} : Steady s (Still · (kvCommand s m op p)) := by
  refine command_steady (.refl s) fun w k => ?_
  simp

@[simp] theorem spdmAnswer_steady {c l} : Steady s (Still · (spdmAnswer t c l)) ↔ Steady s (Still · t) := by
  simp [spdmAnswer]

@[simp] theorem spdmError_steady {c} : Steady s (Still · (spdmError t c)) ↔ Steady s (Still · t) := spdmAnswer_steady

@[simp] theorem signedAnswer_steady {c n l} : Steady s (Still · (signedAnswer t c n l)) ↔ Steady s (Still · t) :=
  spdmAnswer_steady

@[simp] theorem onSession_steady {tr} {go : State → State} (h : Steady s (Still · t)) (hgo : Steady s (Still · (go t))) :
    Steady s (Still · (onSession t tr go)) := by simp [onSession, h, hgo]

@[simp] theorem withKey_steady {go : State → State} (h : Steady s (Still · t)) (hgo : Steady s (Still · (go t))) :
    Steady s (Still · (withKey t go)) := by simp [withKey, h, hgo]

@[simp] theorem withPresence_steady {c} {go : State → State} (h : Steady s (Still · t))
    (hgo : Steady s (Still · (go (countClassP t)))) : Steady s (Still · (withPresence t c go)) := by
  simp [withPresence, h, hgo]

end Sys2Proof.Machine
end

section
/-!
PROOFS. Every command answers a next state, leaves the queue of waiting commands alone and keeps the generations in force behind
the committed ones (O3, O6).
-/

namespace Sys2Proof.Machine

variable {s : State}

/-- A next state is answered, with the queue of s, and with generations in force behind when those of s are. -/
def Answers (s : State) (o : Host.Outcome State Fault Refusal) : Prop := ∃ t, o = .next t ∧ Steady s (Still · t)

@[simp] theorem answers_next {t : State} : Answers s (.next t) ↔ Steady s (Still · t) :=
  ⟨fun ⟨_, e, h⟩ => by cases e; exact h, fun h => ⟨t, rfl, h⟩⟩

@[simp] theorem answers_done {t : State} : Answers s (done t) ↔ Steady s (Still · t) := answers_next

/-- An instruction of the vector engine is still, by its opcode. -/
theorem vecOp_answers {op f} (e : vecOp op = some f) (g : Fin 128) (v : VFields) : Answers s (f g v s) := by
  obtain ⟨t, ht, hs⟩ := exec_still_vec e g v s
  exact ⟨t, ht, hs.steady_iff.2 (.refl s)⟩

/-- A command of a mailbox whose fields lead to such a state. -/
theorem Answers.command {α : Type} {m op} {p : Pay α} {go : Work → α → State}
    (h : ∀ w x, Steady s (Still · (go w x))) : Answers s (done (command s m op p go)) :=
  answers_done.2 (command_steady (.refl s) h)

/-! ### Commands that need room -/

@[simp] theorem execAditMap_answers {m p} : Answers s (execAditMap m p s) := by
  refine .command fun w n => ?_
  repeat' split
  all_goals simp
  exact (bringBack_still ‹_›).steady_iff.2 (.refl s)

@[simp] theorem execPlaceBind_answers {m p} : Answers s (execPlaceBind m p s) := by
  refine .command fun w x => ?_
  repeat' split
  all_goals simp
  exact (room_still ‹_›).steady_iff.2 (.refl s)

@[simp] theorem execSluiceOpen_answers {m} : Answers s (execSluiceOpen m s) := by
  unfold execSluiceOpen; dsimp only
  repeat' split
  all_goals simp
  exact (room_still ‹_›).steady_iff.2 (.refl s)

@[simp] theorem execSubstitute_answers {m p sample} : Answers s (execSubstitute m p sample s) := by
  refine .command fun w x => ?_
  dsimp only
  repeat' split
  all_goals simp
  exact (room_still ‹_›).steady_iff.2 (.refl s)

/-! ### Commands with cases or conditions of their own -/

@[simp] theorem execFwActivate_answers {m p} : Answers s (execFwActivate m p s) := by
  refine .command fun w k => ?_
  unfold execFwActivate.activate; dsimp only
  repeat' split
  all_goals simp

/-- A commit raises the committed generation and leaves the one in force (R352). -/
@[simp] theorem execConfigCommit_answers {m p} : Answers s (execConfigCommit m p s) := by
  refine .command fun w i => ?_
  dsimp only
  split
  · simp
  · split
    · simp
    · rename_i x _
      split
      · simp
      · rename_i hgen
        have raised {flash a b c p q r o} : Steady s (Still · (tally { setStage s m i none with
            cfg := (setStage s m i none).cfg.modify (i - 1) fun c => { c with value := x.value, gen := x.gen + 1 },
            flash } a b c p q r o)) := by
          simp only [tally_still]
          refine cfg_steady (t := { setStage s m i none with flash }) (by simp) (modify_forceBehind fun c hc hbehind => ?_)
          have : x.gen = c.gen := by simpa [setGen, at', show s.cfg[i - 1]? = some c from hc] using hgen
          dsimp only; omega
        have bounded {u : State} (hu : Steady s (Still · u)) : Steady s (Still ·
            (let v := if busy u then u else configBoundary u
             if i = 1 && !busy v && v.dev.stage = 4 then idleIslands v else v)) := by simp [hu]
        split
        · simp
        · exact respond_steady.2 (bounded raised)

@[simp] theorem execGetCsr_answers {tr} : Answers s (execGetCsr tr s) :=
  answers_done.2 (onSession_steady (.refl s) (withPresence_steady (.refl s) (withKey_steady (by simp) (by simp))))

@[simp] theorem execSetCertificate_answers {tr slot chain} : Answers s (execSetCertificate tr slot chain s) :=
  answers_done.2 (onSession_steady (.refl s) (withPresence_steady (.refl s) (by simp)))

@[simp] theorem execReduce_answers {i} : Answers s (execReduce i s) :=
  answers_done.2 ((onCollective_steady (fun _ _ _ => by simp) fun _ _ _ _ => reduceDo_still).2 (.refl s))

@[simp] theorem execGather_answers {i} : Answers s (execGather i s) :=
  answers_done.2 ((onCollective_steady (fun _ _ _ => by simp) fun _ _ _ _ => gatherDo_still).2 (.refl s))

/-! ### Commands of the mailboxes -/

@[simp] theorem execMbxDoorbell_answers {m part} : Answers s (execMbxDoorbell m part s) := by
  unfold execMbxDoorbell
  repeat' split
  all_goals simp

@[simp] theorem execEnterState_answers {m p} : Answers s (execEnterState m p s) := by
  refine .command fun w x => ?_
  repeat' split
  all_goals simp

@[simp] theorem execFwInstall_answers {m p} : Answers s (execFwInstall m p s) := by
  refine .command fun w x => ?_
  dsimp only
  repeat' split
  all_goals simp

@[simp] theorem execUnregisterHost_answers {m p} : Answers s (execUnregisterHost m p s) := by
  refine .command fun w x => ?_
  repeat' split
  all_goals simp

@[simp] theorem execScaleRead_answers {m p} : Answers s (execScaleRead m p s) := by
  refine .command fun w x => ?_
  repeat' split
  all_goals simp

@[simp] theorem execSpillRead_answers {m p} : Answers s (execSpillRead m p s) := by
  refine .command fun w x => ?_
  repeat' split
  all_goals simp

@[simp] theorem execLoadImage_answers {m fetch} : Answers s (execLoadImage m fetch s) := by
  unfold execLoadImage
  repeat' split
  all_goals simp

@[simp] theorem execSubmit_answers {m} : Answers s (execSubmit m s) := by
  unfold execSubmit
  repeat' split
  all_goals simp

@[simp] theorem execStepStatus_answers {m p} : Answers s (execStepStatus m p s) := by
  refine .command fun w x => ?_
  repeat' split
  all_goals simp

@[simp] theorem execUpdateParams_answers {m p} : Answers s (execUpdateParams m p s) := by
  refine .command fun w x => ?_
  repeat' split
  all_goals simp

@[simp] theorem execJoin_answers {m p peers} : Answers s (execJoin m p peers s) := by
  refine .command fun w x => ?_
  repeat' split
  all_goals simp

@[simp] theorem execLeave_answers {m p} : Answers s (execLeave m p s) := by
  refine .command fun w x => ?_
  repeat' split
  all_goals simp

@[simp] theorem execConfigure_answers {m agree} : Answers s (execConfigure m agree s) := by
  unfold execConfigure
  repeat' split
  all_goals simp

@[simp] theorem execRestore_answers {m p copy} : Answers s (execRestore m p copy s) := by
  refine .command fun w x => ?_
  repeat' split
  all_goals simp

@[simp] theorem execShoringStatus_answers {m p} : Answers s (execShoringStatus m p s) := by
  refine .command fun w x => ?_
  repeat' split
  all_goals simp

@[simp] theorem execMargin_answers {m p windows} : Answers s (execMargin m p windows s) := by
  refine .command fun w x => ?_
  repeat' split
  all_goals simp

@[simp] theorem execConfigStage_answers {m p} : Answers s (execConfigStage m p s) := by
  unfold execConfigStage
  repeat' split
  all_goals simp

/-! ### Steps and their instances -/

@[simp] theorem execStepStart_answers : Answers s (execStepStart s) := by
  unfold execStepStart
  repeat' split
  all_goals simp

@[simp] theorem execContextSwitch_answers : Answers s (execContextSwitch s) := by
  unfold execContextSwitch
  repeat' split
  all_goals simp

@[simp] theorem execStepComplete_answers : Answers s (execStepComplete s) := by
  unfold execStepComplete
  repeat' split
  all_goals simp

@[simp] theorem execReadmission_answers : Answers s (execReadmission s) := by
  unfold execReadmission
  repeat' split
  all_goals simp

@[simp] theorem execInstanceComplete_answers {k} : Answers s (execInstanceComplete k s) := by
  unfold execInstanceComplete; dsimp only
  repeat' split
  all_goals simp

@[simp] theorem execConv_answers {i} : Answers s (execConv i s) := by
  unfold execConv
  repeat' split
  all_goals simp

@[simp] theorem execFilterLoad_answers {i} : Answers s (execFilterLoad i s) := by
  unfold execFilterLoad; dsimp only
  repeat' split
  all_goals simp

@[simp] theorem execKvAppend_answers {i} : Answers s (execKvAppend i s) := by
  unfold execKvAppend
  repeat' split
  all_goals simp

@[simp] theorem execVecRun_answers {g i q part} : Answers s (execVecRun g i q part s) := by
  unfold execVecRun
  repeat' split
  all_goals simp

@[simp] theorem execScaleSync_answers {i parts} : Answers s (execScaleSync i parts s) := by
  unfold execScaleSync; dsimp only
  repeat' split
  all_goals simp

@[simp] theorem execBarrier_answers {i} : Answers s (execBarrier i s) := by
  unfold execBarrier
  repeat' split
  all_goals simp

@[simp] theorem execNormCollective_answers {others} : Answers s (execNormCollective others s) := by
  unfold execNormCollective
  repeat' split
  all_goals simp

@[simp] theorem execVersionConfirm_answers {mb answers} : Answers s (execVersionConfirm mb answers s) := by
  unfold execVersionConfirm
  repeat' split
  all_goals simp

@[simp] theorem execDerivedMove_answers {kind object arrival} : Answers s (execDerivedMove kind object arrival s) := by
  unfold execDerivedMove
  repeat' split
  all_goals simp

@[simp] theorem execSluiceTake_answers {i} : Answers s (execSluiceTake i s) := by
  unfold execSluiceTake
  repeat' split
  all_goals simp

@[simp] theorem execRecompute_answers {i} : Answers s (execRecompute i s) := by
  unfold execRecompute
  repeat' split
  all_goals simp

/-! ### Other events -/

@[simp] theorem execRegisterWrite_answers {offset data} : Answers s (execRegisterWrite offset data s) := by
  unfold execRegisterWrite
  repeat' split
  all_goals simp

@[simp] theorem execPerstRelease_answers {part} : Answers s (execPerstRelease part s) := by
  unfold execPerstRelease
  repeat' split
  all_goals simp

@[simp] theorem execT3Shortfall_answers {bytes _lag index object} : Answers s (execT3Shortfall bytes _lag index object s) := by
  unfold execT3Shortfall
  repeat' split
  all_goals simp

@[simp] theorem execPresenceWindowExpiry_answers : Answers s (execPresenceWindowExpiry s) := by
  unfold execPresenceWindowExpiry
  repeat' split
  all_goals simp

@[simp] theorem execShdnReq_answers {asserted} : Answers s (execShdnReq asserted s) := by
  unfold execShdnReq; dsimp only
  repeat' split
  all_goals simp

@[simp] theorem execThermalTrip_answers {sensor celsius} : Answers s (execThermalTrip sensor celsius s) := by
  unfold execThermalTrip
  repeat' split
  all_goals simp

@[simp] theorem execArrayMismatch_answers {g where__ row error} : Answers s (execArrayMismatch g where__ row error s) := by
  unfold execArrayMismatch
  repeat' split
  all_goals simp

@[simp] theorem execSaplingMismatch_answers {die position group index error} :
    Answers s (execSaplingMismatch die position group index error s) := by
  unfold execSaplingMismatch
  repeat' split
  all_goals simp

@[simp] theorem execSampleStart_answers {st unit entry sample} : Answers s (execSampleStart st unit entry sample s) := by
  unfold execSampleStart; dsimp only
  repeat' split
  all_goals simp

@[simp] theorem execSampleStaged_answers {st unit sample} : Answers s (execSampleStaged st unit sample s) := by
  unfold execSampleStaged; dsimp only
  repeat' split
  all_goals simp

@[simp] theorem execSampleOverrun_answers {st unit} : Answers s (execSampleOverrun st unit s) := by
  unfold execSampleOverrun
  repeat' split
  all_goals simp

@[simp] theorem execSampleLate_answers {st position} : Answers s (execSampleLate st position s) := by
  unfold execSampleLate; dsimp only
  repeat' split
  all_goals simp

@[simp] theorem execManifestReceive_answers {port far lendGib} : Answers s (execManifestReceive port far lendGib s) := by
  unfold execManifestReceive; dsimp only
  repeat' split
  all_goals simp

@[simp] theorem execDrillPortDownEnd_answers {port} : Answers s (execDrillPortDownEnd port s) := by
  unfold execDrillPortDownEnd
  repeat' split
  all_goals simp

@[simp] theorem execEntryRoundMessage_answers {job step parts waitNs} :
    Answers s (execEntryRoundMessage job step parts waitNs s) := by
  unfold execEntryRoundMessage; dsimp only
  repeat' split
  all_goals simp

@[simp] theorem execJobOpenCompare_answers {device box shoring} : Answers s (execJobOpenCompare device box shoring s) := by
  unfold execJobOpenCompare
  repeat' split
  all_goals simp

@[simp] theorem execSecuringAnnounce_answers {job step} : Answers s (execSecuringAnnounce job step s) := by
  unfold execSecuringAnnounce
  repeat' split
  all_goals simp

@[simp] theorem execSecuring_answers {job arrival hostOk} : Answers s (execSecuring job arrival hostOk s) := by
  unfold execSecuring
  repeat' split
  all_goals simp

@[simp] theorem execFailureAnnounce_answers {job device fetched us} :
    Answers s (execFailureAnnounce job device fetched us s) := by
  unfold execFailureAnnounce; dsimp only
  repeat' split
  all_goals simp

@[simp] theorem execReencodingAnnounce_answers {job step} : Answers s (execReencodingAnnounce job step s) := by
  unfold execReencodingAnnounce
  repeat' split
  all_goals simp

@[simp] theorem execTierLending_answers {port op} : Answers s (execTierLending port op s) := by
  unfold execTierLending
  repeat' split
  all_goals simp

@[simp] theorem execVersionConfirmRequest_answers {device ctx mb object version} :
    Answers s (execVersionConfirmRequest device ctx mb object version s) := by
  unfold execVersionConfirmRequest
  repeat' split
  all_goals simp

@[simp] theorem execJobStepQuery_answers {job device box} : Answers s (execJobStepQuery job device box s) := by
  unfold execJobStepQuery
  repeat' split
  all_goals simp

@[simp] theorem execDoeDiscovery_answers {index} : Answers s (execDoeDiscovery index s) := by
  unfold execDoeDiscovery
  repeat' split
  all_goals simp

/-! ### Vector instructions that branch, or that fill a register -/

@[simp] theorem execVendloop_answers {g v} : Answers s (execVendloop g v s) := vecOp_answers (op := 0x02) rfl g v

@[simp] theorem execMovi_answers {g v} : Answers s (execMovi g v s) := vecOp_answers (op := 0x1C) rfl g v

@[simp] theorem execMovs_answers {g v} : Answers s (execMovs g v s) := vecOp_answers (op := 0x1D) rfl g v

@[simp] theorem execVld_answers {g v} : Answers s (execVld g v s) := vecOp_answers (op := 0x70) rfl g v

@[simp] theorem execVst_answers {g v} : Answers s (execVst g v s) := vecOp_answers (op := 0x71) rfl g v

@[simp] theorem execLdq_answers {g v} : Answers s (execLdq g v s) := vecOp_answers (op := 0x72) rfl g v

@[simp] theorem execStq_answers {g v} : Answers s (execStq g v s) := vecOp_answers (op := 0x73) rfl g v

/-! ### The step -/

/-- Every command answers so: by its own lemma where it has one above; each of the other commands, and of the other vector
instructions, is a call of operations that are steady. -/
theorem exec_answers (c : Instr) (s : State) : Answers s (exec c s) := by
  cases c
  all_goals simp only [exec]
  all_goals simp [
    execTimeLoRead, execSluicePiWrite, execAditAccess, execFullMapAccess, execPlacementAccess, execConfigRequest,
    execUnsupportedRequest, execD3hotEntry, execD0Return, execBusMasterDisable, execMsixHeldRelease, execFunctionLevelReset,
    execHotReset, execLinkDisable, execResetAssert, execFwTrialTimeout, execDlDown, execDlUp, execHoldOffExpiry,
    execLinkRetrained, execHostAccessError, execIdentify, execGroveStatus, execStackStatus, execFwStage, execFwQuery,
    execRegisterHost, execAditUnmap, execPlaceUnbind, execT3Probe, execKvClose, execKvPin, execKvUnpin, execContextCreate,
    execContextRelease, execUnloadImage, execJobCounters, execJobOpen, execPortStatus, execDrillStart, execDrillStop,
    execSluiceClose, execStats, execPowerStatus, execBistRun, execBistResult, execRetire, execUnretire, execRepairEdit,
    execTallyRead, execTallyClear, execConfigRead, execConfigDiscard, execGetVersion, execGetCapabilities,
    execNegotiateAlgorithms, execGetDigests, execGetCertificate, execChallenge, execGetMeasurements,
    execPresenceButtonPress, execServiceLChange, execShutdownBegin, execShutdownAfterSteps, execPowerApplied,
    execVinPresentLost, execInputOutOfRange, execInputInRange, execPowerStageShutdown, execFaultLatchClear, execPowerLimit,
    execThermalWarning, execThermalLimit, execMatmul, execAttnScore, execAttnApply, execKvSelect, execVec, execUpdate,
    execMove, execIslandSleep, execIslandWake, execSpareWarm, execPatrolScrubSlice, execPortLinkUp, execFlitSend,
    execFlitReceive, execRetryRequest, execPortSilence, execPortFailed, execChunkReceive, execChunkAck,
    execStagePlanPublish, execMemberFailed, execPresenceButtonRelease, execForemanFatal, execLeaveNotice, execMemberQuery,
    execFailoverExchange, execDynamicAddressAssignment, execHdr, execVloop, execVnop, execIadd, execIsub, execImul,
    execImin, execImax, execVand, execVor, execVxor, execShl, execShr, execSra, execIaddi, execLaneid, execVmov, execSmovi,
    execSadd, execSaddi, execSsub, execSmul, execSshli, execSshri, execSand, execSor, execFadd, execFsub, execFmul, execFma,
    execFmin, execFmax, execFabs, execFneg, execFsqrt, execFrcp, execFrsqrt, execFmuli, execFexp, execFexp2, execFlog,
    execFlog2, execFsin, execFcos, execFtanh, execFsig, execFerf, execFcmp, execIcmp, execUcmp, execSel, execPand, execPor,
    execPnot, execPlt, execPcnt, execCvtif, execCvtfi, execVscale, execCvtfh, execCvthf, execQblk, execDqblk, execPack,
    execUnpack, execLds, execSts, execLdx, execStx, execRsum, execRmax, execRiadd, execRimax, execScan, execShuf, execRot,
    execLane, execVins, execCtr, execCtr4, execUnif]

/-- Settles O3: what a command answers has the queue of the state that it began in. -/
theorem everyCommandAnswersNext : Obligations.EveryCommandAnswersNext := by
  refine ⟨fun c s => (exec_answers c s).imp fun _ h => h.1, fun c s t ht => ?_⟩
  obtain ⟨u, hu, h⟩ := exec_answers c s
  obtain rfl : u = t := by simpa [hu] using ht
  exact (steady_iff.1 h).1

/-- Settles O6: a step is one command, on a state with the same sets, or a tick of device time. -/
theorem stepKeepsForceBehindCommit : Obligations.StepKeepsForceBehindCommit := by
  intro s t hs ht
  cases hq : s.pending with
  | nil =>
    rw [step_of_pending_nil hq] at ht
    cases ht
    exact (steady_iff.1 (idle_steady.2 (.refl s))).2 hs
  | cons c rest =>
    rw [step_of_pending_cons hq] at ht
    obtain ⟨u, hu, h⟩ := exec_answers c { s with pending := rest }
    obtain rfl : u = t := by simpa [hu] using ht
    exact (steady_iff.1 h).2 hs

end Sys2Proof.Machine
end

section
/-!
PROOFS. The mailbox protocol (R339 to R343, R346): how SEQ is classified, what a ring and the reading of the latch begin, and how
a request that fails a check is answered.
-/

namespace Sys2Proof.Machine

/-! ### The classification of SEQ (R343) -/

/-- The class of a request whose SEQ is n after the highest executed one, modulo 2^32. -/
theorem classify_of_distance {h q : Word} {n : Nat} (hq : q = h + BitVec.ofNat 32 n) (hn : n < 2 ^ 32) :
    classify (some h) q =
      if n = 1 then .new else if n = 0 ∨ 0xFFFFFFC1 ≤ n then .window else if n ≤ 0x80000000 then .gap else .old := by
  have hd : q - h = BitVec.ofNat 32 n := by rw [hq, BitVec.add_comm, BitVec.add_sub_cancel]
  have hval : (BitVec.ofNat 32 n).toNat = n := by rw [BitVec.toNat_ofNat, Nat.mod_eq_of_lt hn]
  have heq (k : Nat) (hk : k < 2 ^ 32) : BitVec.ofNat 32 n = BitVec.ofNat 32 k ↔ n = k := by
    rw [← BitVec.toNat_inj, hval, BitVec.toNat_ofNat, Nat.mod_eq_of_lt hk]
  simp only [classify, hd, hval, heq 1 (by omega), heq 0 (by omega)]

/-- A SEQ of k before the highest executed one is 2^32 − k after it. -/
theorem sub_ofNat_eq_add {h : Word} {k : Nat} (hk : k ≤ 2 ^ 32) :
    h - BitVec.ofNat 32 k = h + BitVec.ofNat 32 ((2 ^ 32 - k) % 2 ^ 32) := by
  apply BitVec.eq_of_toNat_eq
  simp only [BitVec.toNat_sub, BitVec.toNat_add, BitVec.toNat_ofNat]
  omega

/-- Settles O10, by the distance in each class. -/
theorem sequenceClasses : Obligations.SequenceClasses := by
  refine ⟨fun _ => rfl, fun h q => ⟨fun hq => ?new, fun k hk hq => ?window, fun k hlo hhi hq => ?gap,
    fun k hlo hhi hq => ?old⟩⟩
  case new => rw [classify_of_distance (n := 1) hq (by omega), if_pos rfl]
  case window =>
    rw [sub_ofNat_eq_add (by omega)] at hq
    rw [classify_of_distance hq (by omega), if_neg (by omega), if_pos (by omega)]
  case gap => rw [classify_of_distance hq (by omega), if_neg (by omega), if_neg (by omega), if_pos (by omega)]
  case old =>
    rw [classify_of_distance hq (by omega), if_neg (by omega), if_neg (by omega), if_neg (by omega)]

/-! ### Rings and the reading of the latch (R339, R340) -/

section
variable {s : State} {m : Fin 64}

theorem exec_ring_sets_latch (h : hostReaches s = true) (hidle : (mbxAt s m).header.busy = false) :
    exec (.mbxDoorbell m .ring) s = .next { s with
      mbx := s.mbx.modify m fun b => { b with latch := true }
      regs := { s.regs with reply := .written } } := by
  rw [exec_mbxDoorbell_ring h, ringMailbox, if_neg (by simp [hidle])]
  rfl

/-- A mailbox whose latch is set exists. -/
theorem takes_lt (h : takes s m) : (m : Nat) < s.mbx.length := by
  obtain ⟨hlatch, -⟩ := h
  refine Nat.lt_of_not_le fun hle => ?_
  simp [mbxAt, at', List.getElem?_eq_none hle] at hlatch

theorem exec_take (h : takes s m) : exec (.mbxDoorbell m .take) s = .next (takeRequest s m) := by
  obtain ⟨hlatch, halive, hstage, hoff⟩ := h
  have hgo : ((mbxAt s m).latch && !s.dev.foremanDead && decide (3 ≤ s.dev.stage) && s.dev.state != .off) = true := by
    simp [hlatch, halive, hstage, hoff]
  exact congrArg _ (if_pos hgo)

/-- A request whose header is good and whose SEQ is NEW goes on to checks 3 to 5, begun. -/
theorem takeRequest_new (hheader : headerFails (mbxAt s m).request = none)
    (hnew : classify (mbxAt s m).high (requestOf s m).seq = .new) :
    takeRequest s m = checkWork (begun s m) m (requestOf s m) := by
  have hbegun : beginWork (setMbx s m fun b => { b with latch := false }) m (requestOf s m) = begun s m := by
    simp only [beginWork, setMbx, begun, List.modify_modify_eq]
    rfl
  have hnew' : classify (mbxAt s m).high (reqHeader (mbxAt s m).request).seq = .new := hnew
  simp only [takeRequest, hheader, hnew']
  exact congrArg (checkWork · m (requestOf s m)) hbegun

/-- The request begun is the one in progress. -/
theorem work_begun (h : takes s m) : (mbxAt (begun s m) m).work = some (requestOf s m) := by
  have := mbxAt_setMbx_same (f := fun b => { b with
    latch := false, high := some (requestOf s m).seq, work := some (requestOf s m),
    header := { seq := (requestOf s m).seq, busy := true, valid := b.header.valid } }) (takes_lt h)
  exact congrArg Mailbox.work this

/-- A ring while the response header shows BUSY is recorded and changes no mailbox (R339). -/
theorem exec_ring_while_busy (h : hostReaches s = true) (hbusy : (mbxAt s m).header.busy = true) :
    ∃ t, exec (.mbxDoorbell m .ring) s = .next t ∧ t.mbx = s.mbx ∧ t.regs = { s.regs with reply := .written } ∧
      t.tally = s.tally.event ⟨0x02C0, islandForeman, 1, s.time, 0, 0, m, Mem.le (mbxAt s m).request 4 4 % 2 ^ 32,
        (mbxAt s m).header.seq.toNat, 0⟩ := by
  have hm : (m : Nat) % 2 ^ 32 = m := by omega
  have hseq : (mbxAt s m).header.seq.toNat % 2 ^ 32 = (mbxAt s m).header.seq.toNat := by omega
  rw [exec_mbxDoorbell_ring h, ringMailbox, if_pos hbusy]
  refine ⟨_, rfl, rfl, rfl, ?_⟩
  simp only [tally, reply, hm, hseq, Nat.zero_mod]

/-- A CONTEXT that the header check lets pass is in the range that its command asks for. -/
theorem ctx_in_range {named : Bool} {ctx : Nat} (h : if named then ctx ≤ 4095 else ctx = 0) :
    (if named then decide (4095 < ctx) else ctx != 0) = false := by
  cases named
  · simpa using h
  · simpa using h

/-- A request that passes checks 1 to 5 stays in progress; one of class P is counted (R342, R366). -/
theorem checkWork_begun (h : passes s m) : checkWork (begun s m) m (requestOf s m) =
    if classPOpcodes.contains (requestOf s m).opcode then countClassP (begun s m) else begun s m := by
  have hallows (op states : Nat) : stateAllows (begun s m) op states = stateAllows s op states := rfl
  have hpresent : (requestOf s m).present = presenceOpen s := rfl
  unfold passes at h; dsimp only at h
  generalize requestOf s m = w at h hpresent ⊢
  obtain ⟨-, -, ⟨states, hstates, hallow⟩, hopen, hctx⟩ := h
  have hclass : (classPOpcodes.contains w.opcode && !w.present) = false := by
    cases hclass : classPOpcodes.contains w.opcode with
    | false => rfl
    | true => simp [hpresent, hopen hclass]
  simp only [checkWork, hstates, hallows, hallow, hclass, ctx_in_range hctx, Bool.not_true, Bool.false_eq_true, if_false]

end

/-- Settles O8: a ring by BUSY, and the reading of a latch through checks 1 to 5. -/
theorem ringsAndTakesBeginCommands : Obligations.RingsAndTakesBeginCommands := by
  refine ⟨fun m s h => ⟨exec_ring_sets_latch h, exec_ring_while_busy h⟩, fun m s h hpass => ?_⟩
  obtain ⟨hheader, hnew, -⟩ := id hpass
  rw [exec_take h, takeRequest_new hheader hnew, checkWork_begun hpass]
  rfl

/-! ### Requests that fail a check (R341, R346) -/

section
variable {s : State} {m : Fin 64} (h : takes s m)
include h

/-- Check 1: the answer fills the response header, and neither h, the stored responses nor the command in progress change. -/
theorem take_bad_header {o : Nat} (hheader : headerFails (mbxAt s m).request = some o) :
    ∃ t, exec (.mbxDoorbell m .take) s = .next t ∧ (mbxAt t m).header.status = St.invalidField ∧
      (mbxAt t m).header.detail = o ∧ (mbxAt t m).header.valid = true ∧ (mbxAt t m).header.busy = false ∧
      (mbxAt t m).high = (mbxAt s m).high ∧ (mbxAt t m).stored = (mbxAt s m).stored ∧
      (mbxAt t m).work = (mbxAt s m).work := by
  have hmbx (u : State) (q : ReqHeader) (hu : (m : Nat) < u.mbx.length) : mbxAt (answerOnly u m q 0 St.invalidField o) m =
      { mbxAt u m with
        header := { opcode := q.opcode, status := St.invalidField, seq := q.seq, ctx := q.ctx, valid := true, detail := o,
                    doorbell := u.time, done := u.time, length := Resp.length (refusalPayload 0 u.time) }
        payload := refusalPayload 0 u.time } := by
    refine Eq.trans ?_ (mbxAt_setMbx_same (f := fun b => { b with
      header := { opcode := q.opcode, status := St.invalidField, seq := q.seq, ctx := q.ctx, valid := true, detail := o,
                  doorbell := u.time, done := u.time, length := Resp.length (refusalPayload 0 u.time) }
      payload := refusalPayload 0 u.time }) hu)
    unfold answerOnly; dsimp only
    split <;> simp [mbxAt]
  have hlt : (m : Nat) < (setMbx s m fun b => { b with latch := false }).mbx.length := by simpa [setMbx] using takes_lt h
  refine ⟨_, exec_take h, ?_⟩
  simp only [takeRequest, hheader, hmbx _ _ hlt, mbxAt_setMbx_same (takes_lt h), and_self]

section
variable (hheader : headerFails (mbxAt s m).request = none)
  (hnew : classify (mbxAt s m).high (requestOf s m).seq = .new)
include hheader hnew

theorem take_unknown (hnone : commandStates (requestOf s m).opcode = none) : exec (.mbxDoorbell m .take) s =
    .next (finished (begun s m) m (requestOf s m) St.unknownCommand [] 0 0) := by
  have hop : (requestOf s m).opcode ≠ 0x0503 := fun hop => by simp [hop, commandStates] at hnone
  rw [exec_take h, takeRequest_new hheader hnew]
  simp only [checkWork, hnone, refuse_eq (work_begun h), refusalPayload, if_neg hop]

section
variable {states : Nat} (hstates : commandStates (requestOf s m).opcode = some states)
include hstates

theorem take_wrongState (hallow : stateAllows s (requestOf s m).opcode states = false) :
    exec (.mbxDoorbell m .take) s = .next (finished (begun s m) m (requestOf s m) St.wrongState
      (refusalPayload (requestOf s m).opcode s.time) 0 0) := by
  have hallow' : stateAllows (begun s m) (requestOf s m).opcode states = false := hallow
  rw [exec_take h, takeRequest_new hheader hnew]
  simp only [checkWork, hstates, hallow', Bool.not_false, if_true, refuse_eq (work_begun h)]
  rfl

/-- Check 5: a class P request without presence is recorded and answered (R346). -/
theorem take_without_presence (hallow : stateAllows s (requestOf s m).opcode states = true)
    (hclass : classPOpcodes.contains (requestOf s m).opcode = true) (hwindow : s.board.window = none)
    (hservice : s.board.serviceL = false) :
    ∃ t, exec (.mbxDoorbell m .take) s = .next t ∧ (mbxAt t m).header.status = St.presenceRequired ∧
      (mbxAt t m).work = none ∧ t.dev = s.dev ∧
      t.tally = s.tally.event ⟨0x02C2, islandForeman, 2, s.time, 0, 0, m, (requestOf s m).opcode % 2 ^ 32,
        (requestOf s m).seq.toNat % 2 ^ 32, 0⟩ := by
  have hallow' : stateAllows (begun s m) (requestOf s m).opcode states = true := hallow
  have hpresent : (requestOf s m).present = false := by simp [requestOf, presenceOpen, hwindow, hservice]
  have hm : (m : Nat) % 2 ^ 32 = m := by omega
  rw [exec_take h, takeRequest_new hheader hnew]
  simp only [checkWork, hstates, hallow', hclass, hpresent, Bool.not_true, Bool.not_false, Bool.and_true, Bool.false_eq_true,
    if_false, if_true, presenceRefused]
  refine ⟨_, rfl, ?_⟩
  have hwork : (mbxAt (tally (begun s m) 0x02C2 islandForeman 2 m (requestOf s m).opcode (requestOf s m).seq.toNat 0) m).work =
      some (requestOf s m) := by simpa [mbxAt] using work_begun h
  rw [refuse_eq hwork]
  obtain ⟨hstatus, hnone⟩ := mbxAt_finished (status := St.presenceRequired) (work_lt hwork)
  refine ⟨hstatus, hnone, rfl, ?_⟩
  simp only [finished, tally, hm, Nat.zero_mod]
  rfl

end

end

end

/-- Settles O9, check by check. -/
theorem takeRefusesInOrder : Obligations.TakeRefusesInOrder :=
  ⟨fun _ _ h => ⟨fun _ => take_bad_header h, fun hheader hnew =>
      ⟨take_unknown h hheader hnew, fun _ => take_wrongState h hheader hnew⟩⟩,
    fun _ _ _ h hheader hnew hstates => take_without_presence h hheader hnew hstates⟩

end Sys2Proof.Machine
end

section
/-!
PROOFS. TALLY_READ and TALLY_CLEAR (R389), the firmware commands (R361, R363), and ENTER_STATE (R371, R372): each ends in the
state that its checks lead to.
-/

namespace Sys2Proof.Machine

/-! ### The Tally (R389) -/

/-- The largest FIRST of an area. -/
def lastFirst : Nat → Nat
  | 0 => 1023
  | 1 => 65535
  | _ => 511

section
variable {m : Fin 64} {s : State} {w : Work}

theorem exec_tallyRead (q : TallyReq) (h : workOf s m 0x0B01 = some w) : exec (.tallyRead m (.fields q)) s = .next (
    if 2 < q.area then refuse s m St.invalidField (Config.payloadByte 0x0B01 0)
    else if lastFirst q.area < q.first then refuse s m St.invalidField (Config.payloadByte 0x0B01 1)
    else if q.count = 0 ∨ 124 < q.count then refuse s m St.invalidField (Config.payloadByte 0x0B01 2)
    else respond s m St.ok (((areaFrom s q.area q.first).take q.count).map fun r => (256, TallyRec.pack r)) 0 0) :=
  congrArg _ (command_fields h q _)

/-- A request for records in range is answered with up to COUNT records of its area, from FIRST on. -/
theorem exec_tallyRead_answers (q : TallyReq) (h : workOf s m 0x0B01 = some w) (harea : q.area ≤ 2) (hlo : 1 ≤ q.count)
    (hhi : q.count ≤ 124) (hfirst : q.first ≤ lastFirst q.area) :
    exec (.tallyRead m (.fields q)) s = .next (finished s m w St.ok
      (((areaFrom s q.area q.first).take q.count).map fun r => (256, TallyRec.pack r)) 0 0) := by
  rw [exec_tallyRead q h, if_neg (by omega), if_neg (by omega), if_neg (by omega), respond_of_workOf h]

theorem exec_tallyRead_refused {q : TallyReq} (h : workOf s m 0x0B01 = some w)
    (hbad : 2 < q.area ∨ (q.area = 0 ∧ 1023 < q.first) ∨ (q.area = 1 ∧ 65535 < q.first) ∨
      (q.area = 2 ∧ 511 < q.first) ∨ q.count = 0 ∨ 124 < q.count) :
    ∃ k, exec (.tallyRead m (.fields q)) s = .next (finished s m w St.invalidField [] (Config.payloadByte 0x0B01 k) 0) := by
  have hrange : 2 < q.area ∨ lastFirst q.area < q.first ∨ q.count = 0 ∨ 124 < q.count := by
    obtain h | ⟨h, hfirst⟩ | ⟨h, hfirst⟩ | ⟨h, hfirst⟩ | h := hbad
    · exact .inl h
    · exact .inr (.inl (h ▸ hfirst))
    · exact .inr (.inl (h ▸ hfirst))
    · exact .inr (.inl (h ▸ hfirst))
    · exact .inr (.inr h)
  simp only [exec_tallyRead q h, refuse_of_workOf h (by decide)]
  split
  · exact ⟨0, rfl⟩
  · split
    · exact ⟨1, rfl⟩
    · rw [if_pos (by omega)]
      exact ⟨2, rfl⟩

/-- A TALLY_CLEARED record, which never merges, becomes record 0 of the empty area. -/
theorem exec_tallyClear (h : workOf s m 0x0B02 = some w) (hl : w.length = 0) : exec (.tallyClear m) s = .next (finished
    { s with
      tally := s.tally.event ⟨0x02E7, islandForeman, 3, s.time, 0, 0, s.flash.lifetime.length % 2 ^ 32, 0, 0, 0⟩
      flash := { s.flash with lifetime :=
        [⟨0x02E7, islandForeman, 3, s.time, 0, s.flash.powerOn % 65536, s.flash.lifetime.length % 2 ^ 32, 0, 0, 0⟩] } }
    m w St.ok [(32, s.flash.lifetime.length)] 0 0) := by
  have hmerges (r : TallyRec) (hr : r.code = 0x02E7) : s.tally.merges r = false := by
    unfold Tally.merges; split <;> simp [hr]
  refine commandBare_changes h ?_ hl (congrArg (respond · m St.ok [(32, s.flash.lifetime.length)] 0 0) ?_)
  · rfl
  · simp [tally, hmerges]

end

/-- Settles O13, command by command. -/
theorem tallyAreasReadAndClear : Obligations.TallyAreasReadAndClear :=
  fun _ _ _ => ⟨fun first n h hlo hhi => ⟨exec_tallyRead_answers ⟨0, first, n⟩ h (Nat.zero_le 2) hlo hhi,
      exec_tallyRead_answers ⟨1, first, n⟩ h (Nat.le_succ 1) hlo hhi,
      exec_tallyRead_answers ⟨2, first, n⟩ h (Nat.le_refl 2) hlo hhi⟩,
    fun _ h => exec_tallyRead_refused h, exec_tallyClear⟩

/-! ### Firmware slots (R363) -/

/-- The entries of a memory below an address read as the memory does there, and as zero from it on. -/
theorem Mem.get_filter_lt {m : Mem} {lo : Nat} (n i : Nat) (h : Mem.wfFrom lo m = true) :
    Mem.get (m.filter fun c => c.1 < n) i = if i < n then Mem.get m i else 0 := by
  induction m generalizing lo with
  | nil => simp [Mem.get]
  | cons x m ih =>
    obtain ⟨a, b⟩ := x
    simp only [Mem.wfFrom, Bool.and_eq_true, decide_eq_true_eq] at h
    obtain ⟨-, hrest⟩ := h
    by_cases ha : a < n
    · rw [List.filter_cons_of_pos (by simpa using ha)]
      simp only [Mem.get, ih hrest]
      grind
    · rw [List.filter_cons_of_neg (by simpa using ha), ih hrest]
      split
      · rw [Mem.get_below hrest (by omega), Mem.get, if_neg (by omega), if_pos (by omega)]
      · rfl

/-- An image kept is what the staging buffer holds of its header and body. -/
theorem Mem.get_slice_start {m : Mem} (n i : Nat) (h : Mem.wf m = true) :
    Mem.get (Mem.slice m 0 n 0) i = if i < n then Mem.get m i else 0 := by
  rw [← Mem.get_filter_lt n i h]
  simp [Mem.slice]

theorem setSlot_setSlot {s : State} {k : Nat} {f g : FwSlot → FwSlot} :
    setSlot (setSlot s k f) k g = setSlot s k fun x => g (f x) := by
  simp only [setSlot, List.modify_modify_eq]
  rfl

/-- A command that its own checks refuse in a changed state. -/
theorem command_refuses_changed {s t : State} {m op : Nat} {w : Work} (h : workOf s m op = some w) (ht : t.mbx = s.mbx)
    (hop : op ≠ 0x0503) {α : Type} {x : α} {go : Work → α → State} {status d : Nat}
    (hgo : go w x = refuse t m status d) :
    done (command s m op (.fields x) go) = .next (finished t m w status [] d 0) := by
  rw [done, command_fields h, hgo, refuse_of_mbx_eq h ht hop]

section
variable {m : Fin 64} {s : State} {w : Work}

section
variable {x : FwPiece} (h : workOf s m 0x0201 = some w) (hlo : 1 ≤ x.bytes.length) (hhi : x.bytes.length ≤ 4000)
  (hfit : x.offset + x.bytes.length ≤ 2 ^ 25)
include h hlo hhi hfit

/-- A piece goes to its offset of the buffer that the mailbox owns, or of an empty one that it takes. -/
theorem exec_fwStage_stages (hown : x.offset = 0 ∨ s.mem.fwOwner = some (m : Nat)) :
    exec (.fwStage m (.fields x)) s = .next (finished
      { s with mem := { s.mem with
          fwOwner := some m, fwBuffer := Mem.store (if x.offset = 0 then [] else s.mem.fwBuffer) x.offset x.bytes } }
      m w St.ok [(32, x.bytes.length)] 0 0) := by
  refine command_changes h ?_ ((if_neg (by omega)).trans (if_neg ?_))
  · rfl
  · rintro ⟨hoffset, howner⟩
    exact hown.elim hoffset howner

theorem exec_fwStage_other_owner (hoffset : x.offset ≠ 0) (howner : s.mem.fwOwner ≠ some (m : Nat)) :
    exec (.fwStage m (.fields x)) s = .next (finished s m w St.wrongState [] 0 0) :=
  command_refuses h (by decide) ((if_neg (by omega)).trans (if_pos ⟨hoffset, howner⟩))

end

section
variable {k : Nat} (h : workOf s m 0x0202 = some w) (hk : k ≤ 1) (howner : s.mem.fwOwner = some (m : Nat))
  (hslot : (fwSlot s k).state ≠ .active)
include h hk howner hslot

theorem exec_fwInstall_keeps (hpass : fwVerify s.flash.minSecurity s.flash.revoked s.mem.fwBuffer = none) :
    let kept := Mem.slice s.mem.fwBuffer 0 (4096 + fwBody s.mem.fwBuffer) 0
    exec (.fwInstall m (.fields k)) s = .next (finished
      (setSlot s k fun _ => ⟨.valid, kept⟩) m w St.ok [(256, (fwDigestOf kept).toNat)] 0 0) := by
  have hpass' : fwVerify (setSlot s k fun x => { x with state := .empty }).flash.minSecurity
      (setSlot s k fun x => { x with state := .empty }).flash.revoked s.mem.fwBuffer = none := hpass
  refine command_changes h ?_ ((if_neg (by omega)).trans ((if_neg (not_not.2 howner)).trans ((if_neg hslot).trans ?_)))
  · rfl
  · simp only [hpass', setSlot_setSlot]

theorem exec_fwInstall_rejects {step : Nat}
    (hfail : fwVerify s.flash.minSecurity s.flash.revoked s.mem.fwBuffer = some step) :
    exec (.fwInstall m (.fields k)) s = .next (finished
      (rejected (setSlot s k fun x => { x with state := .empty }) step s.mem.fwBuffer 1) m w St.imageRejected [] step 0) := by
  have hfail' : fwVerify (setSlot s k fun x => { x with state := .empty }).flash.minSecurity
      (setSlot s k fun x => { x with state := .empty }).flash.revoked s.mem.fwBuffer = some step := hfail
  refine command_refuses_changed h ?_ (by decide)
    ((if_neg (by omega)).trans ((if_neg (not_not.2 howner)).trans ((if_neg hslot).trans ?_)))
  · rfl
  · simp only [hfail']

end

/-- `s` whose slot other than k is no longer the trial (R363). -/
def clearOtherTrial (s : State) (k : Nat) : State :=
  setSlot s (1 - k) fun x => if x.state = .trial then { x with state := .valid } else x

@[simp] theorem setSlot_mbx (s : State) (k : Nat) (f : FwSlot → FwSlot) : (setSlot s k f).mbx = s.mbx := rfl

@[simp] theorem clearOtherTrial_mbx (s : State) (k : Nat) : (clearOtherTrial s k).mbx = s.mbx := rfl

theorem rejected_mbx (s : State) (step : Nat) (img : Mem) (v : Nat) : (rejected s step img v).mbx = s.mbx := rfl

theorem activate_of_pass {s : State} {m : Fin 64} {k : Nat} {clear : State → State}
    (hpass : fwVerify s.flash.minSecurity s.flash.revoked (fwSlot s k).image = none) :
    execFwActivate.activate m s k clear = respond (setSlot (clear s) k fun x => { x with state := .trial }) m St.ok [] 0 0 := by
  unfold execFwActivate.activate
  rw [hpass]

theorem activate_of_fail {s : State} {m : Fin 64} {k step : Nat} {clear : State → State}
    (hfail : fwVerify s.flash.minSecurity s.flash.revoked (fwSlot s k).image = some step) :
    execFwActivate.activate m s k clear = refuse (rejected s step (fwSlot s k).image 2) m St.imageRejected step := by
  unfold execFwActivate.activate
  rw [hfail]

section
variable {k : Nat} (h : workOf s m 0x0203 = some w) (hk : k ≤ 1)
include h hk

theorem exec_fwActivate_active (hslot : (fwSlot s k).state = .active) :
    exec (.fwActivate m (.fields k)) s = .next (finished (clearOtherTrial s k) m w St.ok [] 0 0) := by
  refine command_changes h ?_ ((if_neg (by omega)).trans ?_)
  · rfl
  · simp only [hslot]; rfl

theorem exec_fwActivate_verifies (hslot : (fwSlot s k).state = .valid ∨ (fwSlot s k).state = .failed) :
    exec (.fwActivate m (.fields k)) s = .next (execFwActivate.activate m s k (clearOtherTrial · k)) := by
  refine congrArg _ ((command_fields h k _).trans ((if_neg (by omega)).trans ?_))
  obtain hslot | hslot := hslot
  · simp only [hslot]; rfl
  · simp only [hslot]; rfl

theorem exec_fwActivate_trial (hslot : (fwSlot s k).state = .valid ∨ (fwSlot s k).state = .failed)
    (hpass : fwVerify s.flash.minSecurity s.flash.revoked (fwSlot s k).image = none) :
    exec (.fwActivate m (.fields k)) s = .next (finished
      (setSlot (clearOtherTrial s k) k fun x => { x with state := .trial }) m w St.ok [] 0 0) := by
  rw [exec_fwActivate_verifies h hk hslot, activate_of_pass hpass, respond_of_mbx_eq h (by simp)]

theorem exec_fwActivate_rejects (hslot : (fwSlot s k).state = .valid ∨ (fwSlot s k).state = .failed) {step : Nat}
    (hfail : fwVerify s.flash.minSecurity s.flash.revoked (fwSlot s k).image = some step) :
    exec (.fwActivate m (.fields k)) s = .next (finished
      (rejected s step (fwSlot s k).image 2) m w St.imageRejected [] step 0) := by
  rw [exec_fwActivate_verifies h hk hslot, activate_of_fail hfail, refuse_of_mbx_eq h (rejected_mbx ..) (by decide)]

end

end

/-- Settles O24, command by command; what an installed slot holds is a slice of the staging buffer. -/
theorem firmwareStagesInstallsActivates : Obligations.FirmwareStagesInstallsActivates := by
  refine fun m s w => ⟨fun x h hlo hhi hfit => ⟨fun hoffset => ?first, fun hoffset howner => ?next,
      exec_fwStage_other_owner h hlo hhi hfit⟩,
    fun k h hk howner hslot => ⟨fun hpass hbuffer => ⟨_, exec_fwInstall_keeps h hk howner hslot hpass, fun a =>
      Mem.get_slice_start _ a hbuffer⟩, fun _ => exec_fwInstall_rejects h hk howner hslot⟩,
    fun k h hk => ⟨exec_fwActivate_active h hk,
      fun hslot => ⟨exec_fwActivate_trial h hk hslot, fun _ => exec_fwActivate_rejects h hk hslot⟩⟩⟩
  case first => simpa [hoffset] using exec_fwStage_stages h hlo hhi hfit (.inl hoffset)
  case next =>
    rw [exec_fwStage_stages h hlo hhi hfit (.inr howner), if_neg hoffset, ← howner]

/-! ### ENTER_STATE (R371, R372) -/

/-- A promotion changes the slots, the security data and the trial's mark, and is recorded (R363). -/
theorem promote_eq (s : State) :
    ∃ tally flash trial, promote s = { s with tally, flash, dev := { s.dev with trial } } := by
  unfold promote
  split
  · exact ⟨_, _, _, rfl⟩
  · exact ⟨_, _, _, rfl⟩

/-- A change of state by command is answered with the new state; a class P request keeps its count. -/
theorem changeState_eq {s : State} {m : Nat} {w : Work} (h : (mbxAt s m).work = some w) (dst : DevState) :
    ∃ t, changeState s m dst = finished t m w St.ok [(32, dst.code)] 0 0 ∧ t.mbx = s.mbx ∧ t.dev.state = dst ∧
      t.mem.epoch = s.mem.epoch + 1 ∧ t.dev.classP = s.dev.classP := by
  unfold changeState
  obtain ⟨_, _, _, heq⟩ := promote_eq
    { s with dev := { s.dev with state := dst }, mem := { s.mem with epoch := s.mem.epoch + 1 } }
  dsimp only
  split
  · rw [heq]
    exact ⟨_, respond_eq (by exact h) .., rfl, rfl, rfl, rfl⟩
  · exact ⟨_, respond_eq (by exact h) .., rfl, rfl, rfl, rfl⟩

theorem mbxAt_finished_payload {s : State} {m : Nat} {w : Work} {status d e : Nat} {p : Resp} (h : m < s.mbx.length) :
    (mbxAt (finished s m w status p d e) m).payload = p := by
  simp [mbxAt, finished_mbx, at', h]

/-- Whether ENTER_STATE asks for the recovery monitor from SERVICE, which needs presence (R372). -/
def asksRecovery (s : State) (dst : DevState) : Bool := s.dev.state == .service && dst == .recovery

section
variable {m : Fin 64} {s : State} {w : Work} {code : Nat} {dst : DevState} (h : workOf s m 0x0104 = some w)
  (hcode : targetState code = some dst) (hasked : s.dev.shutAsked = false) (htarget : s.dev.target = none)
include h hcode hasked htarget

/-- What ENTER_STATE does with a valid target once any presence it needs is there. -/
theorem exec_enterState (hoff : s.dev.state ≠ .off) (hhalt : s.dev.state ≠ .halt)
    (hpresent : asksRecovery s dst = true → w.present = true) : exec (.enterState m (.fields code)) s = .next (
      let t := if asksRecovery s dst then countClassP s else s
      if dst = .off then askShutdown t (some m)
      else if s.dev.state = .start then { t with dev := { t.dev with target := some dst } }
      else if s.dev.monitor = true ∧ dst = .service then refuse t m St.wrongState 0
      else if dst = s.dev.state then refuse t m St.wrongState 0
      else if s.dev.state = .service ∧ (busy t || t.jobs.any fun j => j.joined) = true then refuse t m St.contextBusy 0
      else changeState t m dst) := by
  refine congrArg _ ((command_fields h code _).trans ?_)
  simp only [hcode]
  rw [if_neg (by simp [hoff, hhalt]), enterTarget, if_neg (by simpa [asksRecovery] using hpresent)]
  unfold asksRecovery
  split <;> simp [countClassP, hasked, htarget]

theorem exec_enterState_changes (hserved : s.dev.state.served = true) (hoff : dst ≠ .off) (hother : dst ≠ s.dev.state)
    (hmonitor : ¬ (s.dev.monitor = true ∧ dst = .service))
    (hidle : s.dev.state = .service → busy s = false ∧ ∀ j ∈ s.jobs, j.joined = false)
    (hpresent : asksRecovery s dst = true → w.present = true) :
    exec (.enterState m (.fields code)) s =
      .next (changeState (if asksRecovery s dst then countClassP s else s) m dst) := by
  have hstart : s.dev.state ≠ .start := by rintro hs; simp [hs, DevState.served] at hserved
  have hbusy : ¬ (s.dev.state = .service ∧ (busy s || s.jobs.any fun j => j.joined) = true) := by
    rintro ⟨hservice, hbusy⟩
    obtain ⟨hnot, hjobs⟩ := hidle hservice
    simp only [hnot, Bool.false_or, List.any_eq_true] at hbusy
    obtain ⟨j, hj, hjoined⟩ := hbusy
    simp [hjobs j hj] at hjoined
  rw [exec_enterState h hcode hasked htarget (by rintro hs; simp [hs, DevState.served] at hserved)
    (by rintro hs; simp [hs, DevState.served] at hserved) hpresent]
  dsimp only
  rw [if_neg hoff, if_neg hstart, if_neg hmonitor, if_neg hother, if_neg]
  split
  · exact hbusy
  · exact hbusy

theorem exec_enterState_present (hserved : s.dev.state.served = true) (hsame : dst = s.dev.state) :
    exec (.enterState m (.fields code)) s = .next (finished s m w St.wrongState [] 0 0) := by
  subst hsame
  have hrecovery : asksRecovery s s.dev.state = false := by
    cases hs : s.dev.state <;> simp [asksRecovery, hs]
  rw [exec_enterState h hcode hasked htarget (by rintro hs; simp [hs, DevState.served] at hserved)
    (by rintro hs; simp [hs, DevState.served] at hserved) (by simp [hrecovery])]
  simp only [hrecovery, Bool.false_eq_true, if_false, if_true, ← refuse_of_workOf h (by decide)]
  rw [if_neg (by rintro hs; simp [hs, DevState.served] at hserved),
    if_neg (by rintro hs; simp [hs, DevState.served] at hserved), ite_self]

end

/-- Settles O25: clause by clause, the branch of ENTER_STATE that its hypotheses choose. -/
theorem enterStateChangesState : Obligations.EnterStateChangesState := by
  intro m s w code dst h hcode hasked htarget
  refine ⟨fun hserved hoff hother hmonitor hidle hpresent => ?_, fun hstart hoff => ?_, fun hdst hoff hhalt => ?_,
    exec_enterState_present h hcode hasked htarget⟩
  · obtain ⟨hw, -⟩ := workOf_some h
    have hcounted : (mbxAt (if asksRecovery s dst then countClassP s else s) m).work = some w := by split <;> exact hw
    obtain ⟨t, heq, hmbx, hstate, hepoch, hclassP⟩ := changeState_eq hcounted dst
    have hlt : m < t.mbx.length := hmbx ▸ work_lt hcounted
    refine ⟨_, exec_enterState_changes h hcode hasked htarget hserved hoff hother hmonitor hidle (by
      simpa [asksRecovery] using hpresent), ?_⟩
    rw [heq]
    refine ⟨hstate, (mbxAt_finished hlt).1, mbxAt_finished_payload hlt, hepoch.trans ?_, hclassP.trans ?_⟩
    · split <;> rfl
    · cases hrecovery : asksRecovery s dst <;> simp_all [asksRecovery, countClassP]
  · rw [exec_enterState h hcode hasked htarget (by simp [hstart]) (by simp [hstart]) (by simp [asksRecovery, hstart])]
    simp [asksRecovery, hstart, hoff]
  · rw [exec_enterState h hcode hasked htarget hoff hhalt (by simp [asksRecovery, hdst])]
    simp [asksRecovery, hdst, askShutdown, hasked]

end Sys2Proof.Machine
end

section
/-!
PROOFS. The configuration space and MSI-X (R315 to R319), the presence window (R368), and the limits of power and
temperature (R403, R406).
-/

namespace Sys2Proof.Machine

/-! ### Held messages (R319) -/

/-- Whether a vector has a pending message that nothing holds. -/
def Link.due (l : Link) (v : Nat) : Bool := at' l.pendingBits v false && !l.holds v

/-- Sends the message of a vector that is due. -/
def Link.release (l : Link) (v : Nat) : Link :=
  if l.due v then { l with pendingBits := l.pendingBits.set v false, sent := l.sent ++ [v] } else l

theorem at'_set_false (l : List Bool) (i k : Nat) : at' (l.set i false) k false = (at' l k false && decide (i ≠ k)) := by
  simp only [at', List.getElem?_set]
  split
  · split <;> simp_all
  · simp_all

namespace Link

@[simp] theorem release_holds (l : Link) (v u : Nat) : (l.release v).holds u = l.holds u := by
  unfold release; split <;> rfl

theorem release_pending (l : Link) (v u : Nat) :
    at' (l.release v).pendingBits u false = (at' l.pendingBits u false && (l.holds u || decide (v ≠ u))) := by
  unfold release
  split
  case isTrue hdue =>
    simp only [due, Bool.and_eq_true, Bool.not_eq_true'] at hdue
    rw [at'_set_false]
    by_cases hu : v = u
    · subst hu; simp [hdue.2]
    · simp [hu]
  case isFalse hdue =>
    by_cases hu : v = u
    · subst hu; simpa [due] using hdue
    · simp [hu]

theorem release_due (l : Link) {v u : Nat} (h : v ≠ u) : (l.release v).due u = l.due u := by
  simp [due, release_pending, h]

theorem foldl_release_sent (l : Link) {vs : List Nat} (h : vs.Nodup) :
    (vs.foldl release l).sent = l.sent ++ vs.filter l.due := by
  induction vs generalizing l with
  | nil => simp
  | cons v vs ih =>
    obtain ⟨hv, hvs⟩ := List.nodup_cons.1 h
    have hdue : vs.filter (l.release v).due = vs.filter l.due :=
      List.filter_congr fun u hu => release_due l fun huv => hv (huv ▸ hu)
    rw [List.foldl_cons, ih _ hvs, hdue, List.filter_cons, release]
    split <;> simp

theorem foldl_release_pending (l : Link) (vs : List Nat) (u : Nat) :
    at' (vs.foldl release l).pendingBits u false = (at' l.pendingBits u false && (l.holds u || decide (u ∉ vs))) := by
  induction vs generalizing l with
  | nil => simp
  | cons v vs ih =>
    rw [List.foldl_cons, ih, release_holds, release_pending, Bool.and_assoc, ← Bool.or_and_distrib_left]
    simp [eq_comm]

/-- Sending changes what is sent and what is pending, and nothing else of the link. -/
theorem foldl_release_rest (l : Link) (vs : List Nat) :
    ∃ sent pendingBits, vs.foldl release l = { l with sent, pendingBits } := by
  induction vs generalizing l with
  | nil => exact ⟨l.sent, l.pendingBits, rfl⟩
  | cons v vs ih =>
    obtain ⟨sent, bits, heq⟩ := ih (l.release v)
    refine ⟨sent, bits, heq.trans ?_⟩
    unfold release
    split <;> rfl

end Link

theorem releaseHeld_eq (s : State) : releaseHeld s = { s with link := (List.range 64).foldl Link.release s.link } := by
  unfold releaseHeld
  generalize List.range 64 = vs
  induction vs generalizing s with
  | nil => rfl
  | cons v vs ih =>
    rw [List.foldl_cons, List.foldl_cons, ih, Link.release, Link.due]
    split <;> rfl

/-- What releasing held messages does: each vector that is due sends one, in order, and nothing else changes. -/
theorem releaseHeld_releases (s : State) :
    (releaseHeld s).link.sent = s.link.sent ++ (List.range 64).filter s.link.due ∧
    (∀ v, v < 64 → at' (releaseHeld s).link.pendingBits v false = (at' s.link.pendingBits v false && s.link.holds v)) ∧
    releaseHeld s = { s with link := { s.link with
      sent := (releaseHeld s).link.sent, pendingBits := (releaseHeld s).link.pendingBits } } := by
  rw [releaseHeld_eq]
  refine ⟨Link.foldl_release_sent s.link List.nodup_range, fun v hv => ?_, ?_⟩
  · simp [Link.foldl_release_pending, hv]
  · obtain ⟨_, _, heq⟩ := Link.foldl_release_rest s.link (List.range 64)
    rw [heq]

/-! ### Configuration space (R315 to R317, R332, R374) -/

theorem exec_d0Return (s : State) : exec .d0Return s = .next (if s.link.up && s.dev.state != .off
    then releaseHeld { s with link := { s.link with d3hot := false } } else s) := rfl

theorem exec_msixHeldRelease (s : State) (e : HoldEnd) : exec (.msixHeldRelease e) s = .next (
    if s.link.up && s.dev.state != .off then releaseHeld (endHold s e) else s) := rfl

section
variable {s : State} (hup : s.link.up = true) (hoff : s.dev.state ≠ .off)
include hup hoff

theorem exec_configRequest_retries (hstage : s.dev.stage < 2) (q : CfgRequest) :
    exec (.configRequest q) s = .next (reply s .retry) :=
  congrArg _ ((if_neg (by simp [hup, hoff])).trans (if_pos hstage))

theorem exec_doeDiscovery_retries (hstage : s.dev.stage < 2) (i : Nat) :
    exec (.doeDiscovery i) s = .next (reply s .retry) :=
  congrArg _ ((if_neg (by simp [hup, hoff])).trans (if_pos hstage))

theorem exec_configRequest_acts (hstage : 2 ≤ s.dev.stage) (q : CfgRequest) :
    exec (.configRequest q) s = .next (configDo s q) :=
  congrArg _ ((if_neg (by simp [hup, hoff])).trans (if_neg (by omega)))

/-- The answer to index 0 or 1 names Discovery or CMA/SPDM. -/
theorem exec_doeDiscovery_lists (hstage : 2 ≤ s.dev.stage) :
    exec (.doeDiscovery 0) s = .next (reply s (.data [1, 0, 0, 1])) ∧
    exec (.doeDiscovery 1) s = .next (reply s (.data [1, 0, 1, 0])) := by
  have hready : ¬ (!s.link.up || decide (s.dev.state = .off)) = true := by simp [hup, hoff]
  have hnow : ¬ s.dev.stage < 2 := by omega
  exact ⟨congrArg _ ((if_neg hready).trans ((if_neg hnow).trans rfl)),
    congrArg _ ((if_neg hready).trans ((if_neg hnow).trans rfl))⟩

end

/-- Settles O29: each request by its branch, and the release of held messages by induction over the vectors. -/
theorem configurationSpaceActs : Obligations.ConfigurationSpaceActs := by
  refine ⟨fun s hup hoff => ⟨rfl, fun hstage q i =>
      ⟨exec_configRequest_retries hup hoff hstage q, exec_doeDiscovery_retries hup hoff hstage i⟩,
      fun hstage => ?_, ?_, fun e => ?_⟩,
    releaseHeld_releases⟩
  all_goals have hlive : (s.link.up && s.dev.state != .off) = true := by simp [hup, hoff]
  · obtain ⟨hdoe0, hdoe1⟩ := exec_doeDiscovery_lists hup hoff hstage
    have hacts := exec_configRequest_acts hup hoff hstage
    have hready : (s.link.up && s.dev.state != .off && decide (2 ≤ s.dev.stage)) = true := by simp [hlive, hstage]
    refine ⟨hacts _, (hacts _).trans ?_, hacts _, fun on => hacts _, fun e f => hacts _, congrArg _ (if_pos hready),
      congrArg _ (if_pos hready), hdoe0, hdoe1⟩
    cases haer : s.link.aer <;> simp [configDo, reply, haer, bit]
  · rw [exec_d0Return, if_pos hlive]
  · rw [exec_msixHeldRelease, if_pos hlive]

/-! ### The presence window (R368) -/

section
variable {s : State} {ns : Nat}

/-- A press that is recognised opens the window, or starts its 30 s again. -/
theorem exec_presenceButtonPress (hoff : s.dev.state ≠ .off) (hheld : 100000000 ≤ ns) (harmed : s.board.armed = true) :
    exec (.presenceButtonPress ns) s = .next (
      let u := { s with board := { s.board with armed := false, window := some (s.time + 30000000000) } }
      if s.board.window.isNone then presenceEvent (tally u 0x02D4 islandForeman 1 1 0 0 0) else u) := by
  have hseen : ¬ (!deviceRuns s || !s.board.armed || decide (ns < 100000000)) = true := by
    simp [deviceRuns, hoff, harmed, hheld]
  exact congrArg _ (if_neg hseen)

theorem exec_presenceButtonPress_ignored (h : ns < 100000000 ∨ s.board.armed = false) :
    exec (.presenceButtonPress ns) s = .next s := by
  have hunseen : (!deviceRuns s || !s.board.armed || decide (ns < 100000000)) = true := by
    obtain h | h := h <;> simp [h]
  exact congrArg _ (if_pos hunseen)

theorem exec_presenceWindowExpiry {at_ : Nat} (h : s.board.window = some at_) :
    exec .presenceWindowExpiry s = .next (if at_ ≤ s.time && deviceRuns s
      then presenceEvent { s with board := { s.board with window := none } } else s) := by
  show execPresenceWindowExpiry s = _
  unfold execPresenceWindowExpiry
  rw [h]
  rfl

theorem exec_serviceLChange {held : Bool} (hoff : s.dev.state ≠ .off) (h : held ≠ s.board.serviceL) :
    exec (.serviceLChange held) s = .next (presenceEvent
      (tally { s with board := { s.board with serviceL := held } } 0x02D4 islandForeman 1 (if held then 2 else 3) 0 0 0)) := by
  have hruns : deviceRuns { s with board := { s.board with serviceL := held } } = true := by simp [deviceRuns, hoff]
  exact congrArg _ ((if_neg h).trans (if_pos hruns))

end

/-- Settles O34, event by event. -/
theorem presenceOpensAndCloses : Obligations.PresenceOpensAndCloses := by
  refine fun s ns hoff => ⟨fun hheld harmed => ⟨fun hclosed => ?_, fun hopen => ?_⟩, exec_presenceButtonPress_ignored,
    fun hheld => congrArg _ (if_neg (by omega)), fun hshort => congrArg _ (if_pos hshort),
    fun at_ hopen => ⟨fun hdue => ?_, fun hlater => ?_⟩, fun held hheld => exec_serviceLChange hoff hheld⟩
  · rw [exec_presenceButtonPress hoff hheld harmed]
    exact congrArg _ (if_pos (by simp [hclosed]))
  · rw [exec_presenceButtonPress hoff hheld harmed]
    exact congrArg _ (if_neg (by simpa using hopen))
  · rw [exec_presenceWindowExpiry hopen, if_pos (by simp [hdue, deviceRuns, hoff])]
  · rw [exec_presenceWindowExpiry hopen, if_neg (by simp; omega)]

/-! ### Power and temperature (R403, R406) -/

/-- A sensor's value is kept on the board alone, and apart from the power stage. -/
theorem setSensor_eq (s : State) (x : Sensor) (c : Nat) :
    ∃ board, setSensor s x c = { s with board } ∧ board.pwrGood = s.board.pwrGood ∧ board.vinMv = s.board.vinMv := by
  cases x <;> exact ⟨_, rfl, rfl, rfl⟩

@[simp] theorem setSensor_dev (s : State) (x : Sensor) (c : Nat) : (setSensor s x c).dev = s.dev := by cases x <;> rfl

theorem exec_thermalLimit (s : State) (x : Sensor) (c : Nat) : exec (.thermalLimit x c) s = .next (
    if (thresholds x).2.1 ≤ c then fatal (setSensor s x c) 0x02F3 islandModule x.code x.index c 0
    else setSensor s x c) := rfl

/-- A measured power is kept as the power over a second or over 20 ms. -/
def keepWatts (s : State) (second : Bool) (w : Nat) : State :=
  if second then { s with board := { s.board with watts1s := w } } else { s with board := { s.board with watts20ms := w } }

@[simp] theorem keepWatts_dev (s : State) (second : Bool) (w : Nat) : (keepWatts s second w).dev = s.dev := by
  cases second <;> rfl

theorem exec_powerLimit {s : State} (hgood : s.board.pwrGood = true) (second : Bool) (w : Nat) :
    exec (.powerLimit second w) s = .next (if w ≤ (if second then 3150 else 3450) then keepWatts s second w
      else fatal (keepWatts s second w) 0x02F4 islandModule (if second then 2 else 1) w 0 0) :=
  congrArg _ (if_neg (by simp [hgood]))

theorem exec_powerLimit_keeps {s : State} (hgood : s.board.pwrGood = true) {second : Bool} {w : Nat}
    (h : w ≤ if second then 3150 else 3450) : exec (.powerLimit second w) s = .next (keepWatts s second w) := by
  rw [exec_powerLimit hgood, if_pos h]

section
variable {s : State} (hoff : s.dev.state ≠ .off)
include hoff

theorem exec_thermalWarning (x : Sensor) (c : Nat) : exec (.thermalWarning x c) s = .next (
    if sensorValue s.board x < (thresholds x).1 ∧ (thresholds x).1 ≤ c
    then tally (setSensor s x c) 0x02F2 islandModule 2 x.code x.index c 0 else setSensor s x c) := by
  refine congrArg _ (if_congr ?_ rfl rfl)
  simp [deviceRuns, hoff]

theorem exec_thermalLimit_fatal (hhalt : s.dev.state ≠ .halt) {x : Sensor} {c : Nat} (h : (thresholds x).2.1 ≤ c) :
    ∃ t, exec (.thermalLimit x c) s = .next t ∧ t.dev.state = .halt ∧ t.dev.lastFatal = 0x02F3 ∧ t.sched.queue = [] := by
  obtain ⟨hstate, hlast, -, hqueue⟩ := fatalWith_halts (answer := true) (severity := 4) (s := setSensor s x c)
    (code := 0x02F3) (source := islandModule) (p := x.code) (q := x.index) (u := c) (v := 0) (by simpa) (by simpa)
  rw [exec_thermalLimit, if_pos h]
  exact ⟨_, rfl, hstate, hlast, hqueue⟩

theorem exec_powerLimit_fatal (hgood : s.board.pwrGood = true) (hhalt : s.dev.state ≠ .halt) {second : Bool} {w : Nat}
    (h : (if second then 3150 else 3450) < w) :
    ∃ t, exec (.powerLimit second w) s = .next t ∧ t.dev.state = .halt ∧ t.dev.lastFatal = 0x02F4 := by
  obtain ⟨hstate, hlast, -⟩ := fatalWith_halts (answer := true) (severity := 4) (s := keepWatts s second w) (code := 0x02F4)
    (source := islandModule) (p := if second then 2 else 1) (q := w) (u := 0) (v := 0) (by simpa) (by simpa)
  rw [exec_powerLimit hgood, if_neg (Nat.not_le.2 h)]
  exact ⟨_, rfl, hstate, hlast⟩

end

/-- A trip shuts the power stage down, with its cause and the voltage in the power-fault area (R400, R406). -/
theorem exec_thermalTrip_stops {s : State} {x : Sensor} {c trip : Nat} (hx : (thresholds x).2.2 = some trip) (h : trip ≤ c)
    (hgood : s.board.pwrGood = true) : ∃ t, exec (.thermalTrip x c) s = .next t ∧ t.dev.state = .off ∧
      t.board.pwrGood = false ∧ t.flash.powerFault = some (4, s.board.vinMv) := by
  obtain ⟨board, heq, hpwr, hvin⟩ := setSensor_eq s x c
  have hexec : exec (.thermalTrip x c) s = .next (stageDown (setSensor s x c) .thermalTrip (setSensor s x c).board.vinMv) := by
    show execThermalTrip x c s = _
    unfold execThermalTrip
    simp only [hx, heq, hpwr, hgood, h]
    rfl
  rw [hexec, heq, hvin]
  exact ⟨_, rfl, rfl, rfl, rfl⟩

/-- Settles O36, limit by limit. -/
theorem limitsOfPowerAndHeat : Obligations.LimitsOfPowerAndHeat := by
  refine fun s hoff => ⟨fun w hgood => ⟨fun h => exec_powerLimit_keeps hgood (second := true) h,
      fun h => exec_powerLimit_keeps hgood (second := false) h,
      fun hhalt h => exec_powerLimit_fatal hoff hgood hhalt (second := true) h,
      fun hhalt h => exec_powerLimit_fatal hoff hgood hhalt (second := false) h⟩,
    fun x c => ⟨fun hbefore hnow => ?_, fun hbefore => ?_, fun h => ?_, fun hhalt h => exec_thermalLimit_fatal hoff hhalt h,
      fun trip hx h hgood => exec_thermalTrip_stops hx h hgood⟩, fun a => congrArg _ (if_pos (by simp [deviceRuns, hoff]))⟩
  · rw [exec_thermalWarning hoff, if_pos ⟨hbefore, hnow⟩]
  · rw [exec_thermalWarning hoff, if_neg (by omega)]
  · rw [exec_thermalLimit, if_neg (by omega)]

end Sys2Proof.Machine
end

section
/-!
PROOFS. Start-up (R361 to R365, R374, R376): what each of its parts leaves for the next, and the trial that is late (R363).
-/

namespace Sys2Proof.Machine

/-! ### What start-up leaves -/

/-- What the choice of an image and the check of its identity leave to be loaded: the sets, and the flash's counts and maps. -/
def bootData (s : State) : List ConfigSet × Nat × List GroveMap × List (Option (Nat × Nat)) :=
  (s.cfg, s.flash.powerOn, s.flash.groves, s.flash.configs)

@[simp] theorem tally_bootData (s : State) (code source severity p q r t : Nat) :
    bootData (tally s code source severity p q r t) = bootData s := rfl

@[simp] theorem rejected_bootData (s : State) (step : Nat) (img : Mem) (v : Nat) :
    bootData (rejected s step img v) = bootData s := rfl

@[simp] theorem rejected_dev (s : State) (step : Nat) (img : Mem) (v : Nat) : (rejected s step img v).dev = s.dev := rfl

@[simp] theorem failTrial_bootData (s : State) (k step : Nat) : bootData (failTrial s k step) = bootData s := rfl

@[simp] theorem failTrial_dev (s : State) (k step : Nat) : (failTrial s k step).dev = s.dev := rfl

theorem bootSlot_leaves (s : State) : (bootSlot s).1.dev = s.dev ∧ bootData (bootSlot s).1 = bootData s := by
  unfold bootSlot
  dsimp only
  repeat' split
  all_goals simp

theorem bootTrust_leaves (s : State) (env : BootEnv) :
    bootData (bootTrust s env) = bootData s ∧ (bootTrust s env).dev = { s.dev with
      identity := env.sealCause == 0, reference := env.referenceCause == 0, referenceCause := env.referenceCause } := by
  unfold bootTrust
  dsimp only
  repeat' split
  all_goals exact ⟨rfl, rfl⟩

theorem loadFlash_loads (s : State) : (loadFlash s).dev = { s.dev with stale := s.flash.bistDone != s.flash.powerOn } ∧
    (loadFlash s).flash.powerOn = s.flash.powerOn + 1 ∧ (loadFlash s).groves = loadGroves s.flash := by
  unfold loadFlash
  dsimp only
  repeat' split
  all_goals exact ⟨rfl, rfl, rfl⟩

/-- A set whose content the flash holds is in force with it (R354). -/
theorem loadFlash_set {s : State} {i g v : Nat} (hi : i < s.cfg.length) (h : at' s.flash.configs i none = some (g, v)) :
    committed (loadFlash s) (i + 1) = v ∧ inForce (loadFlash s) (i + 1) = v ∧ setGen (loadFlash s) (i + 1) = g := by
  have hset (d : ConfigSet) : at' (loadFlash s).cfg i d = loadedSet s.flash (s.cfg[i], i) := by
    simp [loadFlash_cfg, at', hi]
  simp [committed, inForce, setGen, hset, loadedSet, h]

/-- `s` with the link as the boot's environment trains it. -/
def trained (s : State) (env : BootEnv) : State :=
  { s with link := { s.link with up := decide (0 < env.linkWidth), speed := env.linkSpeed, width := env.linkWidth } }

/-- `s` with its image chosen and its identity and reference table checked, before the flash is loaded. -/
def trusted (s : State) (env : BootEnv) : State := bootTrust (bootSlot (trained s env)).1 env

theorem trusted_dev (s : State) (env : BootEnv) : (trusted s env).dev = { s.dev with
    identity := env.sealCause == 0, reference := env.referenceCause == 0, referenceCause := env.referenceCause } := by
  obtain ⟨hslot, -⟩ := bootSlot_leaves (trained s env)
  obtain ⟨-, htrust⟩ := bootTrust_leaves (bootSlot (trained s env)).1 env
  rw [trusted, htrust, hslot]
  rfl

theorem trusted_data (s : State) (env : BootEnv) : (trusted s env).cfg = s.cfg ∧
    (trusted s env).flash.powerOn = s.flash.powerOn ∧ (trusted s env).flash.groves = s.flash.groves ∧
    (trusted s env).flash.configs = s.flash.configs := by
  obtain ⟨-, hslot⟩ := bootSlot_leaves (trained s env)
  obtain ⟨htrust, -⟩ := bootTrust_leaves (bootSlot (trained s env)).1 env
  simpa [bootData, trusted, trained] using htrust.trans hslot

theorem bootDo_boots {s : State} {env : BootEnv} {k : Nat} (h : (bootSlot (trained s env)).2 = some k) :
    let t := loadFlash (trusted s env)
    bootDo s env = { t with
      dev := { t.dev with booted := k, trial := (fwSlot t k).state == .trial, stage := 2, bootMs := env.bootMs }
      mem := {} } := by
  unfold bootDo
  dsimp only [trained] at h
  dsimp only
  rw [h]
  rfl

theorem bootDo_enters_monitor {s : State} {env : BootEnv} (h : (bootSlot (trained s env)).2 = none) :
    bootDo s env = enterMonitor (bootSlot (trained s env)).1 := by
  unfold bootDo
  dsimp only [trained] at h
  dsimp only
  rw [h]
  rfl

theorem exec_perstRelease_boot {s : State} (env : BootEnv) (hstate : s.dev.state = .start) (hstage : s.dev.stage = 1)
    (hdue : s.dev.startedAt ≤ s.time) : exec (.perstRelease (.boot env)) s = .next (bootDo s env) :=
  congrArg _ (if_pos (by simp [hstate, hstage, hdue]))

/-- The image that verifies boots: identity, flash and sets are loaded, and the memory is empty. -/
theorem exec_perstRelease_boots {s : State} {env : BootEnv} {k : Nat} (hstate : s.dev.state = .start) (hstage : s.dev.stage = 1)
    (hdue : s.dev.startedAt ≤ s.time) (h : (bootSlot (trained s env)).2 = some k) :
    ∃ t, exec (.perstRelease (.boot env)) s = .next t ∧
      t.dev.state = .start ∧ t.dev.stage = 2 ∧ t.dev.booted = k ∧ t.flash.powerOn = s.flash.powerOn + 1 ∧
      t.groves = loadGroves s.flash ∧ t.mem = {} ∧ t.dev.identity = (env.sealCause == 0) ∧
      t.dev.reference = (env.referenceCause == 0) ∧
      (∀ i, i < 6 → i < s.cfg.length → ∀ g v, at' s.flash.configs i none = some (g, v) →
        committed t (i + 1) = v ∧ inForce t (i + 1) = v ∧ setGen t (i + 1) = g) := by
  obtain ⟨hdev, hcount, hgroves⟩ := loadFlash_loads (trusted s env)
  obtain ⟨hcfg, hpower, hmaps, hconfigs⟩ := trusted_data s env
  rw [trusted_dev] at hdev
  refine ⟨_, (exec_perstRelease_boot env hstate hstage hdue).trans (congrArg _ (bootDo_boots h)), ?_, rfl, rfl, ?_, ?_, rfl,
    ?_, ?_, fun i _ hi g v hset => loadFlash_set (hcfg ▸ hi) (hconfigs ▸ hset)⟩
  · simp [hdev, hstate]
  · exact hpower ▸ hcount
  · exact hgroves.trans (by simp [loadGroves, hmaps])
  · simp [hdev]
  · simp [hdev]

theorem exec_perstRelease_monitors {s : State} {env : BootEnv} (hstate : s.dev.state = .start) (hstage : s.dev.stage = 1)
    (hdue : s.dev.startedAt ≤ s.time) (h : (bootSlot (trained s env)).2 = none) :
    ∃ t, exec (.perstRelease (.boot env)) s = .next t ∧ t.dev.state = .recovery ∧ t.dev.monitor = true :=
  ⟨_, (exec_perstRelease_boot env hstate hstage hdue).trans (congrArg _ (bootDo_enters_monitor h)), rfl, rfl⟩

theorem exec_perstRelease_ready {s : State} (hstate : s.dev.state = .start) (hstage : s.dev.stage = 2) :
    exec (.perstRelease .ready) s = .next (readyDo s) :=
  congrArg _ (if_pos (by simp [hstate, hstage]))

/-! ### The end of start-up -/

/-- An answer to a waiting ENTER_STATE reaches the mailboxes and the link alone. -/
theorem answerEnter_leaves (s : State) : (answerEnter s).dev = s.dev ∧ (answerEnter s).sched = s.sched ∧
    (answerEnter s).flash = s.flash := by
  have h : ((answerEnter s).dev, (answerEnter s).sched, (answerEnter s).flash) = (s.dev, s.sched, s.flash) := by
    refine foldl_keeps (fun t => (t.dev, t.sched, t.flash)) (fun t m => ?_) s _
    split
    · split
      · obtain ⟨_, _, heq⟩ := respond_mbx_link t m St.ok [(32, t.dev.state.code)] 0 0
        rw [heq]
      · rfl
    · rfl
  simpa using h

theorem fwSlot_congr {s t : State} (h : t.flash.slots = s.flash.slots) (k : Nat) : fwSlot t k = fwSlot s k := by
  rw [fwSlot, fwSlot, h]

/-- A trial that is promoted is no trial, and its slot is ACTIVE (R363). -/
theorem promote_promotes {s : State} (h : s.dev.trial = true) : (promote s).dev.trial = false ∧
    (s.dev.booted < s.flash.slots.length → (fwSlot (promote s) s.dev.booted).state = .active) := by
  unfold promote
  simp only [h, Bool.not_true, Bool.false_eq_true, if_false]
  refine ⟨rfl, fun hk => ?_⟩
  simp [fwSlot, setSlot, at', hk]

/-- `s` in the state start-up ends in, with its idle islands parked. -/
def atEntry (s : State) : State := idleIslands { s with dev := { s.dev with state := s.dev.target.getD .service, stage := 4 } }

/-- `atEntry`, with the trial promoted where the state allows it. -/
def afterEntry (s : State) : State :=
  if s.dev.target.getD .service = .service || s.dev.target.getD .service = .test then promote (atEntry s) else atEntry s

theorem afterEntry_leaves (s : State) : (afterEntry s).dev.state = s.dev.target.getD .service ∧
    (afterEntry s).dev.stage = 4 ∧ (afterEntry s).sched = s.sched := by
  unfold afterEntry
  split
  · obtain ⟨_, _, _, heq⟩ := promote_eq (atEntry s)
    rw [heq]
    exact ⟨rfl, rfl, rfl⟩
  · exact ⟨rfl, rfl, rfl⟩

/-- The state entered, with the commands answered that waited for it. -/
theorem enterDo_eq (s : State) : enterDo s = tally { answerEnter (afterEntry s) with
    dev := { (answerEnter (afterEntry s)).dev with target := none } } 0x02E0 islandForeman 1
      (s.dev.target.getD .service).code 1 2 0 := by
  unfold enterDo afterEntry atEntry
  rfl

theorem exec_perstRelease_enter {s : State} (hstate : s.dev.state = .start) (hstage : s.dev.stage = 3)
    (hasked : s.dev.shutAsked = false) : exec (.perstRelease .enter) s = .next (enterDo s) := by
  have hdue : (s.dev.state == .start && s.dev.stage == 3 && !s.dev.shutAsked) = true := by simp [hstate, hstage, hasked]
  show execPerstRelease .enter s = _
  unfold execPerstRelease
  rw [done, hdue]
  rfl

theorem exec_perstRelease_enters {s : State} (hstate : s.dev.state = .start) (hstage : s.dev.stage = 3)
    (hasked : s.dev.shutAsked = false) :
    ∃ t, exec (.perstRelease .enter) s = .next t ∧ t.dev.state = s.dev.target.getD .service ∧ t.dev.stage = 4 ∧
      t.dev.target = none ∧ t.sched = s.sched ∧
      (s.dev.trial = true → (s.dev.target.getD .service = .service ∨ s.dev.target.getD .service = .test) →
        t.dev.trial = false ∧ (s.dev.booted < s.flash.slots.length → (fwSlot t s.dev.booted).state = .active)) := by
  obtain ⟨hst, hstg, hsched⟩ := afterEntry_leaves s
  obtain ⟨hdev, hscheds, hflash⟩ := answerEnter_leaves (afterEntry s)
  refine ⟨_, (exec_perstRelease_enter hstate hstage hasked).trans (congrArg _ (enterDo_eq s)), ?_, ?_, rfl, ?_,
    fun htrial hserves => ?_⟩
  · simp [hdev, hst]
  · simp [hdev, hstg]
  · simp [hscheds, hsched]
  · obtain ⟨htrial', hactive⟩ := promote_promotes (s := atEntry s) htrial
    have hpromoted : afterEntry s = promote (atEntry s) := if_pos (by simpa using hserves)
    rw [← hpromoted] at htrial' hactive
    refine ⟨by simp [hdev, htrial'], fun hk => ?_⟩
    rw [fwSlot_congr (s := afterEntry s) (by simp [hflash])]
    exact hactive hk

/-! ### A late trial (R363) -/

theorem exec_fwTrialTimeout_restarts {s : State} (htrial : s.dev.trial = true) (hlate : s.dev.startedAt + 2000000000 ≤ s.time)
    (hstate : s.dev.state = .start ∨ s.dev.state = .recovery) :
    let u := beginStart (deviceReset (failTrial s s.dev.booted 9))
    exec .fwTrialTimeout s = .next { u with
      tally := (failTrial s s.dev.booted 9).tally, dev := { u.dev with startedAt := s.dev.startedAt } } := by
  have hrestarts : (s.dev.trial && !(s.dev.state == .service || s.dev.state == .test) && s.dev.state != .off &&
      s.dev.state != .halt && decide (s.dev.startedAt + 2000000000 ≤ s.time)) = true := by
    obtain hstate | hstate := hstate <;> simp [hstate, htrial, hlate]
  exact congrArg _ (if_pos hrestarts)

theorem exec_fwTrialTimeout_reached {s : State} (hstate : s.dev.state = .service ∨ s.dev.state = .test) :
    exec .fwTrialTimeout s = .next s := by
  show execFwTrialTimeout s = _
  unfold execFwTrialTimeout
  obtain hstate | hstate := hstate <;> simp [hstate, done]

/-- Settles O31, part by part. -/
theorem startUpRunsInOrder : Obligations.StartUpRunsInOrder := by
  refine ⟨fun s env hstate => ⟨fun hstage hdue => ⟨fun k h => exec_perstRelease_boots hstate hstage hdue h,
      exec_perstRelease_monitors hstate hstage hdue⟩,
      fun hstage => ⟨_, exec_perstRelease_ready hstate hstage, hstate, rfl, rfl, rfl, rfl⟩,
      exec_perstRelease_enters hstate⟩,
    fun s htrial hlate => ⟨fun hstate => ⟨_, exec_fwTrialTimeout_restarts htrial hlate hstate, rfl, rfl, rfl,
      fun x hx => ?_, rfl, rfl, rfl⟩, exec_fwTrialTimeout_reached⟩⟩
  simp [fwSlot, at', beginStart, deviceReset, failTrial, setSlot, hx]

end Sys2Proof.Machine
end

section
/-!
PROOFS. Securing and re-encoding (R298 to R312), the Foreman's own fatal error (R373), and participants declared failed (R305 to
R308, R377).
-/

namespace Sys2Proof.Machine

/-! ### Securing (R300, R302, R303) -/

/-- Whether a run's UPDATE tasks have begun: the descriptors it has executed include opcode 8. -/
def hasUpdated (r : Run) : Bool :=
  r.executed.any fun i => match r.adm.image.descs[i.index]? with | some d => d.opcode == 8 | none => false

theorem hasUpdated_of_forall {r : Run}
    (h : ∀ i ∈ r.executed, ∀ d, r.adm.image.descs[i.index]? = some d → d.opcode ≠ 8) : hasUpdated r = false := by
  rw [hasUpdated, List.any_eq_false]
  intro i hi
  split
  next d hd => simpa using h i hi d hd
  next => simp

/-- The generation that a securing step before its first UPDATE makes of its device (R300). -/
def securedGen (s : State) (r : Run) (j : Job) (received : List StripeChunk) : Generation :=
  newGeneration s j r.adm.ctx (r.adm.step - 1) received

/-- `s` with the free generation area of the step's job filled. -/
def filled (s : State) (r : Run) (j : Job) (received : List StripeChunk) : State :=
  setJob s r.adm.job fun k => { k with areas := k.areas.set (1 - j.generation) (some (securedGen s r j received)) }

/-- The job once every member has acknowledged: the filled area is the newest complete one (R302, R303). -/
def settledJob (s : State) (r : Run) (j : Job) (hostOk : Bool) (now : Nat) (k : Job) : Job :=
  let copied := (match j.shoring with | some c => c.hostCopy | none => false) && hostOk
  let free := 1 - j.generation
  dropReturned
    { k with generation := free, secured := some (r.adm.step - 1), since := [], announced := none, reencode := false,
             chunks := [], shares := sharesNow s j r.adm.ctx, restored := [],
             lambda := lambdaNext k.lambda (now - k.lambdaAt) k.failures, lambdaAt := now, failures := 0,
             hostGen := if copied then k.hostGen.set free (some (r.adm.step - 1)) else k.hostGen.set free none }

/-- `s` after a securing step that every member has acknowledged, before the next one is announced. -/
def secureDone (s : State) (r : Run) (j : Job) (received : List StripeChunk) (hostOk : Bool) : State :=
  let u := setJob (filled s r j received) r.adm.job (settledJob s r j hostOk (filled s r j received).time)
  setRun (setJob u r.adm.job fun k => { k with areaBytes := areasBytes u r.adm.job }) fun r => { r with secured := true }

theorem secureDone_leaves (s : State) (r : Run) (j : Job) (received : List StripeChunk) (hostOk : Bool) :
    (secureDone s r j received hostOk).ctxs = s.ctxs ∧
    (secureDone s r j received hostOk).sched.run = s.sched.run.map fun r => { r with secured := true } := by
  simp [secureDone, setRun, filled]

theorem jobAt_secureDone {s : State} {r : Run} {j : Job} (hjob : jobAt s r.adm.job = some j) (received : List StripeChunk)
    (hostOk : Bool) : ∃ areaBytes, jobAt (secureDone s r j received hostOk) r.adm.job =
      some { settledJob s r j hostOk s.time { j with
        areas := j.areas.set (1 - j.generation) (some (securedGen s r j received)) } with areaBytes } := by
  have htime : (filled s r j received).time = s.time := by simp [filled]
  have hfilled : jobAt (filled s r j received) r.adm.job = some { j with
      areas := j.areas.set (1 - j.generation) (some (securedGen s r j received)) } := jobAt_setJob_of_jobAt hjob fun _ => rfl
  have hsettled := jobAt_setJob_of_jobAt (f := settledJob s r j hostOk s.time) hfilled fun _ => rfl
  have hsized := jobAt_setJob_of_jobAt (f := fun k => { k with
    areaBytes := areasBytes (setJob (filled s r j received) r.adm.job (settledJob s r j hostOk s.time)) r.adm.job }) hsettled
    fun _ => rfl
  rw [secureDone, htime]
  exact ⟨_, hsized⟩

section
variable {s : State} {r : Run} {j : Job} (hrun : s.sched.run = some r) (hjob : jobAt s r.adm.job = some j)
  (hsecuring : r.adm.securing = true) (hsecured : r.secured = false) (hswitched : r.switched = true)
  (hupdated : hasUpdated r = false)
include hrun hjob hsecuring hsecured hswitched hupdated

theorem exec_securing (received : List StripeChunk) (ack : Bool) (back : Option Returned) (hostOk : Bool) :
    exec (.securing r.adm.job ⟨received, ack, back⟩ hostOk) s = .next (
      if !ack then filled s r j received
      else announceNext (tally (secureDone s r j received hostOk) 0x02A0 islandCollective 1 (lo32 (r.adm.step - 1))
        (hi32 (r.adm.step - 1)) (securedGen s r j received).parity.length (if j.reencode then 2 else 1)) r.adm.job) := by
  have hgo : ¬ (r.adm.job ≠ r.adm.job || !r.adm.securing || r.secured || !r.switched || hasUpdated r) = true := by
    simp [hsecuring, hsecured, hswitched, hupdated]
  show execSecuring r.adm.job ⟨received, ack, back⟩ hostOk s = _
  unfold execSecuring
  rw [hrun, hjob]
  refine congrArg _ ((if_neg hgo).trans ?_)
  unfold secureDone filled settledJob securedGen
  rfl

/-- The acknowledged securing makes the filled area the newest complete one, and the areas change places. -/
theorem exec_securing_completes (received : List StripeChunk) (back : Option Returned) (hostOk : Bool) :
    ∃ t r' k, exec (.securing r.adm.job ⟨received, true, back⟩ hostOk) s = .next t ∧ t.sched.run = some r' ∧
      r'.secured = true ∧ jobAt t r.adm.job = some k ∧ k.generation = 1 - j.generation ∧
      k.secured = some (r.adm.step - 1) ∧ k.since = [] ∧
      k.areas = j.areas.set (1 - j.generation) (some (securedGen s r j received)) ∧
      k.failures = 0 ∧ k.lambdaAt = s.time ∧ t.ctxs = s.ctxs := by
  obtain ⟨hctxs, hruns⟩ := secureDone_leaves s r j received hostOk
  obtain ⟨_, hk⟩ := jobAt_secureDone hjob received hostOk
  obtain ⟨_, _, hk'⟩ := jobAt_announceNext_eq (s := tally (secureDone s r j received hostOk) 0x02A0 islandCollective 1
    (lo32 (r.adm.step - 1)) (hi32 (r.adm.step - 1)) (securedGen s r j received).parity.length (if j.reencode then 2 else 1)) hk
  obtain ⟨hsched, hctxs', -⟩ := announceNext_keeps (s := tally (secureDone s r j received hostOk) 0x02A0 islandCollective 1
    (lo32 (r.adm.step - 1)) (hi32 (r.adm.step - 1)) (securedGen s r j received).parity.length (if j.reencode then 2 else 1))
    (k := r.adm.job)
  refine ⟨_, { r with secured := true }, _,
    exec_securing hrun hjob hsecuring hsecured hswitched hupdated received true back hostOk,
    ?_, rfl, hk', rfl, rfl, rfl, rfl, rfl, rfl, hctxs'.trans hctxs⟩
  exact (congrArg Sched.run hsched).trans (by simpa [hrun] using hruns)

end

/-- A device that is back and not yet joined takes its shards from what the owners return (R312). -/
theorem exec_securing_returns {s : State} {job : Nat} {j : Job} (x : Returned) (received : List StripeChunk) (ack hostOk : Bool)
    (hrun : s.sched.run = none) (hruns : fabricRuns s = true) (hjob : jobAt s job = some j) (hbox : j.box ≠ none)
    (hjoined : j.joined = false) : exec (.securing job ⟨received, ack, some x⟩ hostOk) s = .next (takeBack s job x) := by
  have hback : (j.box.isSome && !j.joined && fabricRuns s) = true := by
    simp [Option.isSome_iff_ne_none, hbox, hjoined, hruns]
  show execSecuring job ⟨received, ack, some x⟩ hostOk s = _
  unfold execSecuring
  rw [hrun, hjob]
  exact congrArg _ (if_pos hback)

/-! ### Re-encoding (R309) -/

theorem exec_reencodingAnnounce {s : State} {job : Nat} {j : Job} (step : Nat) (hjob : jobAt s job = some j)
    (hshoring : j.shoring ≠ none) : exec (.reencodingAnnounce job step) s = .next (match unprotected s job with
      | some g => tally (setJob s job fun j => { j with degraded := true, since := [] }) 0x02A5 islandCollective 3 g.1 g.2 0 0
      | none => setJob s job fun j => { j with announced := some (step - 1), reencode := true }) := by
  show execReencodingAnnounce job step s = _
  unfold execReencodingAnnounce
  rw [hjob]
  exact congrArg _ (if_neg (by simpa using hshoring))

/-! ### The Foreman's own fatal error (R373) -/

/-- A fatal error that answers no command leaves every mailbox (R373). -/
theorem fatalWith_unanswered_mbx (severity : Nat) (s : State) (code source p q u v : Nat) :
    (fatalWith false severity s code source p q u v).mbx = s.mbx := by
  have hrecords (t : State) (l : List Admitted) (f : StepRec → StepRec) :
      (l.foldl (fun t a => setRecord t a.job a.step f) t).mbx = t.mbx := (foldl_setRecord_leaves _ _ f t l).1.mbx
  have hvoided (t : State) (cause : Nat) (hit : Admitted → Bool) : (voidSteps t cause hit).mbx = t.mbx :=
    (voidSteps_leaves t cause hit).1.mbx
  unfold fatalWith
  split
  · rfl
  · rfl
  · dsimp only
    split <;> simp [stopIslands, stopPorts, hrecords, hvoided]

theorem exec_foremanFatal {s : State} (hoff : s.dev.state ≠ .off) (hhalt : s.dev.state ≠ .halt) : exec .foremanFatal s = .next
    (let t := fatalWith false 4 s 0x02EA islandForeman 0 0 0 0
     { t with dev := { t.dev with foremanDead := true } }) :=
  congrArg _ (if_neg (by simp [hoff, hhalt]))

/-- A dead Foreman answers no mailbox. -/
theorem exec_mbxDoorbell_take_dead {s : State} (h : s.dev.foremanDead = true) (m : Fin 64) :
    exec (.mbxDoorbell m .take) s = .next s :=
  congrArg _ (if_neg (by simp [h]))

theorem workOf_dead {s : State} (h : s.dev.foremanDead = true) (m op : Nat) : workOf s m op = none := by
  unfold workOf
  split
  · simp [h]
  · rfl

/-- Settles O52, event by event. -/
theorem securingAndReencoding : Obligations.SecuringAndReencoding := by
  refine ⟨fun s received hostOk back => ⟨fun r j hrun hjob hsecuring hsecured hswitched hnot => ?_,
      fun job j x received ack hrun hoff hhalt hjob hbox hjoined =>
        exec_securing_returns x received ack hostOk hrun (by simp [fabricRuns, hoff, hhalt]) hjob hbox hjoined⟩,
    fun s => ⟨fun job step j hjob hshoring => ⟨fun h => ?_, fun g h => ?_⟩, fun hoff hhalt => ?_⟩⟩
  · have hupdated := hasUpdated_of_forall hnot
    exact ⟨(exec_securing hrun hjob hsecuring hsecured hswitched hupdated received false back hostOk).trans
        (congrArg _ (setJob_congr hjob rfl)),
      exec_securing_completes hrun hjob hsecuring hsecured hswitched hupdated received back hostOk, rfl, rfl⟩
  · rw [exec_reencodingAnnounce step hjob hshoring, h]
  · rw [exec_reencodingAnnounce step hjob hshoring, h]
  · obtain ⟨hstate, hlast, hrun, hqueue⟩ := fatalWith_halts (answer := false) (severity := 4) (code := 0x02EA)
      (source := islandForeman) (p := 0) (q := 0) (u := 0) (v := 0) hoff hhalt
    exact ⟨_, exec_foremanFatal hoff hhalt, hstate, rfl, hlast, fatalWith_unanswered_mbx .., hrun, hqueue,
      exec_mbxDoorbell_take_dead rfl, fun m => workOf_dead rfl m⟩

/-! ### Failed participants (R305, R306, R310) -/

theorem jobAt_of_jobs {s t : State} (h : t.jobs = s.jobs) (k : Nat) : jobAt t k = jobAt s k := by
  rw [jobAt, jobAt, h]

theorem deviceNumber_congr {s t : State} (hcfg : t.cfg = s.cfg) (hboard : t.board = s.board) :
    deviceNumber t = deviceNumber s := by
  simp only [deviceNumber, nodeOf, inForce, hcfg, hboard]

/-- Nothing that is declared already, is this device itself or takes no part in the job is declared failed. -/
theorem declareFailed_twice {s : State} {job device : Nat} {j : Job} (hj : jobAt s job = some j) (h : device ∈ j.failed) :
    declareFailed s job device = s := by
  simp [declareFailed, hj, h]

section
variable {s : State} {job device : Nat} {j : Job} (hj : jobAt s job = some j) (hnew : device ∉ j.failed)
  (hother : device ≠ deviceNumber s) (hpart : device ∈ participants s job)
include hj hnew hother hpart

/-- A participant declared failed for the first time is the last of the job's failures. -/
theorem declareFailed_declares : (declareFailed s job device).sched = s.sched ∧ (declareFailed s job device).ctxs = s.ctxs ∧
    deviceNumber (declareFailed s job device) = deviceNumber s ∧
    ∃ lambda, jobAt (declareFailed s job device) job = some { j with
      failed := j.failed ++ [device], since := j.since ++ [device], lambda, lambdaAt := s.time } := by
  have hgo : ¬ (j.failed.contains device || device == deviceNumber s || !(participants s job).contains device) = true := by
    simp [hnew, hother, hpart]
  unfold declareFailed
  rw [hj]
  dsimp only
  rw [if_neg hgo]
  refine ⟨?_, ?_, deviceNumber_congr ?_ ?_, ?_⟩
  · simp [freeLent]
  · simp [freeLent]
  · simp [freeLent]
  · simp [freeLent]
  · exact ⟨_, jobAt_setJob_of_jobAt (s := freeLent s device) hj fun _ => rfl⟩

/-- Both events declare a participant failed where it is not failed yet. -/
theorem exec_declares_failed (hruns : fabricRuns s = true) :
    ∀ c ∈ [Instr.memberFailed job device false, .leaveNotice job device],
      ∃ t k, exec c s = .next t ∧ jobAt t job = some k ∧ k.failed = j.failed ++ [device] ∧
        k.since = j.since ++ [device] ∧ k.lambdaAt = s.time ∧ t.sched = s.sched ∧ t.ctxs = s.ctxs := by
  obtain ⟨hsched, hctxs, -, lambda, hk⟩ := declareFailed_declares hj hnew hother hpart
  have hexec : ∀ c ∈ [Instr.memberFailed job device false, .leaveNotice job device],
      exec c s = .next (declareFailed s job device) := by
    simp only [List.forall_mem_cons]
    exact ⟨congrArg _ (if_neg (by simp [hruns])), congrArg _ (if_pos hruns), by simp⟩
  exact fun c hc => ⟨_, _, hexec c hc, hk, rfl, rfl, rfl, hsched, hctxs⟩

end

/-- `s` once a failure is declared and agreed. -/
def agreedFailure (s : State) (job device : Nat) : State :=
  setJob (dropAfter (declareFailed s job device) job device) job fun j => { j with agreed := j.agreed ++ [device] }

/-! ### A lost group (R310, R311) -/

theorem releaseTakes_jobs (s : State) (a : Admitted) : (releaseTakes s a).jobs = s.jobs :=
  foldl_keeps State.jobs (fun t x => by simp) s a.takes

/-- `s` with the running step's promise void and its update dropped where a group is lost (R310). -/
def endedByLoss (s : State) (job : Nat) (g : Nat × List Nat × Nat) (lost : List Nat) (held : Bool) : State :=
  let t := tally s 0x02A3 islandCollective 3 g.1 (at' lost 0 0 % 65536 + 65536 * (at' lost 1 0 % 65536)) (lo32 (runStep s))
    (if held then 2 else 1)
  let t := if g.2.1.contains (deviceNumber t) then
    voidSteps t (if g.2.2 = 1 then 3 else 2) fun a => a.job == job && (match t.sched.run with
      | some r => r.adm.step == a.step | none => false) else t
  let t := setRun t fun r => if r.adm.job = job then { r with mismatchEnd := true } else r
  match t.sched.run with
  | some r => if r.adm.job = job then setRecord t job r.adm.step fun x => { x with status := St.groupLost } else t
  | none => t

theorem endedByLoss_jobs (s : State) (job : Nat) (g : Nat × List Nat × Nat) (lost : List Nat) (held : Bool) :
    (endedByLoss s job g lost held).jobs = s.jobs := by
  have hvoided (t : State) (cause : Nat) (hit : Admitted → Bool) : (voidSteps t cause hit).jobs = t.jobs :=
    (voidSteps_leaves t cause hit).1.jobs
  unfold endedByLoss
  dsimp only
  repeat' split
  all_goals simp [hvoided]

/-- The state that a step's loss leaves to the queued steps of its job (R311). -/
def lossMarked (s : State) (job : Nat) (j : Job) (g : Nat × List Nat × Nat) (held : Bool) : State :=
  setJob (endedByLoss s job g (j.since.filter g.2.1.contains) held) job fun j =>
    { j with lost := if held then 2 else 1, restored := [] }

theorem groupLost_eq {s : State} {job : Nat} {j : Job} (hj : jobAt s job = some j) (g : Nat × List Nat × Nat) :
    groupLost s job g =
    let held := match j.shoring with | some c => c.hostCopy | none => false
    if held then lossMarked s job j g held
    else ((lossMarked s job j g held).sched.queue.filter fun a => a.job == job).foldl (fun s a =>
      deviceEvent (setRecord (removeQueued s a) job a.step fun x => { x with state := 4, status := St.groupLost }) 0)
      (lossMarked s job j g held) := by
  unfold groupLost
  rw [hj]
  rfl

/-- A group beyond its parity marks its job as lost, and leaves what the job has adopted. -/
theorem jobAt_groupLost {s : State} {job : Nat} {j : Job} (hj : jobAt s job = some j) (g : Nat × List Nat × Nat) :
    ∃ n, n ≠ 0 ∧ jobAt (groupLost s job g) job = some { j with lost := n, restored := [] } := by
  have hmarked (held : Bool) : jobAt (lossMarked s job j g held) job =
      some { j with lost := if held then 2 else 1, restored := [] } :=
    jobAt_setJob_of_jobAt ((jobAt_of_jobs (endedByLoss_jobs ..) job).trans hj) fun _ => rfl
  have hremoved (v : State) (l : List Admitted) : (l.foldl (fun t a =>
      deviceEvent (setRecord (removeQueued t a) job a.step fun x => { x with state := 4, status := St.groupLost }) 0) v).jobs =
      v.jobs := foldl_keeps State.jobs (fun t a => by simp [removeQueued, releaseTakes_jobs]) v l
  rw [groupLost_eq hj]
  generalize (match j.shoring with | some c => c.hostCopy | none => false) = held
  cases held
  · exact ⟨1, by decide, (jobAt_of_jobs (hremoved ..) job).trans (hmarked false)⟩
  · exact ⟨2, by decide, hmarked true⟩

/-! ### FAILURE_ANNOUNCE (R305, R308) -/

theorem dropAfter_idle {s : State} (hrun : s.sched.run = none) (job device : Nat) : dropAfter s job device = s := by
  rw [dropAfter, hrun]

theorem setRun_idle {s : State} (hrun : s.sched.run = none) (f : Run → Run) : setRun s f = s := by
  rw [setRun, hrun, Option.map_none, ← hrun]

/-- With no step running, an agreed failure changes the job alone. -/
theorem agreedFailure_leaves {s : State} {job device : Nat} {j : Job} (hj : jobAt s job = some j) (hnew : device ∉ j.failed)
    (hother : device ≠ deviceNumber s) (hpart : device ∈ participants s job) (hrun : s.sched.run = none) :
    (agreedFailure s job device).sched.run = none ∧ deviceNumber (agreedFailure s job device) = deviceNumber s ∧
    ∃ lambda, jobAt (agreedFailure s job device) job = some { j with
      failed := j.failed ++ [device], since := j.since ++ [device], lambda, lambdaAt := s.time,
      agreed := j.agreed ++ [device] } := by
  obtain ⟨hsched, -, hnumber, lambda, hk⟩ := declareFailed_declares hj hnew hother hpart
  have hidle : (declareFailed s job device).sched.run = none := by rw [hsched, hrun]
  rw [agreedFailure, dropAfter_idle hidle]
  refine ⟨?_, (deviceNumber_congr ?_ ?_).trans hnumber, lambda, jobAt_setJob_of_jobAt hk fun _ => rfl⟩
  all_goals simp [hidle]

/-- A failure is agreed once. -/
theorem exec_failureAnnounce_agreed {s : State} {job device : Nat} {j : Job} (hj : jobAt s job = some j) (h : device ∈ j.agreed)
    (b : List StripeChunk) (us : Nat) : exec (.failureAnnounce job device b us) s = .next s := by
  have hagreed : (!fabricRuns s || (match jobAt s job with | some j => j.agreed.contains device | none => false)) = true := by
    simp [hj, h]
  exact congrArg _ (if_pos hagreed)

/-- With no step running, a newly agreed failure loses its group, or is rebuilt by a survivor of that group. -/
theorem exec_failureAnnounce {s : State} {job device : Nat} {j k : Job} {g : Nat × List Nat × Nat} (hruns : fabricRuns s = true)
    (hj : jobAt s job = some j) (hnew : device ∉ j.agreed) (hrun : (agreedFailure s job device).sched.run = none)
    (hg : groupOfDevice (agreedFailure s job device) job device = some g)
    (hk : jobAt (agreedFailure s job device) job = some k) (hfailed : device ∈ k.failed) (b : List StripeChunk) (us : Nat) :
    exec (.failureAnnounce job device b us) s = .next (
      let u := agreedFailure s job device
      if g.2.2 < k.since.countP g.2.1.contains then groupLost u job g
      else if deviceNumber u ∉ g.2.1 then u
      else rebuild u job device ⟨b, us⟩) := by
  have hgo : ¬ (!fabricRuns s || (match jobAt s job with | some j => j.agreed.contains device | none => false)) = true := by
    simp [hj, hnew, hruns]
  refine congrArg _ ((if_neg hgo).trans ?_)
  dsimp only
  rw [← agreedFailure, hg, hk]
  simp only [hrun, setRun_idle hrun]
  simp [hfailed]

/-- Settles O53: the events that declare a failure, and FAILURE_ANNOUNCE with no step running. -/
theorem failedMembersAreDeclaredOnce : Obligations.FailedMembersAreDeclaredOnce := by
  intro s job device j hoff hhalt hj
  have hruns : fabricRuns s = true := by simp [fabricRuns, hoff, hhalt]
  refine ⟨rfl, fun h => ⟨?_, ?_⟩, fun hnew hother hpart =>
    exec_declares_failed hj hnew hother hpart hruns, fun b us h => exec_failureAnnounce_agreed hj h b us,
    fun hnew hagreed hother hpart hrun => ?_⟩
  · exact congrArg _ ((if_neg (by simp [hruns])).trans (declareFailed_twice hj h))
  · exact congrArg _ ((if_pos hruns).trans (declareFailed_twice hj h))
  · obtain ⟨hidle, hnumber, lambda, hk⟩ := agreedFailure_leaves hj hnew hother hpart hrun
    refine ⟨_, hk, rfl, rfl, rfl, rfl, fun g hg => ?_⟩
    have hexec := exec_failureAnnounce hruns hj hagreed hidle hg hk (by simp)
    refine ⟨fun hfew hmine b us => ?_, fun hfew hmine b us => ?_, fun hmany b us => ?_⟩
    · refine (hexec b us).trans (congrArg _ ((if_neg (Nat.not_lt.2 hfew)).trans (if_neg ?_)))
      exact not_not.2 (hnumber ▸ hmine)
    · exact (hexec b us).trans (congrArg _ ((if_neg (Nat.not_lt.2 hfew)).trans (if_pos (hnumber ▸ hmine))))
    · obtain ⟨n, hn, hlost⟩ := jobAt_groupLost hk g
      exact ⟨_, _, (hexec b us).trans (congrArg _ (if_pos hmany)), rfl, hlost, hn, rfl⟩

end Sys2Proof.Machine
end
